-- ==== Sys2Proof/Word.lean ====
section
/-! DEFINITION. The word types of the PNV-9740 (spec 00 R2-R4, 05 R144). -/

namespace Sys2Proof

/-- A general, uniform or vector-lane register: 32 bits (R9, R43). -/
abbrev Word := BitVec 32

/-- A register pair, an address, a control register or an instruction word: 64 bits (R4, R144, R311). -/
abbrev DWord := BitVec 64

/-- One byte of memory (R4). -/
abbrev Byte := BitVec 8

/-- A line version: 40 bits, counted modulo 2^40 (R133). -/
abbrev Version := BitVec 40

end Sys2Proof
end

