-- ==== Sys2Proof/Syntax.lean ====
section
/-!
DEFINITION. The instructions and events of the PNV-9740, one constructor for each row of the
opcode table: the 190 major forms of R157 (four of them split by FN or OFF16 as the table splits them)
carry the fields of their format (R145, R146). An event of the machine carries nothing: what names the place
it happens at, or the data of an input, is the EventArgs record that the agenda of State sets for it.
-/

namespace Sys2Proof

/-- Format R (R145, R146). -/
structure RFmt where
  ms : BitVec 4
  fe : BitVec 3
  d : BitVec 6
  a : BitVec 6
  b : BitVec 6
  c : BitVec 6
  fn : BitVec 8
  rm : BitVec 3
  sat : BitVec 1
  ty : BitVec 4
  mod : BitVec 9
  deriving DecidableEq, Repr

/-- Format I (R145, R146). -/
structure IFmt where
  ms : BitVec 4
  fe : BitVec 3
  d : BitVec 6
  a : BitVec 6
  imm : BitVec 24
  fn : BitVec 8
  mod : BitVec 5
  deriving DecidableEq, Repr

/-- Format L (R145, R146). -/
structure LFmt where
  ms : BitVec 4
  fe : BitVec 3
  d : BitVec 6
  a : BitVec 6
  imm : BitVec 32
  fn : BitVec 5
  deriving DecidableEq, Repr

/-- Format B (R145, R146): OFF32 counts 8-byte words. -/
structure BFmt where
  ms : BitVec 4
  fe : BitVec 3
  d : BitVec 6
  a : BitVec 6
  off : BitVec 32
  cnd : BitVec 5
  deriving DecidableEq, Repr

/-- Format M (R145, R146): b = 63 names no offset register. -/
structure MFmt where
  ms : BitVec 4
  fe : BitVec 3
  d : BitVec 6
  a : BitVec 6
  b : BitVec 6
  sp : BitVec 3
  st : BitVec 4
  sc : BitVec 3
  ord : BitVec 2
  sz : BitVec 3
  off : BitVec 16
  deriving DecidableEq, Repr

/-- Format E (R145, R146, R154). -/
structure EFmt where
  ms : BitVec 4
  fe : BitVec 3
  d : BitVec 6
  a : BitVec 6
  b : BitVec 6
  c : BitVec 6
  w0 : BitVec 5
  w1 : BitVec 5
  w2 : BitVec 5
  efn : BitVec 10
  deriving DecidableEq, Repr

/-- The five engine queues of a tile (R44). -/
inductive EngineQ where
  | lq | aq | sq | mq | cq
  deriving DecidableEq, Repr

/-- A queue: one of a tile's five, or the copy queue of a shader band (R44, R256). -/
inductive QRef where
  | tile (u : Nat) (q : EngineQ)
  | band (bid : Nat)
  deriving DecidableEq, Repr

/-- A receiver of invalidation commands (R352, R353): a core or tile with its handles, TLB and copy
queues, a die's walker, a stack's layout unit, or the host port's translation cache (R435). -/
inductive Receiver where
  | unit (u : Nat)
  | walker (die : Nat)
  | layout (stack : Nat)
  | port
  deriving DecidableEq, Repr

/-- How a retrain ends (R412). -/
inductive LinkOutcome where
  | full | half | down
  deriving DecidableEq, Repr

/-- A structure a self-test names (R340, R422): kind, location in the SREG 8 layout, unit index. -/
structure Structure where
  kind : Nat
  loc : Nat
  unit : Nat
  deriving DecidableEq, Repr

/-- Connection management on QP1 (R432): a reliable connected queue pair is opened or closed. -/
inductive CmOp where
  | connect | disconnect
  deriving DecidableEq, Repr

/-- An inbound fabric request (R438): the access another package makes to local memory. -/
inductive FabricOp where
  | read (pa size : Nat)
  | write (pa : Nat) (data : List Byte)
  | atomic (pa : Nat) (op : Nat) (size : Nat) (v : DWord) (cmp : DWord)
  | ldv (pa size : Nat)
  | casv (pa size : Nat) (expected : Version) (v : DWord)
  | version (pa : Nat)
  deriving DecidableEq, Repr

/-- The algorithms an SPDM requester offers (R444). -/
structure SpdmAlgs where
  ecdsaP384 : Bool
  sha384 : Bool
  ecdheSecp384r1 : Bool
  aes256Gcm : Bool
  deriving DecidableEq, Repr

/-- What an event of the machine names: where it happens and, for an input, what arrives. The agenda of
State sets it before the event runs; an event reads the fields its meaning names. `errs` lists, for each codeword of a fill, the
places of its damaged symbols (R400): damage is an input of the machine. -/
structure EventArgs where
  u : Nat := 0
  sub : Nat := 0
  id : Nat := 0
  tid : Nat := 0
  bid : Nat := 0
  hdl : Nat := 0
  team : Nat := 0
  ctx : Nat := 0
  queue : Nat := 0
  lid : Nat := 0
  cl : Nat := 0
  q : QRef := .band 0
  dno : Nat := 0
  chan : Nat := 0
  r : Receiver := .port
  asid : Nat := 0
  line : Nat := 0
  errs : List (List Nat) := []
  stack : Nat := 0
  ch : Nat := 0
  bank : Nat := 0
  layer : Nat := 0
  temp : Nat := 0
  postpone : Bool := false
  die : Nat := 0
  link : Nat := 0
  retrain : LinkOutcome := .full
  struct : Structure := ⟨0, 0, 0⟩
  pass : Bool := true
  qp : Nat := 0
  key : Nat := 0
  va : Nat := 0
  len : Nat := 0
  data : List Byte := []
  v : DWord := 0
  cmp : DWord := 0
  cm : CmOp := .connect
  prio : Nat := 0
  src : Nat := 0
  secured : Bool := false
  fabric : FabricOp := .read 0 0
  fibre : Nat := 0
  algs : SpdmAlgs := ⟨true, true, true, true⟩
  slot : Nat := 0
  discard : Bool := false
  deriving DecidableEq, Repr

/-- Every row of the opcode table. -/
inductive Instr where
  /-- ADD (R177). Opcode 0x01, format R, class C. -/
  | add (f : RFmt)
  /-- ADDI (R178). Opcode 0x02, format I, class C. -/
  | addi (f : IFmt)
  /-- SUB (R177). Opcode 0x03, format R, class C. -/
  | sub (f : RFmt)
  /-- MUL (R177). Opcode 0x04, format R, class C. -/
  | mul (f : RFmt)
  /-- MULH (R177). Opcode 0x05, format R, class C. -/
  | mulh (f : RFmt)
  /-- MAD (R177). Opcode 0x06, format R, class C. -/
  | mad (f : RFmt)
  /-- MIN (R177). Opcode 0x07, format R, class C. -/
  | min (f : RFmt)
  /-- MAX (R177). Opcode 0x08, format R, class C. -/
  | max (f : RFmt)
  /-- ABSD (R177). Opcode 0x09, format R, class C. -/
  | absd (f : RFmt)
  /-- CLAMP (R177). Opcode 0x28, format R, class C. -/
  | clamp (f : RFmt)
  /-- AND (R179). Opcode 0x0A, format R, class C. -/
  | and (f : RFmt)
  /-- ANDI (R178). Opcode 0x0B, format I, class C. -/
  | andi (f : IFmt)
  /-- OR (R179). Opcode 0x0C, format R, class C. -/
  | or (f : RFmt)
  /-- ORI (R178). Opcode 0x0D, format I, class C. -/
  | ori (f : IFmt)
  /-- XOR (R179). Opcode 0x0E, format R, class C. -/
  | xor (f : RFmt)
  /-- XORI (R178). Opcode 0x0F, format I, class C. -/
  | xori (f : IFmt)
  /-- NOT (R179). Opcode 0x10, format R, class C. -/
  | not (f : RFmt)
  /-- SHL (R179). Opcode 0x11, format R, class C. -/
  | shl (f : RFmt)
  /-- SHLI (R178). Opcode 0x12, format I, class C. -/
  | shli (f : IFmt)
  /-- SHR (R179). Opcode 0x13, format R, class C. -/
  | shr (f : RFmt)
  /-- SHRI (R178). Opcode 0x14, format I, class C. -/
  | shri (f : IFmt)
  /-- SAR (R179). Opcode 0x15, format R, class C. -/
  | sar (f : RFmt)
  /-- SARI (R178). Opcode 0x16, format I, class C. -/
  | sari (f : IFmt)
  /-- ROT (R179). Opcode 0x17, format R, class C. -/
  | rot (f : RFmt)
  /-- BFE (R180). Opcode 0x18, format R, class C. -/
  | bfe (f : RFmt)
  /-- BFI (R180). Opcode 0x19, format R, class C. -/
  | bfi (f : RFmt)
  /-- POPC (R181). Opcode 0x1A, format R, class C. -/
  | popc (f : RFmt)
  /-- CLZ (R181). Opcode 0x1B, format R, class C. -/
  | clz (f : RFmt)
  /-- BREV (R181). Opcode 0x1C, format R, class C. -/
  | brev (f : RFmt)
  /-- SEL (R184). Opcode 0x1D, format R, class C. -/
  | sel (f : RFmt)
  /-- CMP (R183). Opcode 0x1E, format R, class C. -/
  | cmp (f : RFmt)
  /-- CMPI (R183). Opcode 0x1F, format I, class C. -/
  | cmpi (f : IFmt)
  /-- SETC (R184). Opcode 0x20, format R, class C. -/
  | setc (f : RFmt)
  /-- MOV (R185). Opcode 0x21, format R, class C. -/
  | mov (f : RFmt)
  /-- MOVI (R186). Opcode 0x22, format L, class C. -/
  | movi (f : LFmt)
  /-- MOVH (R186). Opcode 0x23, format L, class C. -/
  | movh (f : LFmt)
  /-- LEA (R187). Opcode 0x24, format R, class C. -/
  | lea (f : RFmt)
  /-- IDIV (R188). Opcode 0x25, format R, class C. -/
  | idiv (f : RFmt)
  /-- CVTI (R189). Opcode 0x26, format R, class C. -/
  | cvti (f : RFmt)
  /-- BSWZ (R190). Opcode 0x27, format R, class C. -/
  | bswz (f : RFmt)
  /-- FADD (R192). Opcode 0x30, format R, class C. -/
  | fadd (f : RFmt)
  /-- FSUB (R192). Opcode 0x31, format R, class C. -/
  | fsub (f : RFmt)
  /-- FMUL (R192). Opcode 0x32, format R, class C. -/
  | fmul (f : RFmt)
  /-- FFMA (R192). Opcode 0x33, format R, class C. -/
  | ffma (f : RFmt)
  /-- FMIN (R193). Opcode 0x34, format R, class C. -/
  | fmin (f : RFmt)
  /-- FMAX (R193). Opcode 0x35, format R, class C. -/
  | fmax (f : RFmt)
  /-- FCMP (R194). Opcode 0x36, format R, class C. -/
  | fcmp (f : RFmt)
  /-- FCVT (R195). Opcode 0x37, format R, class C. -/
  | fcvt (f : RFmt)
  /-- FRND (R192). Opcode 0x38, format R, class C. -/
  | frnd (f : RFmt)
  /-- FRCP (R192). Opcode 0x39, format R, class C. -/
  | frcp (f : RFmt)
  /-- FRSQ (R192). Opcode 0x3A, format R, class C. -/
  | frsq (f : RFmt)
  /-- FSQRT (R192). Opcode 0x3B, format R, class C. -/
  | fsqrt (f : RFmt)
  /-- FEX2 (R192). Opcode 0x3C, format R, class C. -/
  | fex2 (f : RFmt)
  /-- FLG2 (R192). Opcode 0x3D, format R, class C. -/
  | flg2 (f : RFmt)
  /-- FSIN (R192). Opcode 0x3E, format R, class C. -/
  | fsin (f : RFmt)
  /-- FCOS (R192). Opcode 0x3F, format R, class C. -/
  | fcos (f : RFmt)
  /-- FTANH (R192). Opcode 0x40, format R, class C. -/
  | ftanh (f : RFmt)
  /-- FCLASS (R196). Opcode 0x41, format R, class C. -/
  | fclass (f : RFmt)
  /-- PKADD (R197). Opcode 0x42, format R, class C. -/
  | pkadd (f : RFmt)
  /-- PKMUL (R197). Opcode 0x43, format R, class C. -/
  | pkmul (f : RFmt)
  /-- PKFMA (R197). Opcode 0x44, format R, class C. -/
  | pkfma (f : RFmt)
  /-- PKMIN (R197). Opcode 0x45, format R, class C. -/
  | pkmin (f : RFmt)
  /-- PKMAX (R197). Opcode 0x46, format R, class C. -/
  | pkmax (f : RFmt)
  /-- IDP4 (R198). Opcode 0x47, format R, class C. -/
  | idp4 (f : RFmt)
  /-- FDP2 (R198). Opcode 0x48, format R, class C. -/
  | fdp2 (f : RFmt)
  /-- BRA (R203). Opcode 0x50, format B, class C. -/
  | bra (f : BFmt)
  /-- BRX (R204). Opcode 0x51, format R, class S. -/
  | brx (f : RFmt)
  /-- CALL (R203). Opcode 0x52, format B, class C. -/
  | call (f : BFmt)
  /-- CALLX (R204). Opcode 0x53, format R, class S. -/
  | callx (f : RFmt)
  /-- RET (R205). Opcode 0x54, format R, class C. -/
  | ret (f : RFmt)
  /-- EXIT (R206). Opcode 0x55, format R, class C. -/
  | exit (f : RFmt)
  /-- JOIN (R18). Opcode 0x56, format R, class S. -/
  | join (f : RFmt)
  /-- LEAVE (R19). Opcode 0x57, format R, class S. -/
  | leave (f : RFmt)
  /-- WAITM (R20). Opcode 0x58, format R, class S. -/
  | waitm (f : RFmt)
  /-- MSET (R200). Opcode 0x59, format R, class S. -/
  | mset (f : RFmt)
  /-- MOPS (R200). Opcode 0x5A, format R, class S. -/
  | mops (f : RFmt)
  /-- MPOP (R200). Opcode 0x5B, format R, class S. -/
  | mpop (f : RFmt)
  /-- MFFS (R200). Opcode 0x5C, format R, class S. -/
  | mffs (f : RFmt)
  /-- POLL (R201). Opcode 0x5D, format R, class S. -/
  | poll (f : RFmt)
  /-- LBITS (R201). Opcode 0x5E, format R, class S. -/
  | lbits (f : RFmt)
  /-- XLANE (R202). Opcode 0x5F, format R, class S. -/
  | xlane (f : RFmt)
  /-- NOP (R207). Opcode 0x60, format R, class C. -/
  | nop (f : RFmt)
  /-- TRAP (R207). Opcode 0x61, format I, class C. -/
  | trap (f : IFmt)
  /-- BKPT (R207). Opcode 0x62, format I, class C. -/
  | bkpt (f : IFmt)
  /-- CLK (R209). Opcode 0x63, format R, class C. -/
  | clk (f : RFmt)
  /-- SREG (R210). Opcode 0x64, format I, class C. -/
  | sreg (f : IFmt)
  /-- YIELD (R207). Opcode 0x65, format R, class C. -/
  | yield (f : RFmt)
  /-- SLEEP (R208). Opcode 0x66, format I, class C. -/
  | sleep (f : IFmt)
  /-- LDL (R222). Opcode 0x70, format M, class C. -/
  | ldl (f : MFmt)
  /-- STL (R222). Opcode 0x71, format M, class C. -/
  | stl (f : MFmt)
  /-- LDS (R222). Opcode 0x72, format M, class C. -/
  | lds (f : MFmt)
  /-- STS (R222). Opcode 0x73, format M, class C. -/
  | sts (f : MFmt)
  /-- LDC (R222). Opcode 0x74, format M, class C. -/
  | ldc (f : MFmt)
  /-- STC (R222). Opcode 0x75, format M, class C. -/
  | stc (f : MFmt)
  /-- LDP (R222). Opcode 0x76, format M, class C. -/
  | ldp (f : MFmt)
  /-- STP (R222). Opcode 0x77, format M, class C. -/
  | stp (f : MFmt)
  /-- LDG (R222). Opcode 0x78, format M, class C. -/
  | ldg (f : MFmt)
  /-- STG (R222). Opcode 0x79, format M, class C. -/
  | stg (f : MFmt)
  /-- LDV (R225). Opcode 0x7A, format M, class C. -/
  | ldv (f : MFmt)
  /-- VSET (R226). Opcode 0x7B, format R, class C. -/
  | vset (f : RFmt)
  /-- CASV (R227). Opcode 0x7C, format M, class C. -/
  | casv (f : MFmt)
  /-- ATOM (R229). Opcode 0x7D, format M, class C. -/
  | atom (f : MFmt)
  /-- RED (R230). Opcode 0x7E, format M, class C. -/
  | red (f : MFmt)
  /-- ATOMS (R231). Opcode 0x7F, format M, class C. -/
  | atoms (f : MFmt)
  /-- TRN (R214). Opcode 0x80, format M, class C. -/
  | trn (f : MFmt)
  /-- HREL (R216). Opcode 0x81, format R, class C. -/
  | hrel (f : RFmt)
  /-- HQRY (R217). Opcode 0x82, format R, class C. -/
  | hqry (f : RFmt)
  /-- PREF (R232). Opcode 0x83, format M, class C. -/
  | pref (f : MFmt)
  /-- FENCE (R233). Opcode 0x84, format M, class C. -/
  | fence (f : MFmt)
  /-- FXI (R234). Opcode 0x85, format M, class C. -/
  | fxi (f : MFmt)
  /-- FXW (R235). Opcode 0x86, format R, class C. -/
  | fxw (f : RFmt)
  /-- MCST (R224). Opcode 0x87, format M, class C. -/
  | mcst (f : MFmt)
  /-- BAR (R241). Opcode 0x90, format I, class C. -/
  | bar (f : IFmt)
  /-- BARA (R241). Opcode 0x91, format I, class C. -/
  | bara (f : IFmt)
  /-- BARW (R241). Opcode 0x92, format I, class C. -/
  | barw (f : IFmt)
  /-- CBAR (R242). Opcode 0x93, format I, class C. -/
  | cbar (f : IFmt)
  /-- LBAR (R243). Opcode 0x94, format I, class S. -/
  | lbar (f : IFmt)
  /-- FETCHW (R246). Opcode 0x95, format I, class S. -/
  | fetchw (f : IFmt)
  /-- NOTIFY (R247). Opcode 0x96, format I, class C. -/
  | notify (f : IFmt)
  /-- WPRED (R248). Opcode 0x97, format I, class C. -/
  | wpred (f : IFmt)
  /-- TWAIT (R249). Opcode 0x98, format I, class C. -/
  | twait (f : IFmt)
  /-- CANCEL (R250). Opcode 0x99, format I, class C. -/
  | cancel (f : IFmt)
  /-- CNTQ (R251). Opcode 0x9A, format I, class C. -/
  | cntq (f : IFmt)
  /-- EVWAIT (R238). Opcode 0x9B, format M, class C. -/
  | evwait (f : MFmt)
  /-- EVSIG (R237). Opcode 0x9C, format M, class C. -/
  | evsig (f : MFmt)
  /-- GANG (R258). Opcode 0xA0, format R, class S. -/
  | gang (f : RFmt)
  /-- GMMA (R260). Opcode 0xA1, format R, class S. -/
  | gmma (f : RFmt)
  /-- GLDF (R262). Opcode 0xA2, format M, class S. -/
  | gldf (f : MFmt)
  /-- GSTF (R262). Opcode 0xA3, format M, class S. -/
  | gstf (f : MFmt)
  /-- CMPRS (R263). Opcode 0xA4, format R, class C. -/
  | cmprs (f : RFmt)
  /-- DCMPRS (R263). Opcode 0xA5, format R, class C. -/
  | dcmprs (f : RFmt)
  /-- RAYB (R266). Opcode 0xA6, format R, class S. -/
  | rayb (f : RFmt)
  /-- RAYQ (R268). Opcode 0xA7, format R, class S. -/
  | rayq (f : RFmt)
  /-- RAYN (R269). Opcode 0xA8, format R, class S. -/
  | rayn (f : RFmt)
  /-- RAYC (R270). Opcode 0xA9, format R, class S. -/
  | rayc (f : RFmt)
  /-- BVHR (R271). Opcode 0xAA, format E, class S. -/
  | bvhr (f : EFmt)
  /-- TQCFG (R272). Opcode 0xB0, format I, class T. -/
  | tqcfg (f : IFmt)
  /-- TOKR (R272). Opcode 0xB1, format I, class T. -/
  | tokr (f : IFmt)
  /-- OCLM (R56). Opcode 0xB2, format E, class T. -/
  | oclm (f : EFmt)
  /-- OREL (R56). Opcode 0xB3, format E, class T. -/
  | orel (f : EFmt)
  /-- OLD (R273). Opcode 0xB4, format E, class T. -/
  | old (f : EFmt)
  /-- MMA (R274). Opcode 0xB5, format E, class T. -/
  | mma (f : EFmt)
  /-- MMAS (R275). Opcode 0xB6, format E, class T. -/
  | mmas (f : EFmt)
  /-- MZERO (R276). Opcode 0xB7, format E, class T. -/
  | mzero (f : EFmt)
  /-- MDRN (R277). Opcode 0xB8, format E, class T. -/
  | mdrn (f : EFmt)
  /-- MCFG (R272). Opcode 0xB9, format I, class T. -/
  | mcfg (f : IFmt)
  /-- VLD (R278). Opcode 0xBA, format E, class T. -/
  | vld (f : EFmt)
  /-- VST (R278). Opcode 0xBB, format E, class T. -/
  | vst (f : EFmt)
  /-- VADD (R279). Opcode 0xBC, format E, class T. -/
  | vadd (f : EFmt)
  /-- VSUB (R279). Opcode 0xBD, format E, class T. -/
  | vsub (f : EFmt)
  /-- VMUL (R279). Opcode 0xBE, format E, class T. -/
  | vmul (f : EFmt)
  /-- VFMA (R279). Opcode 0xBF, format E, class T. -/
  | vfma (f : EFmt)
  /-- VMIN (R279). Opcode 0xC0, format E, class T. -/
  | vmin (f : EFmt)
  /-- VMAX (R279). Opcode 0xC1, format E, class T. -/
  | vmax (f : EFmt)
  /-- VEXP (R279). Opcode 0xC2, format E, class T. -/
  | vexp (f : EFmt)
  /-- VRCP (R279). Opcode 0xC3, format E, class T. -/
  | vrcp (f : EFmt)
  /-- VRSQ (R279). Opcode 0xC4, format E, class T. -/
  | vrsq (f : EFmt)
  /-- VTANH (R279). Opcode 0xC5, format E, class T. -/
  | vtanh (f : EFmt)
  /-- VCVT (R280). Opcode 0xC6, format E, class T. -/
  | vcvt (f : EFmt)
  /-- VRED (R279). Opcode 0xC7, format E, class T. -/
  | vred (f : EFmt)
  /-- VBCST (R279). Opcode 0xC8, format E, class T. -/
  | vbcst (f : EFmt)
  /-- VPERM (R279). Opcode 0xC9, format E, class T. -/
  | vperm (f : EFmt)
  /-- VSEL (R279). Opcode 0xCA, format E, class T. -/
  | vsel (f : EFmt)
  /-- VCMP (R279). Opcode 0xCB, format E, class T. -/
  | vcmp (f : EFmt)
  /-- VMOV (R279). Opcode 0xCC, format E, class T. -/
  | vmov (f : EFmt)
  /-- VSCL (R279). Opcode 0xCD, format E, class T. -/
  | vscl (f : EFmt)
  /-- TCPY (R281). Opcode 0xCE, format E, class C. -/
  | tcpy (f : EFmt)
  /-- TCST (R281). Opcode 0xCF, format E, class C. -/
  | tcst (f : EFmt)
  /-- CPY (R282). Opcode 0xD0, format E, class C. -/
  | cpy (f : EFmt)
  /-- CPYM (R282). Opcode 0xD1, format E, class C. -/
  | cpym (f : EFmt)
  /-- RNGD (R284). Opcode 0xD2, format I, class T. -/
  | rngd (f : IFmt)
  /-- RNGA (R285). Opcode 0xD3, format I, class T. -/
  | rnga (f : IFmt)
  /-- RNGF (R285). Opcode 0xD4, format I, class T. -/
  | rngf (f : IFmt)
  /-- BRCV (R286). Opcode 0xD5, format E, class T. -/
  | brcv (f : EFmt)
  /-- TRET_RETRY (R329). Opcode 0xE0, format R, class P. -/
  | tretRetry (f : RFmt)
  /-- TRET_SKIP (R329). Opcode 0xE0, format R, class P. -/
  | tretSkip (f : RFmt)
  /-- TRET_KILL (R329). Opcode 0xE0, format R, class P. -/
  | tretKill (f : RFmt)
  /-- CSRR (R330). Opcode 0xE1, format I, class P. -/
  | csrr (f : IFmt)
  /-- CSRW (R330). Opcode 0xE2, format I, class P. -/
  | csrw (f : IFmt)
  /-- CSRS (R330). Opcode 0xE3, format I, class P. -/
  | csrs (f : IFmt)
  /-- CSRC (R330). Opcode 0xE4, format I, class P. -/
  | csrc (f : IFmt)
  /-- INVQ (R331). Opcode 0xE5, format R, class P. -/
  | invq (f : RFmt)
  /-- INVW (R332). Opcode 0xE6, format R, class P. -/
  | invw (f : RFmt)
  /-- CTXS (R333). Opcode 0xE7, format M, class P. -/
  | ctxs (f : MFmt)
  /-- CTXL (R334). Opcode 0xE8, format M, class P. -/
  | ctxl (f : MFmt)
  /-- HALT (R335). Opcode 0xE9, format R, class P. -/
  | halt (f : RFmt)
  /-- RESM (R335). Opcode 0xEA, format R, class P. -/
  | resm (f : RFmt)
  /-- PRKR_RETRY (R336). Opcode 0xEB, format R, class P. -/
  | prkrRetry (f : RFmt)
  /-- PRKR_SKIP (R336). Opcode 0xEB, format R, class P. -/
  | prkrSkip (f : RFmt)
  /-- PRKR_KILL (R336). Opcode 0xEB, format R, class P. -/
  | prkrKill (f : RFmt)
  /-- SVC (R337). Opcode 0xEC, format I, class C. -/
  | svc (f : IFmt)
  /-- PSET_PIN (R338). Opcode 0xED, format M, class P. -/
  | psetPin (f : MFmt)
  /-- PSET_PINB (R338). Opcode 0xED, format M, class P. -/
  | psetPinb (f : MFmt)
  /-- PSET_UNPIN (R338). Opcode 0xED, format M, class P. -/
  | psetUnpin (f : MFmt)
  /-- PSET_UNPINB (R338). Opcode 0xED, format M, class P. -/
  | psetUnpinb (f : MFmt)
  /-- DRST_QUIESCE (R414). Opcode 0xEE, format R, class P. -/
  | drstQuiesce (f : RFmt)
  /-- DRST_FLUSH (R415). Opcode 0xEE, format R, class P. -/
  | drstFlush (f : RFmt)
  /-- DRST_CORE (R418). Opcode 0xEE, format R, class P. -/
  | drstCore (f : RFmt)
  /-- DRST_ADMIT (R419). Opcode 0xEE, format R, class P. -/
  | drstAdmit (f : RFmt)
  /-- DRST_ENGINE (R79). Opcode 0xEE, format R, class P. -/
  | drstEngine (f : RFmt)
  /-- STEST (R340). Opcode 0xEF, format R, class P. -/
  | stest (f : RFmt)
  /-- UNASSIGNED_OPCODE (R158). Event. -/
  | unassignedOpcode (w : DWord)
  /-- TSTATE_WRITE (R312). Event. -/
  | tstateWrite
  /-- REGROUP (R13). Event. -/
  | regroup
  /-- CALL_STACK_REFILL_RETURN (R288). Event. -/
  | callStackRefillReturn
  /-- PARK_NOTICE_WRITE (R317). Event. -/
  | parkNoticeWrite
  /-- ENGINE_TRAP_ENTRY (R316). Event. -/
  | engineTrapEntry
  /-- LATE_RESULT_DELIVERY (R162). Event. -/
  | lateResultDelivery
  /-- STORE_ACKNOWLEDGE (R124). Event. -/
  | storeAcknowledge
  /-- MEMORY_POINT_PERFORM (R116). Event. -/
  | memoryPointPerform
  /-- EVWAIT_REREAD (R238). Event. -/
  | evwaitReread
  /-- SWAP_OUT (R32). Event. -/
  | swapOut
  /-- TEAM_WAKE (R33). Event. -/
  | teamWake
  /-- QUARANTINE_END (R34). Event. -/
  | quarantineEnd
  /-- TEAM_COMPLETE (R382). Event. -/
  | teamComplete
  /-- LAUNCH_SUBMIT (R364). Event. -/
  | launchSubmit
  /-- LOTTERY_DRAW (R369). Event. -/
  | lotteryDraw
  /-- MACHINE_QUEUE_PLACE (R449). Event. -/
  | machineQueuePlace
  /-- PKGBAR_RESERVE (R381). Event. -/
  | pkgbarReserve
  /-- TEAM_RESIDENT (R373). Event. -/
  | teamResident
  /-- CLUSTER_STEAL (R374). Event. -/
  | clusterSteal
  /-- TENSOR_LAUNCH_PLACE (R375). Event. -/
  | tensorLaunchPlace
  /-- FETCHW_DELIVERY (R37). Event. -/
  | fetchwDelivery
  /-- WPRED_RELEASE (R299). Event. -/
  | wpredRelease
  /-- STEP_BUDGET_REWRITE (R386). Event. -/
  | stepBudgetRewrite
  /-- CONGESTION_LEVEL_MESSAGE (R406). Event. -/
  | congestionLevelMessage
  /-- CONGESTION_LEVEL_EXPIRE (R385). Event. -/
  | congestionLevelExpire
  /-- ENGINE_ENTRY_START (R48). Event. -/
  | engineEntryStart
  /-- ENGINE_ENTRY_COMPLETE (R49). Event. -/
  | engineEntryComplete
  /-- ENGINE_FAULT (R76). Event. -/
  | engineFault
  /-- MMA_KSTEP (R97). Event. -/
  | mmaKstep
  /-- COPY_ROW_LAND (R67). Event. -/
  | copyRowLand
  /-- BVH_REFIT_NODE (R271). Event. -/
  | bvhRefitNode
  /-- BRIDGE_BEAT_LAND (R71). Event. -/
  | bridgeBeatLand
  /-- FXI_POSTED (R129). Event. -/
  | fxiPosted
  /-- TOKEN_WAIT_RELEASE (R53). Event. -/
  | tokenWaitRelease
  /-- RNGA_RELEASE (R69). Event. -/
  | rngaRelease
  /-- FXW_RELEASE (R130). Event. -/
  | fxwRelease
  /-- SLEEP_EXPIRE (R208). Event. -/
  | sleepExpire
  /-- GANG_TIMEOUT (R260). Event. -/
  | gangTimeout
  /-- GMMA_RESULT_DELIVERY (R261). Event. -/
  | gmmaResultDelivery
  /-- TLB_HIT_VALID (R349). Event. -/
  | tlbHitValid
  /-- PAGE_WALK_END (R346). Event. -/
  | pageWalkEnd
  /-- INVALIDATION_BROADCAST (R352). Event. -/
  | invalidationBroadcast
  /-- INVALIDATION_RECEIVE (R353). Event. -/
  | invalidationReceive
  /-- INVALIDATION_ACKNOWLEDGE (R353). Event. -/
  | invalidationAcknowledge
  /-- INVW_RETURN (R332). Event. -/
  | invwReturn
  /-- CTXS_LEG_SAVE (R333). Event. -/
  | ctxsLegSave
  /-- HALT_STOPPED (R327). Event. -/
  | haltStopped
  /-- MIGRATION_REQUEST (R359). Event. -/
  | migrationRequest
  /-- MIGRATION_LINE_COPY (R360). Event. -/
  | migrationLineCopy
  /-- L2_FILL (R390). Event. -/
  | l2Fill
  /-- L2_EVICTION (R393). Event. -/
  | l2Eviction
  /-- QOS_GRANT (R405). Event. -/
  | qosGrant
  /-- LAYER_TEMPERATURE_SAMPLE (R403). Event. -/
  | layerTemperatureSample
  /-- BANK_REFRESH (R403). Event. -/
  | bankRefresh
  /-- REFRESH_AT_LIMIT (R404). Event. -/
  | refreshAtLimit
  /-- FALLBACK_AGENT_PERFORM (R416). Event. -/
  | fallbackAgentPerform
  /-- LINK_FLIT_REPLAY (R411). Event. -/
  | linkFlitReplay
  /-- LINK_RETRAIN_START (R412). Event. -/
  | linkRetrainStart
  /-- LINK_RETRAIN_END (R412). Event. -/
  | linkRetrainEnd
  /-- FATAL_ERROR (R421). Event. -/
  | fatalError
  /-- MATRIX_ENGINE_HANG (R421). Event. -/
  | matrixEngineHang
  /-- TARGETED_SELF_TEST (R422). Event. -/
  | targetedSelfTest
  /-- CLOCK_STRETCH (R425). Event. -/
  | clockStretch
  /-- COLD_RESET (R440). Event. -/
  | coldReset
  /-- DEBUG_ENABLE_CHANGE (R442). Event. -/
  | debugEnableChange
  /-- RECOVERY_IMAGE_LOAD (R441). Event. -/
  | recoveryImageLoad
  /-- RDMA_WRITE (R434). Event. -/
  | rdmaWrite
  /-- RDMA_WRITE_WITH_IMMEDIATE (R434). Event. -/
  | rdmaWriteWithImmediate
  /-- RDMA_READ (R434). Event. -/
  | rdmaRead
  /-- RDMA_SEND (R432). Event. -/
  | rdmaSend
  /-- RDMA_FETCH_ADD (R434). Event. -/
  | rdmaFetchAdd
  /-- RDMA_COMPARE_SWAP (R434). Event. -/
  | rdmaCompareSwap
  /-- CONNECTION_MANAGEMENT (R432). Event. -/
  | connectionManagement
  /-- PRIORITY_FLOW_CONTROL (R432). Event. -/
  | priorityFlowControl
  /-- ECN_MARK (R432). Event. -/
  | ecnMark
  /-- MANAGEMENT_MESSAGE (R432). Event. -/
  | managementMessage
  /-- HOST_TIME_MESSAGE (R446). Event. -/
  | hostTimeMessage
  /-- FABRIC_REQUEST (R438). Event. -/
  | fabricRequest
  /-- OPTICAL_FLIT_REPLAY (R439). Event. -/
  | opticalFlitReplay
  /-- FIBRE_FAILURE (R439). Event. -/
  | fibreFailure
  /-- GET_VERSION (R444). Event. -/
  | getVersion
  /-- GET_CAPABILITIES (R444). Event. -/
  | getCapabilities
  /-- NEGOTIATE_ALGORITHMS (R444). Event. -/
  | negotiateAlgorithms
  /-- GET_DIGESTS (R444). Event. -/
  | getDigests
  /-- GET_CERTIFICATE (R444). Event. -/
  | getCertificate
  /-- CHALLENGE (R444). Event. -/
  | challenge
  /-- GET_MEASUREMENTS (R444). Event. -/
  | getMeasurements
  /-- KEY_EXCHANGE (R444). Event. -/
  | keyExchange
  /-- FINISH (R444). Event. -/
  | finish
  /-- END_SESSION (R444). Event. -/
  | endSession
  /-- UNSUPPORTED_REQUEST (R444). Event. -/
  | unsupportedRequest
  /-- WRITE_POSTED (R122). Event. -/
  | writePosted
  /-- SUPPLY_SAG_END (R425). Event. -/
  | supplySagEnd
  /-- CONTEXT_END (R380). Event. -/
  | contextEnd
  /-- HELD_COMPLETION_RECORD_WRITE (R384). Event. -/
  | heldCompletionRecordWrite
  deriving DecidableEq, Repr

end Sys2Proof
end

