-- ==== Sys2Proof/Machine/Operands.lean ====
section
/-!
DEFINITION. The operand forms of the 190 instruction words (05 R145-R157, and the entries of 06, 07, 08
and 13): for each word which fields it uses, the values R155 allows in the others, and the general
registers it reads and writes.
-/

namespace Sys2Proof.Machine

/-- The field of a source (R148, R160). -/
inductive Fld where
  | a | b | c | d
  deriving DecidableEq, Repr

/-- Instruction classes (R156). -/
inductive Class where
  | c | s | t | p
  deriving DecidableEq, Repr

/-- A general-register source: the field, the first register and how many. -/
structure Src where
  fld : Fld
  reg : Nat
  cnt : Nat
  deriving DecidableEq, Repr

/-- What a word names: are its fields legal, which general registers does it read, which does it write. -/
structure Shape where
  ok : Bool
  srcs : List Src
  dsts : List (Nat × Nat)
  deriving DecidableEq, Repr

/-! ## Field helpers -/

/-- Source of field A. -/
def sa (r : BitVec 6) (cnt : Nat) : Src := ⟨.a, r.toNat, cnt⟩
/-- Source of field B. -/
def sb (r : BitVec 6) (cnt : Nat) : Src := ⟨.b, r.toNat, cnt⟩
/-- Source of field C. -/
def sc (r : BitVec 6) (cnt : Nat) : Src := ⟨.c, r.toNat, cnt⟩
/-- Data source of field D (R148). -/
def sd (r : BitVec 6) (cnt : Nat) : Src := ⟨.d, r.toNat, cnt⟩

/-- TY 2, 3, 6, 7: the integer types of 32 and 64 bits (R151). -/
def isInt (ty : BitVec 4) : Bool := ty == 2 || ty == 3 || ty == 6 || ty == 7
/-- TY 2 or 3: raw 32 or 64 bits. -/
def isBits (ty : BitVec 4) : Bool := ty == 2 || ty == 3
/-- Registers of an operand of type TY: a pair for the 64-bit types (R150). -/
def width (ty : BitVec 4) : Nat := if ty == 3 || ty == 7 then 2 else 1
/-- FN, RM, SAT and MOD are 0 (R155). -/
def plainR (f : RFmt) : Bool := f.fn == 0 && f.rm == 0 && f.sat == 0 && f.mod == 0
/-- MOD holds no bit at or above n. -/
def modBelow (m : BitVec 9) (n : Nat) : Bool := m.toNat < 2 ^ n
/-- A handle field: bits 5:3 zero (R149). -/
def isHdl (r : BitVec 6) : Bool := r.toNat < 8
/-- A mask that is written (R149). -/
def isMaskW (r : BitVec 6) : Bool := r.toNat ≤ 11
/-- A mask that is read: m0-m11, ma, mp (R149). -/
def isMaskR (r : BitVec 6) : Bool := r.toNat ≤ 13
/-- A token in D of format E: 0-30, or 63 for none (R149, R154). -/
def isTokD (r : BitVec 6) : Bool := r.toNat ≤ 30 || r == 63
/-- A token in another field (R149). -/
def isTok (r : BitVec 6) : Bool := r.toNat ≤ 30
/-- The wait fields name no token (R155). -/
def noWaits (f : EFmt) : Bool := f.w0 == 31 && f.w1 == 31 && f.w2 == 31
/-- Bits h down to l of a natural number. -/
def bitsOf (x h l : Nat) : Nat := x / 2 ^ l % 2 ^ (h + 1 - l)

/-! ## Integer and floating forms (06) -/

/-- Two-source integer forms of R177. -/
def int2 (f : RFmt) (sat : Bool) : Shape :=
  ⟨isInt f.ty && f.fn == 0 && f.rm == 0 && f.mod == 0 && (sat || f.sat == 0) && f.c == 0,
   [sa f.a (width f.ty), sb f.b (width f.ty)], [(f.d.toNat, width f.ty)]⟩

/-- MAD and CLAMP (R177). -/
def int3 (f : RFmt) (sat : Bool) : Shape :=
  ⟨isInt f.ty && f.fn == 0 && f.rm == 0 && f.mod == 0 && (sat || f.sat == 0),
   [sa f.a (width f.ty), sb f.b (width f.ty), sc f.c (width f.ty)], [(f.d.toNat, width f.ty)]⟩

/-- The I-format forms of R178; a shift count lies in 0 to n - 1. -/
def immOp (f : IFmt) (shift : Bool) : Shape :=
  let w := if f.fn == 1 then 2 else 1
  ⟨(f.fn == 0 || f.fn == 1) && f.mod == 0 && (!shift || f.imm.toNat < 32 * w),
   [sa f.a w], [(f.d.toNat, w)]⟩

/-- AND, OR, XOR (R179). -/
def logic2 (f : RFmt) : Shape :=
  ⟨isBits f.ty && plainR f && f.c == 0, [sa f.a (width f.ty), sb f.b (width f.ty)],
   [(f.d.toNat, width f.ty)]⟩

/-- NOT, POPC, CLZ, BREV (R179, R181): the result is a pair only where `r` is 2 and TY is 64 bits wide. -/
def bits1 (f : RFmt) (r : Nat) : Shape :=
  ⟨isBits f.ty && plainR f && f.b == 0 && f.c == 0, [sa f.a (width f.ty)],
   [(f.d.toNat, min r (width f.ty))]⟩

/-- SHL, SHR, ROT (TY 2, 3) and SAR (TY 6, 7) of R179: the amount is a single register. -/
def shift (f : RFmt) (signed : Bool) : Shape :=
  ⟨(if signed then f.ty == 6 || f.ty == 7 else isBits f.ty) && plainR f && f.c == 0,
   [sa f.a (width f.ty), sb f.b 1], [(f.d.toNat, width f.ty)]⟩

/-- BFE (R180). -/
def bfeShape (f : RFmt) : Shape :=
  ⟨isInt f.ty && plainR f && f.c == 0, [sa f.a (width f.ty), sb f.b 1], [(f.d.toNat, width f.ty)]⟩

/-- BFI (R180). -/
def bfiShape (f : RFmt) : Shape :=
  ⟨isBits f.ty && plainR f, [sa f.a (width f.ty), sb f.b 1, sc f.c (width f.ty)],
   [(f.d.toNat, width f.ty)]⟩

/-- SEL (R184). -/
def selShape (f : RFmt) : Shape :=
  ⟨isBits f.ty && plainR f, [sa f.a (width f.ty), sb f.b (width f.ty), sc f.c 1],
   [(f.d.toNat, width f.ty)]⟩

/-- FN bits 5:4 of a mask-writing compare: set, and, or; 3 is reserved (R183). -/
def combineLegal (fn : BitVec 8) : Bool := bitsOf fn.toNat 5 4 ≤ 2 && bitsOf fn.toNat 7 6 == 0

/-- CMP (R183). -/
def cmpShape (f : RFmt) : Shape :=
  ⟨isInt f.ty && f.rm == 0 && f.sat == 0 && f.mod == 0 && f.c == 0 && isMaskW f.d &&
     bitsOf f.fn.toNat 2 0 ≤ 5 && bitsOf f.fn.toNat 3 3 == 0 && combineLegal f.fn,
   [sa f.a (width f.ty), sb f.b (width f.ty)], []⟩

/-- CMPI (R183). -/
def cmpiShape (f : IFmt) : Shape :=
  ⟨f.mod == 0 && isMaskW f.d && bitsOf f.fn.toNat 2 0 ≤ 5 && combineLegal f.fn, [sa f.a 1], []⟩

/-- SETC (R184). -/
def setcShape (f : RFmt) : Shape :=
  ⟨isInt f.ty && f.fn.toNat ≤ 5 && f.rm == 0 && f.sat == 0 && f.mod == 0 && f.c == 0,
   [sa f.a (width f.ty), sb f.b (width f.ty)], [(f.d.toNat, 1)]⟩

/-- MOV (R185). -/
def movShape (f : RFmt) : Shape :=
  let base := f.rm == 0 && f.sat == 0 && f.mod == 0 && f.b == 0 && f.c == 0
  if f.fn == 0 then ⟨base && isBits f.ty, [sa f.a (width f.ty)], [(f.d.toNat, width f.ty)]⟩
  else if f.fn == 1 then ⟨base && f.ty == 0, [], [(f.d.toNat, 1)]⟩
  else if f.fn == 2 then ⟨base && f.ty == 0, [sa f.a 1], []⟩
  else if f.fn == 3 then ⟨base && f.ty == 0, [], []⟩
  else ⟨base && f.fn == 4 && f.ty == 0 && isMaskR f.a, [], [(f.d.toNat, 1)]⟩

/-- MOVI (R186). -/
def moviShape (f : LFmt) : Shape :=
  if f.fn == 0 then ⟨f.a == 0, [], [(f.d.toNat, 1)]⟩
  else if f.fn == 1 then ⟨f.a == 0, [], []⟩
  else ⟨f.a == 0 && f.fn == 2, [], [(f.d.toNat, 2)]⟩

/-- MOVH (R186): D is even and the register above it is written. -/
def movhShape (f : LFmt) : Shape :=
  if f.fn == 0 then ⟨f.a == 0 && f.d.toNat % 2 == 0, [], [(f.d.toNat + 1, 1)]⟩
  else ⟨f.a == 0 && f.fn == 1 && f.d.toNat % 2 == 0, [], []⟩

/-- LEA (R187). -/
def leaShape (f : RFmt) : Shape :=
  ⟨f.ty == 0 && f.fn == 0 && f.rm == 0 && f.sat == 0 && modBelow f.mod 4 && f.c == 0,
   [sa f.a 2, sb f.b 1], [(f.d.toNat, 2)]⟩

/-- IDIV (R188). -/
def idivShape (f : RFmt) : Shape :=
  ⟨isInt f.ty && f.fn.toNat ≤ 1 && f.rm == 0 && f.mod == 0 && f.c == 0,
   [sa f.a (width f.ty), sb f.b (width f.ty)], [(f.d.toNat, width f.ty)]⟩

/-- The source type of a conversion: MOD bits 3:0 (R151). -/
def srcTy (f : RFmt) : BitVec 4 := f.mod.setWidth 4

/-- CVTI (R189). -/
def cvtiShape (f : RFmt) : Shape :=
  ⟨f.ty.toNat ≤ 7 && modBelow f.mod 3 && f.fn == 0 && f.rm == 0 && f.b == 0 && f.c == 0,
   [sa f.a (width (srcTy f))], [(f.d.toNat, width f.ty)]⟩

/-- BSWZ (R190). -/
def bswzShape (f : RFmt) : Shape :=
  ⟨f.ty == 0 && f.fn == 0 && f.rm == 0 && f.sat == 0 && modBelow f.mod 8,
   [sa f.a 1, sb f.b 1, sc f.c 1], [(f.d.toNat, 1)]⟩

/-- The rounding field: 0-3, or 0 alone where the entry rounds to nearest (R90). -/
def rmLegal (rm : BitVec 3) (any : Bool) : Bool := if any then rm.toNat ≤ 3 else rm == 0

/-- FP32 with one source (R192). -/
def fp1 (f : RFmt) (rm : Bool) : Shape :=
  ⟨f.ty == 8 && f.fn == 0 && f.sat == 0 && rmLegal f.rm rm && modBelow f.mod 2 && f.b == 0 && f.c == 0,
   [sa f.a 1], [(f.d.toNat, 1)]⟩

/-- FP32 with two sources (R192, R193). -/
def fp2 (f : RFmt) (rm : Bool) : Shape :=
  ⟨f.ty == 8 && f.fn == 0 && f.sat == 0 && rmLegal f.rm rm && modBelow f.mod 4 && f.c == 0,
   [sa f.a 1, sb f.b 1], [(f.d.toNat, 1)]⟩

/-- FFMA (R192). -/
def fp3 (f : RFmt) : Shape :=
  ⟨f.ty == 8 && f.fn == 0 && f.sat == 0 && rmLegal f.rm true && modBelow f.mod 6,
   [sa f.a 1, sb f.b 1, sc f.c 1], [(f.d.toNat, 1)]⟩

/-- FCMP (R194). -/
def fcmpShape (f : RFmt) : Shape :=
  let base := f.ty == 8 && f.rm == 0 && f.sat == 0 && modBelow f.mod 4 && f.c == 0 && combineLegal f.fn
  if f.fn.getLsbD 3 then ⟨base && isMaskW f.d, [sa f.a 1, sb f.b 1], []⟩
  else ⟨base && bitsOf f.fn.toNat 5 4 == 0, [sa f.a 1, sb f.b 1], [(f.d.toNat, 1)]⟩

/-- FCVT (R195): a floating code on one side at least; E2M1 needs SAT, E8M0 needs RM and SAT 0. -/
def fcvtShape (f : RFmt) : Shape :=
  ⟨f.ty.toNat ≤ 14 && (srcTy f).toNat ≤ 14 && modBelow f.mod 4 && (8 ≤ f.ty.toNat || 8 ≤ (srcTy f).toNat) &&
     f.fn == 0 && rmLegal f.rm true && (f.ty != 13 || f.sat == 1) &&
     (f.ty != 14 || f.rm == 0 && f.sat == 0) && f.b == 0 && f.c == 0,
   [sa f.a (width (srcTy f))], [(f.d.toNat, width f.ty)]⟩

/-- FCLASS (R196). -/
def fclassShape (f : RFmt) : Shape :=
  ⟨(f.ty == 8 || f.ty == 9 || f.ty == 10) && plainR f && f.b == 0 && f.c == 0,
   [sa f.a 1], [(f.d.toNat, 1)]⟩

/-- The packed two-source forms (R197). -/
def pk2 (f : RFmt) (rm : Bool) : Shape :=
  ⟨(f.ty == 9 || f.ty == 10) && f.fn == 0 && f.sat == 0 && rmLegal f.rm rm && modBelow f.mod 4 && f.c == 0,
   [sa f.a 1, sb f.b 1], [(f.d.toNat, 1)]⟩

/-- PKFMA (R197). -/
def pk3 (f : RFmt) : Shape :=
  ⟨(f.ty == 9 || f.ty == 10) && f.fn == 0 && f.sat == 0 && rmLegal f.rm true && modBelow f.mod 6,
   [sa f.a 1, sb f.b 1, sc f.c 1], [(f.d.toNat, 1)]⟩

/-- IDP4 (R198). -/
def idp4Shape (f : RFmt) : Shape :=
  ⟨(f.ty == 2 || f.ty == 6) && f.fn == 0 && f.rm == 0 && modBelow f.mod 2,
   [sa f.a 1, sb f.b 1, sc f.c 1], [(f.d.toNat, 1)]⟩

/-- FDP2 (R198). -/
def fdp2Shape (f : RFmt) : Shape :=
  ⟨f.ty == 8 && (f.mod == 9 || f.mod == 10) && f.fn == 0 && f.sat == 0 && rmLegal f.rm true,
   [sa f.a 1, sb f.b 1, sc f.c 1], [(f.d.toNat, 1)]⟩

/-! ## Control and masks (06) -/

/-- BRA and CALL (R153, R203). -/
def branch (f : BFmt) : Shape :=
  let cond := bitsOf f.cnd.toNat 3 0
  let uni := f.cnd.getLsbD 4
  ⟨f.d == 0 && cond ≤ 6 && (cond != 0 || f.a == 0 && !uni),
   if cond == 0 || uni then [] else [sa f.a 1], []⟩

/-- All fields of format R but FN are 0. -/
def bareR (f : RFmt) (fn : BitVec 8) : Shape :=
  ⟨f.d == 0 && f.a == 0 && f.b == 0 && f.c == 0 && f.fn == fn && f.rm == 0 && f.sat == 0 && f.ty == 0 && f.mod == 0,
   [], []⟩

/-- All fields of format I hold 0 but FN and IMM24. -/
def bareI (f : IFmt) (fn : BitVec 8) (imm : BitVec 24) : Shape :=
  ⟨f.d == 0 && f.a == 0 && f.imm == imm && f.fn == fn && f.mod == 0, [], []⟩

/-- BRX and CALLX (R204). -/
def branchX (f : RFmt) : Shape :=
  ⟨f.d == 0 && f.b == 0 && f.c == 0 && plainR f && f.ty == 0, [sa f.a 2], []⟩

/-- JOIN, LEAVE, WAITM (R199). -/
def maskOnly (f : RFmt) : Shape :=
  ⟨f.d == 0 && isMaskW f.a && f.b == 0 && f.c == 0 && plainR f && f.ty == 0, [], []⟩

/-- RM, SAT, TY and MOD are 0: the mask forms. -/
def maskForm (f : RFmt) : Bool := f.rm == 0 && f.sat == 0 && f.ty == 0 && f.mod == 0

/-- MSET (R200). -/
def msetShape (f : RFmt) : Shape :=
  ⟨maskForm f && isMaskW f.d && f.fn.toNat ≤ 1 && f.b == 0 && f.c == 0,
   if f.fn == 1 then [sa f.a 1] else [], []⟩

/-- MOPS (R200). -/
def mopsShape (f : RFmt) : Shape :=
  ⟨maskForm f && isMaskW f.d && f.fn.toNat ≤ 4 && isMaskR f.a && isMaskR f.b && (f.fn != 4 || f.b == 0) && f.c == 0,
   [], []⟩

/-- MPOP and MFFS (R200). -/
def maskRead (f : RFmt) : Shape :=
  ⟨maskForm f && f.fn.toNat ≤ 1 && isMaskR f.a && f.b == 0 && f.c == 0, [], [(f.d.toNat, 1)]⟩

/-- POLL (R201). -/
def pollShape (f : RFmt) : Shape :=
  ⟨maskForm f && f.fn.toNat ≤ 4 && f.b == 0 && f.c == 0, [sa f.a 1], [(f.d.toNat, 1)]⟩

/-- LBITS (R201). -/
def lbitsShape (f : RFmt) : Shape :=
  ⟨maskForm f && f.fn.toNat ≤ 1 && (f.fn != 1 || isMaskW f.d) && f.b == 0 && f.c == 0, [sa f.a 1],
   if f.fn == 0 then [(f.d.toNat, 1)] else []⟩

/-- XLANE (R202): MOD 2:0 is the width code of .rot, 0-5. -/
def xlaneShape (f : RFmt) : Shape :=
  ⟨f.fn.toNat ≤ 3 && f.rm == 0 && f.sat == 0 && f.ty == 0 && (if f.fn == 2 then f.mod.toNat ≤ 5 else f.mod == 0),
   [sa f.a 1, sb f.b 1, sc f.c 1], [(f.d.toNat, 1)]⟩

/-- TRAP, BKPT, SVC: only IMM24 is used (R207, R337). -/
def immOnly (f : IFmt) : Shape := ⟨f.d == 0 && f.a == 0 && f.fn == 0 && f.mod == 0, [], []⟩

/-- CLK (R207). -/
def clkShape (f : RFmt) : Shape :=
  ⟨f.a == 0 && f.b == 0 && f.c == 0 && plainR f && f.ty == 0, [], [(f.d.toNat, 2)]⟩

/-- SREG (R210): indices 0-17. -/
def sregShape (f : IFmt) : Shape :=
  ⟨f.a == 0 && f.fn == 0 && f.mod == 0 && f.imm.toNat ≤ 17, [], [(f.d.toNat, 1)]⟩

/-- SLEEP (R208): IMM24 is 0 or more. -/
def sleepShape (f : IFmt) : Shape :=
  ⟨f.d == 0 && f.a == 0 && f.fn == 0 && f.mod == 0 && f.imm.toNat < 2 ^ 23, [], []⟩

/-! ## Memory and synchronisation (07) -/

/-- Registers of a data operand of 2^SZ bytes (R152). -/
def szRegs (sz : BitVec 3) : Nat := if sz == 4 then 4 else if sz == 3 then 2 else 1

/-- ORD is among those allowed; SC is not 7, and 0 when ORD is 0 (R119, R121, R152). -/
def orderLegal (f : MFmt) (ords : List Nat) : Bool :=
  ords.contains f.ord.toNat && f.sc != 7 && (f.ord != 0 || f.sc == 0)

/-- The address registers of an operand: a handle and a pair in the global space, single registers
elsewhere; B = 63 names none (R167, R218). -/
def addrSrcs (f : MFmt) : List Src :=
  if f.sp == 4 then (if f.b == 63 then [] else [sb f.b 2])
  else sa f.a 1 :: (if f.b == 63 then [] else [sb f.b 1])

/-- In the global space A names a handle (R218). -/
def addrLegal (f : MFmt) : Bool := f.sp != 4 || isHdl f.a

/-- The loads of R222. -/
def loadShape (f : MFmt) (sp : BitVec 3) : Shape :=
  ⟨f.sp == sp && f.sz.toNat ≤ 4 && orderLegal f [0, 1] && addrLegal f, addrSrcs f, [(f.d.toNat, szRegs f.sz)]⟩

/-- The stores of R222. -/
def storeShape (f : MFmt) (sp : BitVec 3) : Shape :=
  ⟨f.sp == sp && f.sz.toNat ≤ 4 && orderLegal f [0, 2] && addrLegal f, addrSrcs f ++ [sd f.d (szRegs f.sz)], []⟩

/-- VSET and RAYQ: D alone (R226, R268). -/
def vsetShape (f : RFmt) : Shape :=
  ⟨f.a == 0 && f.b == 0 && f.c == 0 && plainR f && f.ty == 0, [], [(f.d.toNat, 1)]⟩

/-- CASV (R227): D a multiple of 4. -/
def casvShape (f : MFmt) : Shape :=
  ⟨f.sp == 4 && (f.sz == 2 || f.sz == 3) && f.off == 0 && f.d.toNat % 4 == 0 && orderLegal f [0, 1, 2, 3] && addrLegal f,
   addrSrcs f ++ [sd f.d 2, ⟨.d, f.d.toNat + 2, szRegs f.sz⟩], [(f.d.toNat, 2)]⟩

/-- The operation code of an atomic: OFF16 bits 3:0, the others 0; .fadd has 4 bytes, .cas is not a RED (R228). -/
def atomLegal (f : MFmt) (cas : Bool) : Bool :=
  f.off.toNat ≤ 10 && (f.sz == 2 || f.sz == 3) && (f.off != 10 || f.sz == 2) && (cas || f.off != 9) &&
  orderLegal f [0, 1, 2, 3] && addrLegal f

/-- ATOM (global) and ATOMS (scratch, cluster) (R228, R229, R231). -/
def atomShape (f : MFmt) (global : Bool) : Shape :=
  let w := szRegs f.sz
  let cas := f.off == 9
  ⟨(if global then f.sp == 4 else f.sp == 1 || f.sp == 2) && atomLegal f true && (!cas || f.d.toNat % (2 * w) == 0),
   addrSrcs f ++ [sd f.d (if cas then 2 * w else w)], [(f.d.toNat, w)]⟩

/-- RED (R230). -/
def redShape (f : MFmt) : Shape :=
  ⟨f.sp == 4 && atomLegal f false, addrSrcs f ++ [sd f.d (szRegs f.sz)], []⟩

/-- TRN (R214). -/
def trnShape (f : MFmt) : Shape :=
  ⟨f.sp == 4 && f.b == 63 && f.st == 0 && f.sc == 0 && f.ord == 0 && f.sz == 0 && f.off == 0 && isHdl f.d,
   [sa f.a 2], []⟩

/-- HREL (R216). -/
def hrelShape (f : RFmt) : Shape :=
  ⟨f.d == 0 && isHdl f.a && f.b == 0 && f.c == 0 && plainR f && f.ty == 0, [], []⟩

/-- HQRY (R217). -/
def hqryShape (f : RFmt) : Shape :=
  ⟨isHdl f.a && f.b == 0 && f.c == 0 && maskForm f && f.fn.toNat ≤ 1, [], [(f.d.toNat, if f.fn == 1 then 2 else 1)]⟩

/-- PREF (R232). -/
def prefShape (f : MFmt) : Shape :=
  ⟨f.sp == 4 && f.sz == 0 && f.ord == 0 && f.sc == 0 && f.st == 0 && f.d.toNat ≤ 1 && addrLegal f, addrSrcs f, []⟩

/-- FENCE (R233). -/
def fenceShape (f : MFmt) : Shape :=
  ⟨f.d == 0 && f.a == 0 && f.sp == 0 && f.st == 0 && f.sz == 0 && f.b == 63 && f.ord != 0 && f.sc != 7, [], []⟩

/-- FXI (R234). -/
def fxiShape (f : MFmt) : Shape :=
  ⟨isTok f.d && f.a == 0 && f.sp == 0 && f.st == 0 && f.sc == 0 && f.ord == 0 && f.sz == 0 && f.b == 63, [], []⟩

/-- FXW (R235). -/
def fxwShape (f : RFmt) : Shape :=
  ⟨isTok f.a && f.d == 0 && f.b == 0 && f.c == 0 && plainR f && f.ty == 0, [], []⟩

/-- The carry count of a barrier word (R239). -/
def carryOf (f : IFmt) : Nat := bitsOf f.imm.toNat 10 4
/-- The barrier number of a barrier word (R239). -/
def barOf (f : IFmt) : Nat := bitsOf f.imm.toNat 3 0

/-- BAR, BARW, CBAR, LBAR (R239). -/
def barShape (f : IFmt) : Shape :=
  ⟨f.imm.toNat < 2 ^ 11 && carryOf f ≤ 64 && f.fn == 0 && f.mod.toNat ≤ 1 && f.a == 0, [], [(f.d.toNat, 1)]⟩

/-- BARA (R239). -/
def baraShape (f : IFmt) : Shape := ⟨f.imm.toNat < 16 && f.d == 0 && f.a == 0 && f.fn == 0 && f.mod == 0, [], []⟩

/-- FETCHW (R246): A and D are both sources. -/
def fetchwShape (f : IFmt) : Shape := ⟨f.imm == 0 && f.fn == 0 && f.mod == 0, [sa f.a 1, sd f.d 1], []⟩

/-- TWAIT (R249). -/
def twaitShape (f : IFmt) : Shape :=
  ⟨isTok f.a && f.imm.toNat ≤ 255 && f.d == 0 && f.fn == 0 && f.mod == 0, [], []⟩

/-- CANCEL (R250). -/
def cancelShape (f : IFmt) : Shape :=
  ⟨f.fn.toNat ≤ 3 && f.d == 0 && f.a == 0 && f.imm == 0 && f.mod == 0, [], []⟩

/-- CNTQ (R251). -/
def cntqShape (f : IFmt) : Shape :=
  ⟨f.fn.toNat ≤ 4 && f.imm == 0 && f.mod == 0 && (f.fn == 4 || f.a == 0),
   if f.fn == 4 then [sa f.a 1] else [], [(f.d.toNat, 2)]⟩

/-- EVWAIT and EVSIG (R236-R238): D is a source of both, and EVWAIT writes it. -/
def evShape (f : MFmt) (ord : Nat) (wait : Bool) : Shape :=
  ⟨(f.sp == 1 || f.sp == 4) && f.sz == 2 && orderLegal f [0, ord] && addrLegal f,
   addrSrcs f ++ [sd f.d 1], if wait then [(f.d.toNat, 1)] else []⟩

/-! ## Gang, compression, ray, engines, copies, rings (08) -/

/-- GANG (R258). -/
def gangShape (f : RFmt) : Shape :=
  ⟨2 ≤ f.fn.toNat && f.fn.toNat ≤ 6 && f.d == 0 && f.b == 0 && f.c == 0 && maskForm f, [sa f.a 1], []⟩

/-- GMMA (R259): the A fragment has 8 or 4 registers as the format word says, so its count stands open here (`srcsOf`); the 32
accumulator registers, which no other operand may lie in, are read and written. -/
def gmmaShape (f : RFmt) : Shape :=
  let apart := fun (r : Nat) => decide (r < f.d.toNat ∨ f.d.toNat + 32 ≤ r)
  ⟨f.d.toNat % 32 == 0 && f.a.toNat % 4 == 0 && plainR f && f.ty == 0 && apart f.a.toNat && apart f.b.toNat && apart f.c.toNat,
   [⟨.a, f.a.toNat, 0⟩, sb f.b 1, sc f.c 1], [(f.d.toNat, 32)]⟩

/-- Registers of a GMMA fragment (R262). -/
def fragRegs (sz : BitVec 3) : Nat := if sz == 0 then 4 else if sz == 1 then 8 else 32

/-- GLDF and GSTF (R262). -/
def fragShape (f : MFmt) (load : Bool) : Shape :=
  ⟨f.sp == 1 && f.sz.toNat ≤ 2 && f.ord == 0 && f.sc == 0,
   addrSrcs f ++ (if load then [] else [sd f.d (fragRegs f.sz)]), if load then [(f.d.toNat, fragRegs f.sz)] else []⟩

/-- Registers of a group form and of a kept form by type (R263). -/
def groupRegs (ty : BitVec 4) : Nat :=
  if ty == 6 || ty == 8 then 4 else if ty == 5 || ty == 9 || ty == 10 then 2 else 1
/-- Registers of a kept form (R263). -/
def keptRegs (ty : BitVec 4) : Nat := if ty == 6 || ty == 8 then 4 else 2

/-- CMPRS and DCMPRS (R263). -/
def cmprsShape (f : RFmt) (fwd : Bool) : Shape :=
  ⟨(f.ty == 4 || f.ty == 5 || f.ty == 6 || (8 ≤ f.ty.toNat && f.ty.toNat ≤ 13)) && plainR f && f.b == 0 && f.c == 0,
   [sa f.a (if fwd then groupRegs f.ty else keptRegs f.ty)],
   [(f.d.toNat, if fwd then keptRegs f.ty else groupRegs f.ty)]⟩

/-- RAYB (R266). -/
def raybShape (f : RFmt) : Shape := ⟨f.d == 0 && isHdl f.b && plainR f && f.ty == 0, [sa f.a 8, sc f.c 2], []⟩

/-- RAYN (R269). -/
def raynShape (f : RFmt) : Shape :=
  ⟨f.fn.toNat ≤ 1 && f.a == 0 && f.b == 0 && f.c == 0 && maskForm f, [], [(f.d.toNat, 4)]⟩

/-- RAYC (R270). -/
def raycShape (f : RFmt) : Shape :=
  ⟨f.fn.toNat ≤ 2 && f.d == 0 && f.a == 0 && f.b == 0 && f.c == 0 && maskForm f, [], []⟩

/-- Scope in EFN 2:0 and stream in 6:3 (R271, R281): scope 7 is reserved. -/
def efnScope (f : EFmt) : Bool := bitsOf f.efn.toNat 2 0 ≤ 6

/-- BVHR (R271). -/
def bvhrShape (f : EFmt) : Shape :=
  ⟨isTokD f.d && isHdl f.a && efnScope f && f.efn.toNat < 128, [sb f.b 2, sc f.c 1], []⟩

/-- TQCFG (R272). -/
def tqcfgShape (f : IFmt) : Shape :=
  ⟨f.d == 0 && f.a == 0 && f.fn == 0 && f.mod == 0 && f.imm.toNat < 2 ^ 11 && 1 ≤ bitsOf f.imm.toNat 7 0 &&
     bitsOf f.imm.toNat 7 0 ≤ 160 && bitsOf f.imm.toNat 10 8 ≤ 4, [], []⟩

/-- TOKR (R272). -/
def tokrShape (f : IFmt) : Shape := ⟨isTok f.a && f.imm == 0 && f.fn == 0 && f.mod == 0, [], [(f.d.toNat, 1)]⟩

/-- MCFG (R272). -/
def mcfgShape (f : IFmt) : Shape := ⟨f.d == 0 && f.a == 0 && f.imm.toNat ≤ 3 && f.fn == 0 && f.mod == 0, [], []⟩

/-- OCLM and OREL (R272). -/
def slotOnly (f : EFmt) (waits : Bool) : Shape :=
  ⟨f.d == 63 && f.a.toNat ≤ 15 && f.b == 0 && f.c == 0 && f.efn == 0 && (waits || noWaits f), [], []⟩

/-- OLD (R273). -/
def oldShape (f : EFmt) : Shape :=
  ⟨isTokD f.d && f.a.toNat ≤ 15 && f.efn.toNat ≤ 1, [sb f.b 1, sc f.c 1], []⟩

/-- MMA and MMAS (R274, R275). -/
def mmaShape (f : EFmt) (bf16 : Bool) : Shape :=
  let fa := bitsOf f.efn.toNat 5 3
  let fb := bitsOf f.efn.toNat 8 6
  ⟨isTokD f.d && f.a.toNat ≤ 3 && f.b.toNat ≤ 15 && f.c.toNat ≤ 15 &&
     (fa ≤ 3 && fb ≤ 3 || bf16 && fa == 4 && fb == 4), [], []⟩

/-- MZERO (R276). -/
def mzeroShape (f : EFmt) : Shape := ⟨isTokD f.d && f.a.toNat ≤ 3 && f.b == 0 && f.c == 0 && f.efn == 0, [], []⟩

/-- MDRN (R277). -/
def mdrnShape (f : EFmt) : Shape :=
  ⟨isTokD f.d && f.a.toNat ≤ 3 && f.efn.toNat < 8 && bitsOf f.efn.toNat 1 0 ≤ 2, [sb f.b 1, sc f.c 1], []⟩

/-- VLD (R278). -/
def vldShape (f : EFmt) : Shape := ⟨isTokD f.d && f.a.toNat ≤ 31 && f.c == 0 && f.efn.toNat ≤ 1, [sb f.b 1], []⟩

/-- VST (R278): n from 0 to 64, 0 meaning 64. -/
def vstShape (f : EFmt) : Shape := ⟨isTokD f.d && f.a.toNat ≤ 31 && f.c == 0 && f.efn.toNat ≤ 64, [sb f.b 1], []⟩

/-- Vector registers in A, B and C, or 0 in C where it is not used. -/
def vregs (f : EFmt) (c : Bool) : Bool :=
  isTokD f.d && f.a.toNat ≤ 31 && f.b.toNat ≤ 31 && (if c then f.c.toNat ≤ 31 else f.c == 0)

/-- VADD, VSUB, VMUL (SAT for the integer types) and VMIN, VMAX (R279). -/
def vec2 (f : EFmt) (sat : Bool) : Shape :=
  let ty := bitsOf f.efn.toNat 1 0
  ⟨vregs f true && ty ≤ 2 && f.efn.toNat < (if sat && ty != 0 then 8 else 4), [], []⟩

/-- VFMA, VPERM, VSEL, VSCL: EFN is 0 (R279). -/
def vec2f (f : EFmt) : Shape := ⟨vregs f true && f.efn == 0, [], []⟩

/-- VEXP, VRCP, VRSQ, VTANH (R279). -/
def vec1 (f : EFmt) : Shape := ⟨vregs f false && f.efn == 0, [], []⟩

/-- VRED (R279). -/
def vredShape (f : EFmt) : Shape :=
  ⟨vregs f false && bitsOf f.efn.toNat 1 0 ≤ 2 && bitsOf f.efn.toNat 3 2 ≤ 2 && f.efn.toNat < 16, [], []⟩

/-- VBCST (R279). -/
def vbcstShape (f : EFmt) : Shape := ⟨vregs f false && bitsOf f.efn.toNat 1 0 == 0 && f.efn.toNat < 256, [], []⟩

/-- VCMP (R279): condition codes of R194 for FP32, of R182 otherwise. -/
def vcmpShape (f : EFmt) : Shape :=
  let ty := bitsOf f.efn.toNat 1 0
  ⟨vregs f true && ty ≤ 2 && f.efn.toNat < 32 && (ty == 0 || bitsOf f.efn.toNat 4 2 ≤ 5), [], []⟩

/-- VMOV (R279): .g takes a general register in C. -/
def vmovShape (f : EFmt) : Shape :=
  if f.efn == 4 then ⟨isTokD f.d && f.a.toNat ≤ 31 && f.b == 0, [sc f.c 1], []⟩
  else ⟨vregs f false && f.efn == 0, [], []⟩

/-- VCVT (R280): exactly one side is FP32. -/
def vcvtShape (f : EFmt) : Shape :=
  let dst := bitsOf f.efn.toNat 3 0
  let src := bitsOf f.efn.toNat 7 4
  ⟨vregs f false && dst ≤ 7 && src ≤ 7 && (dst == 0) != (src == 0) && f.efn.toNat < 512, [], []⟩

/-- TCPY and TCST (R281): B a multiple of 8, g[B+3] ignored. -/
def tcopyShape (f : EFmt) (slot : Bool) : Shape :=
  ⟨isTokD f.d && isHdl f.a && f.b.toNat % 8 == 0 && f.c == 0 && efnScope f && f.efn.toNat < (if slot then 256 else 128),
   [sb f.b 2, ⟨.b, f.b.toNat + 2, 1⟩, ⟨.b, f.b.toNat + 4, 4⟩], []⟩

/-- CPY and CPYM (R282). -/
def cpyShape (f : EFmt) (multi : Bool) : Shape :=
  let ds := bitsOf f.c.toNat 5 3
  let ss := bitsOf f.c.toNat 2 0
  ⟨isTokD f.d && f.b.toNat % 8 == 0 && efnScope f && f.efn.toNat < 128 && (1 ≤ ss && ss ≤ 4) &&
     (if multi then ds == 2 else 1 ≤ ds && ds ≤ 5) && (ds == 4 || bitsOf f.a.toNat 5 3 == 0) &&
     (ss == 4 || bitsOf f.a.toNat 2 0 == 0),
   [⟨.b, f.b.toNat, if ss == 4 then 2 else 1⟩, ⟨.b, f.b.toNat + 2, if ds == 4 then 2 else 1⟩,
    ⟨.b, f.b.toNat + 4, 1⟩] ++ (if multi then [⟨.b, f.b.toNat + 5, 1⟩] else []), []⟩

/-- RNGD (R284). -/
def rngdShape (f : IFmt) : Shape :=
  ⟨f.d == 0 && f.fn == 0 && f.mod == 0 && f.imm.toNat < 2 ^ 17 && bitsOf f.imm.toNat 7 3 ≤ 15, [sa f.a 1], []⟩

/-- RNGA (R285). -/
def rngaShape (f : IFmt) : Shape :=
  ⟨f.a == 0 && f.fn == 0 && f.mod == 0 && f.imm.toNat < 8, [], [(f.d.toNat, 1)]⟩

/-- RNGF (R285). -/
def rngfShape (f : IFmt) : Shape :=
  ⟨f.d == 0 && f.a == 0 && f.fn == 0 && f.mod == 0 && f.imm.toNat < 2 ^ 13, [], []⟩

/-- BRCV (R286). -/
def brcvShape (f : EFmt) : Shape :=
  ⟨f.d == 63 && noWaits f && f.a == 0 && f.c == 0 && f.efn.toNat < 256 && f.b.toNat ≤ 7 &&
     (!f.efn.getLsbD 7 || f.b == 0), [], []⟩

/-! ## System instructions (13) -/

/-- The number names a control register (R311, R424, R436). -/
def csrExists (n : Nat) : Bool :=
  n ≤ 4 || n == 0x008 || n == 0x009 || n == 0x00A || n == 0x010 || n == 0x011 || n == 0x012 ||
  n == 0x020 || n == 0x021 || n == 0x022 || n == 0x030 || n == 0x031 ||
  (0x040 ≤ n && n < 0x080 && n % 8 ≤ 6)

/-- The register has a write level (R311, R424, R436). -/
def csrWritable (n : Nat) : Bool :=
  n ≤ 4 || n == 0x010 || n == 0x011 || n == 0x012 || n == 0x020 || n == 0x021 || n == 0x022 || n == 0x031 ||
  (0x040 ≤ n && n < 0x080 && (n % 8 == 0 || n % 8 == 1 || n % 8 == 4))

/-- CSRR (R330). -/
def csrrShape (f : IFmt) : Shape :=
  ⟨f.a == 0 && f.fn == 0 && f.mod == 0 && csrExists f.imm.toNat, [], [(f.d.toNat, 2)]⟩

/-- CSRW, CSRS, CSRC (R330). -/
def csrwShape (f : IFmt) : Shape :=
  ⟨f.fn == 0 && f.mod == 0 && csrExists f.imm.toNat && csrWritable f.imm.toNat, [sa f.a 2], [(f.d.toNat, 2)]⟩

/-- INVQ (R331): A a multiple of 4. -/
def invqShape (f : RFmt) : Shape :=
  ⟨f.b == 0 && f.c == 0 && plainR f && f.ty == 0, [sa f.a 4], [(f.d.toNat, 1)]⟩

/-- INVW, HALT, RESM, DRST, STEST: D and A (R332, R335, R339, R340). -/
def target1 (f : RFmt) (fn : BitVec 8) : Shape :=
  ⟨f.b == 0 && f.c == 0 && f.fn == fn && maskForm f, [sa f.a 1], [(f.d.toNat, 1)]⟩

/-- CTXS (modifiers in OFF16 bits 1:0) and CTXL (R333, R334). -/
def ctxShape (f : MFmt) (mods : Nat) : Shape :=
  ⟨f.sp == 0 && f.st == 0 && f.sc == 0 && f.ord == 0 && f.sz == 0 && f.off.toNat ≤ mods,
   [sa f.a 1, sb f.b 2], [(f.d.toNat, 1)]⟩

/-- PRKR (R336). -/
def prkrShape (f : RFmt) (fn : BitVec 8) : Shape :=
  ⟨f.c == 0 && f.fn == fn && maskForm f, [sa f.a 1, sb f.b 1], [(f.d.toNat, 1)]⟩

/-- PSET (R338): B names the backing pair of .pinb and is 63 otherwise. -/
def psetShape (f : MFmt) (op : BitVec 16) : Shape :=
  ⟨f.sp == 3 && f.st == 0 && f.sc == 0 && f.ord == 0 && f.sz == 0 && f.off == op && (op == 1 || f.b == 63),
   sa f.a 2 :: (if op == 1 then [sb f.b 2] else []), [(f.d.toNat, 1)]⟩

/-- The major opcodes of R157; the other 66 are those of R158. -/
def assigned (op : Nat) : Bool :=
  (0x01 ≤ op && op ≤ 0x28) || (0x30 ≤ op && op ≤ 0x48) || (0x50 ≤ op && op ≤ 0x66) ||
  (0x70 ≤ op && op ≤ 0x87) || (0x90 ≤ op && op ≤ 0x9C) || (0xA0 ≤ op && op ≤ 0xAA) ||
  (0xB0 ≤ op && op ≤ 0xD5) || (0xE0 ≤ op && op ≤ 0xEF)

/-- The shape of every row: what R155 and the entry allow in its fields, and which general registers it
reads and writes. An event names no register. -/
def shape : Instr → Shape
  | .add f => int2 f true
  | .addi f => immOp f false
  | .sub f => int2 f true
  | .mul f => int2 f true
  | .mulh f => int2 f false
  | .mad f => int3 f true
  | .min f => int2 f false
  | .max f => int2 f false
  | .absd f => int2 f false
  | .clamp f => int3 f false
  | .and f => logic2 f
  | .andi f => immOp f false
  | .or f => logic2 f
  | .ori f => immOp f false
  | .xor f => logic2 f
  | .xori f => immOp f false
  | .not f => bits1 f 2
  | .shl f => shift f false
  | .shli f => immOp f true
  | .shr f => shift f false
  | .shri f => immOp f true
  | .sar f => shift f true
  | .sari f => immOp f true
  | .rot f => shift f false
  | .bfe f => bfeShape f
  | .bfi f => bfiShape f
  | .popc f => bits1 f 1
  | .clz f => bits1 f 1
  | .brev f => bits1 f 2
  | .sel f => selShape f
  | .cmp f => cmpShape f
  | .cmpi f => cmpiShape f
  | .setc f => setcShape f
  | .mov f => movShape f
  | .movi f => moviShape f
  | .movh f => movhShape f
  | .lea f => leaShape f
  | .idiv f => idivShape f
  | .cvti f => cvtiShape f
  | .bswz f => bswzShape f
  | .fadd f => fp2 f true
  | .fsub f => fp2 f true
  | .fmul f => fp2 f true
  | .ffma f => fp3 f
  | .fmin f => fp2 f false
  | .fmax f => fp2 f false
  | .fcmp f => fcmpShape f
  | .fcvt f => fcvtShape f
  | .frnd f => fp1 f true
  | .frcp f => fp1 f true
  | .frsq f => fp1 f false
  | .fsqrt f => fp1 f true
  | .fex2 f => fp1 f false
  | .flg2 f => fp1 f false
  | .fsin f => fp1 f false
  | .fcos f => fp1 f false
  | .ftanh f => fp1 f false
  | .fclass f => fclassShape f
  | .pkadd f => pk2 f true
  | .pkmul f => pk2 f true
  | .pkfma f => pk3 f
  | .pkmin f => pk2 f false
  | .pkmax f => pk2 f false
  | .idp4 f => idp4Shape f
  | .fdp2 f => fdp2Shape f
  | .bra f => branch f
  | .brx f => branchX f
  | .call f => branch f
  | .callx f => branchX f
  | .ret f => bareR f 0
  | .exit f => bareR f 0
  | .join f => maskOnly f
  | .leave f => maskOnly f
  | .waitm f => maskOnly f
  | .mset f => msetShape f
  | .mops f => mopsShape f
  | .mpop f => maskRead f
  | .mffs f => maskRead f
  | .poll f => pollShape f
  | .lbits f => lbitsShape f
  | .xlane f => xlaneShape f
  | .nop f => bareR f 0
  | .trap f => immOnly f
  | .bkpt f => immOnly f
  | .clk f => clkShape f
  | .sreg f => sregShape f
  | .yield f => bareR f 0
  | .sleep f => sleepShape f
  | .ldl f => loadShape f 0
  | .stl f => storeShape f 0
  | .lds f => loadShape f 1
  | .sts f => storeShape f 1
  | .ldc f => loadShape f 2
  | .stc f => storeShape f 2
  | .ldp f => loadShape f 3
  | .stp f => storeShape f 3
  | .ldg f => loadShape f 4
  | .stg f => storeShape f 4
  | .ldv f => loadShape f 4
  | .vset f => vsetShape f
  | .casv f => casvShape f
  | .atom f => atomShape f true
  | .red f => redShape f
  | .atoms f => atomShape f false
  | .trn f => trnShape f
  | .hrel f => hrelShape f
  | .hqry f => hqryShape f
  | .pref f => prefShape f
  | .fence f => fenceShape f
  | .fxi f => fxiShape f
  | .fxw f => fxwShape f
  | .mcst f => storeShape f 4
  | .bar f => barShape f
  | .bara f => baraShape f
  | .barw f => barShape f
  | .cbar f => barShape f
  | .lbar f => barShape f
  | .fetchw f => fetchwShape f
  | .notify f => bareI f 0 0
  | .wpred f => bareI f 0 0
  | .twait f => twaitShape f
  | .cancel f => cancelShape f
  | .cntq f => cntqShape f
  | .evwait f => evShape f 1 true
  | .evsig f => evShape f 2 false
  | .gang f => gangShape f
  | .gmma f => gmmaShape f
  | .gldf f => fragShape f true
  | .gstf f => fragShape f false
  | .cmprs f => cmprsShape f true
  | .dcmprs f => cmprsShape f false
  | .rayb f => raybShape f
  | .rayq f => vsetShape f
  | .rayn f => raynShape f
  | .rayc f => raycShape f
  | .bvhr f => bvhrShape f
  | .tqcfg f => tqcfgShape f
  | .tokr f => tokrShape f
  | .oclm f => slotOnly f false
  | .orel f => slotOnly f true
  | .old f => oldShape f
  | .mma f => mmaShape f true
  | .mmas f => mmaShape f false
  | .mzero f => mzeroShape f
  | .mdrn f => mdrnShape f
  | .mcfg f => mcfgShape f
  | .vld f => vldShape f
  | .vst f => vstShape f
  | .vadd f => vec2 f true
  | .vsub f => vec2 f true
  | .vmul f => vec2 f true
  | .vfma f => vec2f f
  | .vmin f => vec2 f false
  | .vmax f => vec2 f false
  | .vexp f => vec1 f
  | .vrcp f => vec1 f
  | .vrsq f => vec1 f
  | .vtanh f => vec1 f
  | .vcvt f => vcvtShape f
  | .vred f => vredShape f
  | .vbcst f => vbcstShape f
  | .vperm f => vec2f f
  | .vsel f => vec2f f
  | .vcmp f => vcmpShape f
  | .vmov f => vmovShape f
  | .vscl f => vec2f f
  | .tcpy f => tcopyShape f true
  | .tcst f => tcopyShape f false
  | .cpy f => cpyShape f false
  | .cpym f => cpyShape f true
  | .rngd f => rngdShape f
  | .rnga f => rngaShape f
  | .rngf f => rngfShape f
  | .brcv f => brcvShape f
  | .tretRetry f => bareR f 0
  | .tretSkip f => bareR f 1
  | .tretKill f => bareR f 2
  | .csrr f => csrrShape f
  | .csrw f => csrwShape f
  | .csrs f => csrwShape f
  | .csrc f => csrwShape f
  | .tstateWrite => ⟨true, [], []⟩
  | .invq f => invqShape f
  | .invw f => target1 f 0
  | .ctxs f => ctxShape f 3
  | .ctxl f => ctxShape f 0
  | .halt f => target1 f 0
  | .resm f => target1 f 0
  | .prkrRetry f => prkrShape f 0
  | .prkrSkip f => prkrShape f 1
  | .prkrKill f => prkrShape f 2
  | .svc f => immOnly f
  | .psetPin f => psetShape f 0
  | .psetPinb f => psetShape f 1
  | .psetUnpin f => psetShape f 2
  | .psetUnpinb f => psetShape f 3
  | .drstQuiesce f => target1 f 0
  | .drstFlush f => target1 f 1
  | .drstCore f => target1 f 2
  | .drstAdmit f => target1 f 3
  | .drstEngine f => target1 f 4
  | .stest f => target1 f 0
  | .regroup => ⟨true, [], []⟩
  | .callStackRefillReturn => ⟨true, [], []⟩
  | .parkNoticeWrite => ⟨true, [], []⟩
  | .engineTrapEntry => ⟨true, [], []⟩
  | .lateResultDelivery => ⟨true, [], []⟩
  | .storeAcknowledge => ⟨true, [], []⟩
  | .memoryPointPerform => ⟨true, [], []⟩
  | .evwaitReread => ⟨true, [], []⟩
  | .swapOut => ⟨true, [], []⟩
  | .teamWake => ⟨true, [], []⟩
  | .quarantineEnd => ⟨true, [], []⟩
  | .teamComplete => ⟨true, [], []⟩
  | .launchSubmit => ⟨true, [], []⟩
  | .lotteryDraw => ⟨true, [], []⟩
  | .machineQueuePlace => ⟨true, [], []⟩
  | .pkgbarReserve => ⟨true, [], []⟩
  | .teamResident => ⟨true, [], []⟩
  | .clusterSteal => ⟨true, [], []⟩
  | .tensorLaunchPlace => ⟨true, [], []⟩
  | .fetchwDelivery => ⟨true, [], []⟩
  | .wpredRelease => ⟨true, [], []⟩
  | .stepBudgetRewrite => ⟨true, [], []⟩
  | .congestionLevelMessage => ⟨true, [], []⟩
  | .congestionLevelExpire => ⟨true, [], []⟩
  | .engineEntryStart => ⟨true, [], []⟩
  | .engineEntryComplete => ⟨true, [], []⟩
  | .engineFault => ⟨true, [], []⟩
  | .mmaKstep => ⟨true, [], []⟩
  | .copyRowLand => ⟨true, [], []⟩
  | .bvhRefitNode => ⟨true, [], []⟩
  | .bridgeBeatLand => ⟨true, [], []⟩
  | .fxiPosted => ⟨true, [], []⟩
  | .tokenWaitRelease => ⟨true, [], []⟩
  | .rngaRelease => ⟨true, [], []⟩
  | .fxwRelease => ⟨true, [], []⟩
  | .sleepExpire => ⟨true, [], []⟩
  | .gangTimeout => ⟨true, [], []⟩
  | .gmmaResultDelivery => ⟨true, [], []⟩
  | .tlbHitValid => ⟨true, [], []⟩
  | .pageWalkEnd => ⟨true, [], []⟩
  | .invalidationBroadcast => ⟨true, [], []⟩
  | .invalidationReceive => ⟨true, [], []⟩
  | .invalidationAcknowledge => ⟨true, [], []⟩
  | .invwReturn => ⟨true, [], []⟩
  | .ctxsLegSave => ⟨true, [], []⟩
  | .haltStopped => ⟨true, [], []⟩
  | .migrationRequest => ⟨true, [], []⟩
  | .migrationLineCopy => ⟨true, [], []⟩
  | .l2Fill => ⟨true, [], []⟩
  | .l2Eviction => ⟨true, [], []⟩
  | .qosGrant => ⟨true, [], []⟩
  | .layerTemperatureSample => ⟨true, [], []⟩
  | .bankRefresh => ⟨true, [], []⟩
  | .refreshAtLimit => ⟨true, [], []⟩
  | .fallbackAgentPerform => ⟨true, [], []⟩
  | .linkFlitReplay => ⟨true, [], []⟩
  | .linkRetrainStart => ⟨true, [], []⟩
  | .linkRetrainEnd => ⟨true, [], []⟩
  | .fatalError => ⟨true, [], []⟩
  | .matrixEngineHang => ⟨true, [], []⟩
  | .targetedSelfTest => ⟨true, [], []⟩
  | .clockStretch => ⟨true, [], []⟩
  | .coldReset => ⟨true, [], []⟩
  | .debugEnableChange => ⟨true, [], []⟩
  | .recoveryImageLoad => ⟨true, [], []⟩
  | .rdmaWrite => ⟨true, [], []⟩
  | .rdmaWriteWithImmediate => ⟨true, [], []⟩
  | .rdmaRead => ⟨true, [], []⟩
  | .rdmaSend => ⟨true, [], []⟩
  | .rdmaFetchAdd => ⟨true, [], []⟩
  | .rdmaCompareSwap => ⟨true, [], []⟩
  | .connectionManagement => ⟨true, [], []⟩
  | .priorityFlowControl => ⟨true, [], []⟩
  | .ecnMark => ⟨true, [], []⟩
  | .managementMessage => ⟨true, [], []⟩
  | .hostTimeMessage => ⟨true, [], []⟩
  | .fabricRequest => ⟨true, [], []⟩
  | .opticalFlitReplay => ⟨true, [], []⟩
  | .fibreFailure => ⟨true, [], []⟩
  | .getVersion => ⟨true, [], []⟩
  | .getCapabilities => ⟨true, [], []⟩
  | .negotiateAlgorithms => ⟨true, [], []⟩
  | .getDigests => ⟨true, [], []⟩
  | .getCertificate => ⟨true, [], []⟩
  | .challenge => ⟨true, [], []⟩
  | .getMeasurements => ⟨true, [], []⟩
  | .keyExchange => ⟨true, [], []⟩
  | .finish => ⟨true, [], []⟩
  | .endSession => ⟨true, [], []⟩
  | .unsupportedRequest => ⟨true, [], []⟩
  | .unassignedOpcode w => ⟨!assigned (w.extractLsb' 56 8).toNat, [], []⟩
  | .writePosted => ⟨true, [], []⟩
  | .supplySagEnd => ⟨true, [], []⟩
  | .contextEnd => ⟨true, [], []⟩
  | .heldCompletionRecordWrite => ⟨true, [], []⟩

/-- The lane-mask select of a word; events name none (R147). -/
def msOf : Instr → Option (BitVec 4)
  | .add f => some f.ms
  | .addi f => some f.ms
  | .sub f => some f.ms
  | .mul f => some f.ms
  | .mulh f => some f.ms
  | .mad f => some f.ms
  | .min f => some f.ms
  | .max f => some f.ms
  | .absd f => some f.ms
  | .clamp f => some f.ms
  | .and f => some f.ms
  | .andi f => some f.ms
  | .or f => some f.ms
  | .ori f => some f.ms
  | .xor f => some f.ms
  | .xori f => some f.ms
  | .not f => some f.ms
  | .shl f => some f.ms
  | .shli f => some f.ms
  | .shr f => some f.ms
  | .shri f => some f.ms
  | .sar f => some f.ms
  | .sari f => some f.ms
  | .rot f => some f.ms
  | .bfe f => some f.ms
  | .bfi f => some f.ms
  | .popc f => some f.ms
  | .clz f => some f.ms
  | .brev f => some f.ms
  | .sel f => some f.ms
  | .cmp f => some f.ms
  | .cmpi f => some f.ms
  | .setc f => some f.ms
  | .mov f => some f.ms
  | .movi f => some f.ms
  | .movh f => some f.ms
  | .lea f => some f.ms
  | .idiv f => some f.ms
  | .cvti f => some f.ms
  | .bswz f => some f.ms
  | .fadd f => some f.ms
  | .fsub f => some f.ms
  | .fmul f => some f.ms
  | .ffma f => some f.ms
  | .fmin f => some f.ms
  | .fmax f => some f.ms
  | .fcmp f => some f.ms
  | .fcvt f => some f.ms
  | .frnd f => some f.ms
  | .frcp f => some f.ms
  | .frsq f => some f.ms
  | .fsqrt f => some f.ms
  | .fex2 f => some f.ms
  | .flg2 f => some f.ms
  | .fsin f => some f.ms
  | .fcos f => some f.ms
  | .ftanh f => some f.ms
  | .fclass f => some f.ms
  | .pkadd f => some f.ms
  | .pkmul f => some f.ms
  | .pkfma f => some f.ms
  | .pkmin f => some f.ms
  | .pkmax f => some f.ms
  | .idp4 f => some f.ms
  | .fdp2 f => some f.ms
  | .bra f => some f.ms
  | .brx f => some f.ms
  | .call f => some f.ms
  | .callx f => some f.ms
  | .ret f => some f.ms
  | .exit f => some f.ms
  | .join f => some f.ms
  | .leave f => some f.ms
  | .waitm f => some f.ms
  | .mset f => some f.ms
  | .mops f => some f.ms
  | .mpop f => some f.ms
  | .mffs f => some f.ms
  | .poll f => some f.ms
  | .lbits f => some f.ms
  | .xlane f => some f.ms
  | .nop f => some f.ms
  | .trap f => some f.ms
  | .bkpt f => some f.ms
  | .clk f => some f.ms
  | .sreg f => some f.ms
  | .yield f => some f.ms
  | .sleep f => some f.ms
  | .ldl f => some f.ms
  | .stl f => some f.ms
  | .lds f => some f.ms
  | .sts f => some f.ms
  | .ldc f => some f.ms
  | .stc f => some f.ms
  | .ldp f => some f.ms
  | .stp f => some f.ms
  | .ldg f => some f.ms
  | .stg f => some f.ms
  | .ldv f => some f.ms
  | .vset f => some f.ms
  | .casv f => some f.ms
  | .atom f => some f.ms
  | .red f => some f.ms
  | .atoms f => some f.ms
  | .trn f => some f.ms
  | .hrel f => some f.ms
  | .hqry f => some f.ms
  | .pref f => some f.ms
  | .fence f => some f.ms
  | .fxi f => some f.ms
  | .fxw f => some f.ms
  | .mcst f => some f.ms
  | .bar f => some f.ms
  | .bara f => some f.ms
  | .barw f => some f.ms
  | .cbar f => some f.ms
  | .lbar f => some f.ms
  | .fetchw f => some f.ms
  | .notify f => some f.ms
  | .wpred f => some f.ms
  | .twait f => some f.ms
  | .cancel f => some f.ms
  | .cntq f => some f.ms
  | .evwait f => some f.ms
  | .evsig f => some f.ms
  | .gang f => some f.ms
  | .gmma f => some f.ms
  | .gldf f => some f.ms
  | .gstf f => some f.ms
  | .cmprs f => some f.ms
  | .dcmprs f => some f.ms
  | .rayb f => some f.ms
  | .rayq f => some f.ms
  | .rayn f => some f.ms
  | .rayc f => some f.ms
  | .bvhr f => some f.ms
  | .tqcfg f => some f.ms
  | .tokr f => some f.ms
  | .oclm f => some f.ms
  | .orel f => some f.ms
  | .old f => some f.ms
  | .mma f => some f.ms
  | .mmas f => some f.ms
  | .mzero f => some f.ms
  | .mdrn f => some f.ms
  | .mcfg f => some f.ms
  | .vld f => some f.ms
  | .vst f => some f.ms
  | .vadd f => some f.ms
  | .vsub f => some f.ms
  | .vmul f => some f.ms
  | .vfma f => some f.ms
  | .vmin f => some f.ms
  | .vmax f => some f.ms
  | .vexp f => some f.ms
  | .vrcp f => some f.ms
  | .vrsq f => some f.ms
  | .vtanh f => some f.ms
  | .vcvt f => some f.ms
  | .vred f => some f.ms
  | .vbcst f => some f.ms
  | .vperm f => some f.ms
  | .vsel f => some f.ms
  | .vcmp f => some f.ms
  | .vmov f => some f.ms
  | .vscl f => some f.ms
  | .tcpy f => some f.ms
  | .tcst f => some f.ms
  | .cpy f => some f.ms
  | .cpym f => some f.ms
  | .rngd f => some f.ms
  | .rnga f => some f.ms
  | .rngf f => some f.ms
  | .brcv f => some f.ms
  | .tretRetry f => some f.ms
  | .tretSkip f => some f.ms
  | .tretKill f => some f.ms
  | .csrr f => some f.ms
  | .csrw f => some f.ms
  | .csrs f => some f.ms
  | .csrc f => some f.ms
  | .tstateWrite => none
  | .invq f => some f.ms
  | .invw f => some f.ms
  | .ctxs f => some f.ms
  | .ctxl f => some f.ms
  | .halt f => some f.ms
  | .resm f => some f.ms
  | .prkrRetry f => some f.ms
  | .prkrSkip f => some f.ms
  | .prkrKill f => some f.ms
  | .svc f => some f.ms
  | .psetPin f => some f.ms
  | .psetPinb f => some f.ms
  | .psetUnpin f => some f.ms
  | .psetUnpinb f => some f.ms
  | .drstQuiesce f => some f.ms
  | .drstFlush f => some f.ms
  | .drstCore f => some f.ms
  | .drstAdmit f => some f.ms
  | .drstEngine f => some f.ms
  | .stest f => some f.ms
  | .regroup => none
  | .callStackRefillReturn => none
  | .parkNoticeWrite => none
  | .engineTrapEntry => none
  | .lateResultDelivery => none
  | .storeAcknowledge => none
  | .memoryPointPerform => none
  | .evwaitReread => none
  | .swapOut => none
  | .teamWake => none
  | .quarantineEnd => none
  | .teamComplete => none
  | .launchSubmit => none
  | .lotteryDraw => none
  | .machineQueuePlace => none
  | .pkgbarReserve => none
  | .teamResident => none
  | .clusterSteal => none
  | .tensorLaunchPlace => none
  | .fetchwDelivery => none
  | .wpredRelease => none
  | .stepBudgetRewrite => none
  | .congestionLevelMessage => none
  | .congestionLevelExpire => none
  | .engineEntryStart => none
  | .engineEntryComplete => none
  | .engineFault => none
  | .mmaKstep => none
  | .copyRowLand => none
  | .bvhRefitNode => none
  | .bridgeBeatLand => none
  | .fxiPosted => none
  | .tokenWaitRelease => none
  | .rngaRelease => none
  | .fxwRelease => none
  | .sleepExpire => none
  | .gangTimeout => none
  | .gmmaResultDelivery => none
  | .tlbHitValid => none
  | .pageWalkEnd => none
  | .invalidationBroadcast => none
  | .invalidationReceive => none
  | .invalidationAcknowledge => none
  | .invwReturn => none
  | .ctxsLegSave => none
  | .haltStopped => none
  | .migrationRequest => none
  | .migrationLineCopy => none
  | .l2Fill => none
  | .l2Eviction => none
  | .qosGrant => none
  | .layerTemperatureSample => none
  | .bankRefresh => none
  | .refreshAtLimit => none
  | .fallbackAgentPerform => none
  | .linkFlitReplay => none
  | .linkRetrainStart => none
  | .linkRetrainEnd => none
  | .fatalError => none
  | .matrixEngineHang => none
  | .targetedSelfTest => none
  | .clockStretch => none
  | .coldReset => none
  | .debugEnableChange => none
  | .recoveryImageLoad => none
  | .rdmaWrite => none
  | .rdmaWriteWithImmediate => none
  | .rdmaRead => none
  | .rdmaSend => none
  | .rdmaFetchAdd => none
  | .rdmaCompareSwap => none
  | .connectionManagement => none
  | .priorityFlowControl => none
  | .ecnMark => none
  | .managementMessage => none
  | .hostTimeMessage => none
  | .fabricRequest => none
  | .opticalFlitReplay => none
  | .fibreFailure => none
  | .getVersion => none
  | .getCapabilities => none
  | .negotiateAlgorithms => none
  | .getDigests => none
  | .getCertificate => none
  | .challenge => none
  | .getMeasurements => none
  | .keyExchange => none
  | .finish => none
  | .endSession => none
  | .unsupportedRequest => none
  | .unassignedOpcode w => some (w.extractLsb' 52 4)
  | .writePosted => none
  | .supplySagEnd => none
  | .contextEnd => none
  | .heldCompletionRecordWrite => none

/-- The empty-register policy bits of a word (R148). -/
def feOf : Instr → BitVec 3
  | .add f => f.fe
  | .addi f => f.fe
  | .sub f => f.fe
  | .mul f => f.fe
  | .mulh f => f.fe
  | .mad f => f.fe
  | .min f => f.fe
  | .max f => f.fe
  | .absd f => f.fe
  | .clamp f => f.fe
  | .and f => f.fe
  | .andi f => f.fe
  | .or f => f.fe
  | .ori f => f.fe
  | .xor f => f.fe
  | .xori f => f.fe
  | .not f => f.fe
  | .shl f => f.fe
  | .shli f => f.fe
  | .shr f => f.fe
  | .shri f => f.fe
  | .sar f => f.fe
  | .sari f => f.fe
  | .rot f => f.fe
  | .bfe f => f.fe
  | .bfi f => f.fe
  | .popc f => f.fe
  | .clz f => f.fe
  | .brev f => f.fe
  | .sel f => f.fe
  | .cmp f => f.fe
  | .cmpi f => f.fe
  | .setc f => f.fe
  | .mov f => f.fe
  | .movi f => f.fe
  | .movh f => f.fe
  | .lea f => f.fe
  | .idiv f => f.fe
  | .cvti f => f.fe
  | .bswz f => f.fe
  | .fadd f => f.fe
  | .fsub f => f.fe
  | .fmul f => f.fe
  | .ffma f => f.fe
  | .fmin f => f.fe
  | .fmax f => f.fe
  | .fcmp f => f.fe
  | .fcvt f => f.fe
  | .frnd f => f.fe
  | .frcp f => f.fe
  | .frsq f => f.fe
  | .fsqrt f => f.fe
  | .fex2 f => f.fe
  | .flg2 f => f.fe
  | .fsin f => f.fe
  | .fcos f => f.fe
  | .ftanh f => f.fe
  | .fclass f => f.fe
  | .pkadd f => f.fe
  | .pkmul f => f.fe
  | .pkfma f => f.fe
  | .pkmin f => f.fe
  | .pkmax f => f.fe
  | .idp4 f => f.fe
  | .fdp2 f => f.fe
  | .bra f => f.fe
  | .brx f => f.fe
  | .call f => f.fe
  | .callx f => f.fe
  | .ret f => f.fe
  | .exit f => f.fe
  | .join f => f.fe
  | .leave f => f.fe
  | .waitm f => f.fe
  | .mset f => f.fe
  | .mops f => f.fe
  | .mpop f => f.fe
  | .mffs f => f.fe
  | .poll f => f.fe
  | .lbits f => f.fe
  | .xlane f => f.fe
  | .nop f => f.fe
  | .trap f => f.fe
  | .bkpt f => f.fe
  | .clk f => f.fe
  | .sreg f => f.fe
  | .yield f => f.fe
  | .sleep f => f.fe
  | .ldl f => f.fe
  | .stl f => f.fe
  | .lds f => f.fe
  | .sts f => f.fe
  | .ldc f => f.fe
  | .stc f => f.fe
  | .ldp f => f.fe
  | .stp f => f.fe
  | .ldg f => f.fe
  | .stg f => f.fe
  | .ldv f => f.fe
  | .vset f => f.fe
  | .casv f => f.fe
  | .atom f => f.fe
  | .red f => f.fe
  | .atoms f => f.fe
  | .trn f => f.fe
  | .hrel f => f.fe
  | .hqry f => f.fe
  | .pref f => f.fe
  | .fence f => f.fe
  | .fxi f => f.fe
  | .fxw f => f.fe
  | .mcst f => f.fe
  | .bar f => f.fe
  | .bara f => f.fe
  | .barw f => f.fe
  | .cbar f => f.fe
  | .lbar f => f.fe
  | .fetchw f => f.fe
  | .notify f => f.fe
  | .wpred f => f.fe
  | .twait f => f.fe
  | .cancel f => f.fe
  | .cntq f => f.fe
  | .evwait f => f.fe
  | .evsig f => f.fe
  | .gang f => f.fe
  | .gmma f => f.fe
  | .gldf f => f.fe
  | .gstf f => f.fe
  | .cmprs f => f.fe
  | .dcmprs f => f.fe
  | .rayb f => f.fe
  | .rayq f => f.fe
  | .rayn f => f.fe
  | .rayc f => f.fe
  | .bvhr f => f.fe
  | .tqcfg f => f.fe
  | .tokr f => f.fe
  | .oclm f => f.fe
  | .orel f => f.fe
  | .old f => f.fe
  | .mma f => f.fe
  | .mmas f => f.fe
  | .mzero f => f.fe
  | .mdrn f => f.fe
  | .mcfg f => f.fe
  | .vld f => f.fe
  | .vst f => f.fe
  | .vadd f => f.fe
  | .vsub f => f.fe
  | .vmul f => f.fe
  | .vfma f => f.fe
  | .vmin f => f.fe
  | .vmax f => f.fe
  | .vexp f => f.fe
  | .vrcp f => f.fe
  | .vrsq f => f.fe
  | .vtanh f => f.fe
  | .vcvt f => f.fe
  | .vred f => f.fe
  | .vbcst f => f.fe
  | .vperm f => f.fe
  | .vsel f => f.fe
  | .vcmp f => f.fe
  | .vmov f => f.fe
  | .vscl f => f.fe
  | .tcpy f => f.fe
  | .tcst f => f.fe
  | .cpy f => f.fe
  | .cpym f => f.fe
  | .rngd f => f.fe
  | .rnga f => f.fe
  | .rngf f => f.fe
  | .brcv f => f.fe
  | .tretRetry f => f.fe
  | .tretSkip f => f.fe
  | .tretKill f => f.fe
  | .csrr f => f.fe
  | .csrw f => f.fe
  | .csrs f => f.fe
  | .csrc f => f.fe
  | .tstateWrite => 0
  | .invq f => f.fe
  | .invw f => f.fe
  | .ctxs f => f.fe
  | .ctxl f => f.fe
  | .halt f => f.fe
  | .resm f => f.fe
  | .prkrRetry f => f.fe
  | .prkrSkip f => f.fe
  | .prkrKill f => f.fe
  | .svc f => f.fe
  | .psetPin f => f.fe
  | .psetPinb f => f.fe
  | .psetUnpin f => f.fe
  | .psetUnpinb f => f.fe
  | .drstQuiesce f => f.fe
  | .drstFlush f => f.fe
  | .drstCore f => f.fe
  | .drstAdmit f => f.fe
  | .drstEngine f => f.fe
  | .stest f => f.fe
  | .regroup => 0
  | .callStackRefillReturn => 0
  | .parkNoticeWrite => 0
  | .engineTrapEntry => 0
  | .lateResultDelivery => 0
  | .storeAcknowledge => 0
  | .memoryPointPerform => 0
  | .evwaitReread => 0
  | .swapOut => 0
  | .teamWake => 0
  | .quarantineEnd => 0
  | .teamComplete => 0
  | .launchSubmit => 0
  | .lotteryDraw => 0
  | .machineQueuePlace => 0
  | .pkgbarReserve => 0
  | .teamResident => 0
  | .clusterSteal => 0
  | .tensorLaunchPlace => 0
  | .fetchwDelivery => 0
  | .wpredRelease => 0
  | .stepBudgetRewrite => 0
  | .congestionLevelMessage => 0
  | .congestionLevelExpire => 0
  | .engineEntryStart => 0
  | .engineEntryComplete => 0
  | .engineFault => 0
  | .mmaKstep => 0
  | .copyRowLand => 0
  | .bvhRefitNode => 0
  | .bridgeBeatLand => 0
  | .fxiPosted => 0
  | .tokenWaitRelease => 0
  | .rngaRelease => 0
  | .fxwRelease => 0
  | .sleepExpire => 0
  | .gangTimeout => 0
  | .gmmaResultDelivery => 0
  | .tlbHitValid => 0
  | .pageWalkEnd => 0
  | .invalidationBroadcast => 0
  | .invalidationReceive => 0
  | .invalidationAcknowledge => 0
  | .invwReturn => 0
  | .ctxsLegSave => 0
  | .haltStopped => 0
  | .migrationRequest => 0
  | .migrationLineCopy => 0
  | .l2Fill => 0
  | .l2Eviction => 0
  | .qosGrant => 0
  | .layerTemperatureSample => 0
  | .bankRefresh => 0
  | .refreshAtLimit => 0
  | .fallbackAgentPerform => 0
  | .linkFlitReplay => 0
  | .linkRetrainStart => 0
  | .linkRetrainEnd => 0
  | .fatalError => 0
  | .matrixEngineHang => 0
  | .targetedSelfTest => 0
  | .clockStretch => 0
  | .coldReset => 0
  | .debugEnableChange => 0
  | .recoveryImageLoad => 0
  | .rdmaWrite => 0
  | .rdmaWriteWithImmediate => 0
  | .rdmaRead => 0
  | .rdmaSend => 0
  | .rdmaFetchAdd => 0
  | .rdmaCompareSwap => 0
  | .connectionManagement => 0
  | .priorityFlowControl => 0
  | .ecnMark => 0
  | .managementMessage => 0
  | .hostTimeMessage => 0
  | .fabricRequest => 0
  | .opticalFlitReplay => 0
  | .fibreFailure => 0
  | .getVersion => 0
  | .getCapabilities => 0
  | .negotiateAlgorithms => 0
  | .getDigests => 0
  | .getCertificate => 0
  | .challenge => 0
  | .getMeasurements => 0
  | .keyExchange => 0
  | .finish => 0
  | .endSession => 0
  | .unsupportedRequest => 0
  | .unassignedOpcode _ => 0
  | .writePosted => 0
  | .supplySagEnd => 0
  | .contextEnd => 0
  | .heldCompletionRecordWrite => 0

/-- The class of a word (R156, R157): events have none. -/
def classOf : Instr → Option Class
  | .add _ => some .c
  | .addi _ => some .c
  | .sub _ => some .c
  | .mul _ => some .c
  | .mulh _ => some .c
  | .mad _ => some .c
  | .min _ => some .c
  | .max _ => some .c
  | .absd _ => some .c
  | .clamp _ => some .c
  | .and _ => some .c
  | .andi _ => some .c
  | .or _ => some .c
  | .ori _ => some .c
  | .xor _ => some .c
  | .xori _ => some .c
  | .not _ => some .c
  | .shl _ => some .c
  | .shli _ => some .c
  | .shr _ => some .c
  | .shri _ => some .c
  | .sar _ => some .c
  | .sari _ => some .c
  | .rot _ => some .c
  | .bfe _ => some .c
  | .bfi _ => some .c
  | .popc _ => some .c
  | .clz _ => some .c
  | .brev _ => some .c
  | .sel _ => some .c
  | .cmp _ => some .c
  | .cmpi _ => some .c
  | .setc _ => some .c
  | .mov _ => some .c
  | .movi _ => some .c
  | .movh _ => some .c
  | .lea _ => some .c
  | .idiv _ => some .c
  | .cvti _ => some .c
  | .bswz _ => some .c
  | .fadd _ => some .c
  | .fsub _ => some .c
  | .fmul _ => some .c
  | .ffma _ => some .c
  | .fmin _ => some .c
  | .fmax _ => some .c
  | .fcmp _ => some .c
  | .fcvt _ => some .c
  | .frnd _ => some .c
  | .frcp _ => some .c
  | .frsq _ => some .c
  | .fsqrt _ => some .c
  | .fex2 _ => some .c
  | .flg2 _ => some .c
  | .fsin _ => some .c
  | .fcos _ => some .c
  | .ftanh _ => some .c
  | .fclass _ => some .c
  | .pkadd _ => some .c
  | .pkmul _ => some .c
  | .pkfma _ => some .c
  | .pkmin _ => some .c
  | .pkmax _ => some .c
  | .idp4 _ => some .c
  | .fdp2 _ => some .c
  | .bra _ => some .c
  | .brx _ => some .s
  | .call _ => some .c
  | .callx _ => some .s
  | .ret _ => some .c
  | .exit _ => some .c
  | .join _ => some .s
  | .leave _ => some .s
  | .waitm _ => some .s
  | .mset _ => some .s
  | .mops _ => some .s
  | .mpop _ => some .s
  | .mffs _ => some .s
  | .poll _ => some .s
  | .lbits _ => some .s
  | .xlane _ => some .s
  | .nop _ => some .c
  | .trap _ => some .c
  | .bkpt _ => some .c
  | .clk _ => some .c
  | .sreg _ => some .c
  | .yield _ => some .c
  | .sleep _ => some .c
  | .ldl _ => some .c
  | .stl _ => some .c
  | .lds _ => some .c
  | .sts _ => some .c
  | .ldc _ => some .c
  | .stc _ => some .c
  | .ldp _ => some .c
  | .stp _ => some .c
  | .ldg _ => some .c
  | .stg _ => some .c
  | .ldv _ => some .c
  | .vset _ => some .c
  | .casv _ => some .c
  | .atom _ => some .c
  | .red _ => some .c
  | .atoms _ => some .c
  | .trn _ => some .c
  | .hrel _ => some .c
  | .hqry _ => some .c
  | .pref _ => some .c
  | .fence _ => some .c
  | .fxi _ => some .c
  | .fxw _ => some .c
  | .mcst _ => some .c
  | .bar _ => some .c
  | .bara _ => some .c
  | .barw _ => some .c
  | .cbar _ => some .c
  | .lbar _ => some .s
  | .fetchw _ => some .s
  | .notify _ => some .c
  | .wpred _ => some .c
  | .twait _ => some .c
  | .cancel _ => some .c
  | .cntq _ => some .c
  | .evwait _ => some .c
  | .evsig _ => some .c
  | .gang _ => some .s
  | .gmma _ => some .s
  | .gldf _ => some .s
  | .gstf _ => some .s
  | .cmprs _ => some .c
  | .dcmprs _ => some .c
  | .rayb _ => some .s
  | .rayq _ => some .s
  | .rayn _ => some .s
  | .rayc _ => some .s
  | .bvhr _ => some .s
  | .tqcfg _ => some .t
  | .tokr _ => some .t
  | .oclm _ => some .t
  | .orel _ => some .t
  | .old _ => some .t
  | .mma _ => some .t
  | .mmas _ => some .t
  | .mzero _ => some .t
  | .mdrn _ => some .t
  | .mcfg _ => some .t
  | .vld _ => some .t
  | .vst _ => some .t
  | .vadd _ => some .t
  | .vsub _ => some .t
  | .vmul _ => some .t
  | .vfma _ => some .t
  | .vmin _ => some .t
  | .vmax _ => some .t
  | .vexp _ => some .t
  | .vrcp _ => some .t
  | .vrsq _ => some .t
  | .vtanh _ => some .t
  | .vcvt _ => some .t
  | .vred _ => some .t
  | .vbcst _ => some .t
  | .vperm _ => some .t
  | .vsel _ => some .t
  | .vcmp _ => some .t
  | .vmov _ => some .t
  | .vscl _ => some .t
  | .tcpy _ => some .c
  | .tcst _ => some .c
  | .cpy _ => some .c
  | .cpym _ => some .c
  | .rngd _ => some .t
  | .rnga _ => some .t
  | .rngf _ => some .t
  | .brcv _ => some .t
  | .tretRetry _ => some .p
  | .tretSkip _ => some .p
  | .tretKill _ => some .p
  | .csrr _ => some .p
  | .csrw _ => some .p
  | .csrs _ => some .p
  | .csrc _ => some .p
  | .tstateWrite => none
  | .invq _ => some .p
  | .invw _ => some .p
  | .ctxs _ => some .p
  | .ctxl _ => some .p
  | .halt _ => some .p
  | .resm _ => some .p
  | .prkrRetry _ => some .p
  | .prkrSkip _ => some .p
  | .prkrKill _ => some .p
  | .svc _ => some .c
  | .psetPin _ => some .p
  | .psetPinb _ => some .p
  | .psetUnpin _ => some .p
  | .psetUnpinb _ => some .p
  | .drstQuiesce _ => some .p
  | .drstFlush _ => some .p
  | .drstCore _ => some .p
  | .drstAdmit _ => some .p
  | .drstEngine _ => some .p
  | .stest _ => some .p
  | .regroup => none
  | .callStackRefillReturn => none
  | .parkNoticeWrite => none
  | .engineTrapEntry => none
  | .lateResultDelivery => none
  | .storeAcknowledge => none
  | .memoryPointPerform => none
  | .evwaitReread => none
  | .swapOut => none
  | .teamWake => none
  | .quarantineEnd => none
  | .teamComplete => none
  | .launchSubmit => none
  | .lotteryDraw => none
  | .machineQueuePlace => none
  | .pkgbarReserve => none
  | .teamResident => none
  | .clusterSteal => none
  | .tensorLaunchPlace => none
  | .fetchwDelivery => none
  | .wpredRelease => none
  | .stepBudgetRewrite => none
  | .congestionLevelMessage => none
  | .congestionLevelExpire => none
  | .engineEntryStart => none
  | .engineEntryComplete => none
  | .engineFault => none
  | .mmaKstep => none
  | .copyRowLand => none
  | .bvhRefitNode => none
  | .bridgeBeatLand => none
  | .fxiPosted => none
  | .tokenWaitRelease => none
  | .rngaRelease => none
  | .fxwRelease => none
  | .sleepExpire => none
  | .gangTimeout => none
  | .gmmaResultDelivery => none
  | .tlbHitValid => none
  | .pageWalkEnd => none
  | .invalidationBroadcast => none
  | .invalidationReceive => none
  | .invalidationAcknowledge => none
  | .invwReturn => none
  | .ctxsLegSave => none
  | .haltStopped => none
  | .migrationRequest => none
  | .migrationLineCopy => none
  | .l2Fill => none
  | .l2Eviction => none
  | .qosGrant => none
  | .layerTemperatureSample => none
  | .bankRefresh => none
  | .refreshAtLimit => none
  | .fallbackAgentPerform => none
  | .linkFlitReplay => none
  | .linkRetrainStart => none
  | .linkRetrainEnd => none
  | .fatalError => none
  | .matrixEngineHang => none
  | .targetedSelfTest => none
  | .clockStretch => none
  | .coldReset => none
  | .debugEnableChange => none
  | .recoveryImageLoad => none
  | .rdmaWrite => none
  | .rdmaWriteWithImmediate => none
  | .rdmaRead => none
  | .rdmaSend => none
  | .rdmaFetchAdd => none
  | .rdmaCompareSwap => none
  | .connectionManagement => none
  | .priorityFlowControl => none
  | .ecnMark => none
  | .managementMessage => none
  | .hostTimeMessage => none
  | .fabricRequest => none
  | .opticalFlitReplay => none
  | .fibreFailure => none
  | .getVersion => none
  | .getCapabilities => none
  | .negotiateAlgorithms => none
  | .getDigests => none
  | .getCertificate => none
  | .challenge => none
  | .getMeasurements => none
  | .keyExchange => none
  | .finish => none
  | .endSession => none
  | .unsupportedRequest => none
  | .unassignedOpcode _ => none
  | .writePosted => none
  | .supplySagEnd => none
  | .contextEnd => none
  | .heldCompletionRecordWrite => none

/-- The FE bit of a source is set (R148). -/
def Src.traps (fe : BitVec 3) (x : Src) : Bool :=
  match x.fld with
  | .a => fe.getLsbD 2
  | .b => fe.getLsbD 1
  | .c => fe.getLsbD 0
  | .d => fe.getLsbD 0

/-- An FE bit is 0 unless its field names a general-register source (R148). -/
def feLegal (fe : BitVec 3) (srcs : List Src) : Bool :=
  (!fe.getLsbD 2 || srcs.any (fun x => x.fld == .a)) &&
  (!fe.getLsbD 1 || srcs.any (fun x => x.fld == .b)) &&
  (!fe.getLsbD 0 || srcs.any (fun x => x.fld == .c || x.fld == .d))

/-- R150: pairs at even registers, groups of four at multiples of four (wider groups alike). -/
def aligned (r cnt : Nat) : Bool := cnt == 0 || r % cnt == 0 && r + cnt ≤ 64

/-- The lane-mask select is 0 to 12 (R147, check 2 of R159). -/
def msLegal (i : Instr) : Bool :=
  match msOf i with
  | some m => m.toNat ≤ 12
  | none => true

/-- The part of check 4 of R159 that the word alone decides (R147 to R155 and the entry). -/
def legal (i : Instr) : Bool :=
  (shape i).ok && feLegal (feOf i) (shape i).srcs &&
  (shape i).srcs.all (fun x => aligned x.reg x.cnt) &&
  (shape i).dsts.all (fun x => aligned x.1 x.2)

end Sys2Proof.Machine
end

