-- ==== Sys2Proof/WellFormed.lean ====
section
/-!
DEFINITION. Well-formed instructions: a lane-mask select of 0 to 12 and every field within R147 to R155 as
the instruction's entry uses it. What depends on the core, the launch or the thread (the class, `.regs`,
the privilege level) is checked at issue (R159).
-/

namespace Sys2Proof

/-- The word passes checks 2 and 4 of R159 as far as the word alone decides them. -/
def Instr.wellFormed (i : Instr) : Bool := Machine.msLegal i && Machine.legal i

end Sys2Proof
end

