-- ==== Sys2Proof/Decode.lean ====
section
/-!
DEFINITION. Decoding and encoding of the 64-bit instruction words (05 R144-R158). A word is read by its
major opcode into the fields of its format and is then rejected by name when a field breaks R147 to R155;
the encoder packs the same fields back.
-/

namespace Sys2Proof

/-- Why a word is no instruction (R147, R155). -/
inductive DecodeError where
  | reservedMask
  | illegalField
  deriving DecidableEq, Repr

/-! ## The common header and the six layouts (R145, R146) -/

/-- Bits 63:56. -/
def opField (w : DWord) : BitVec 8 := w.extractLsb' 56 8

/-- The fields of a format-R word. -/
def unpackR (w : DWord) : RFmt :=
  ⟨w.extractLsb' 52 4, w.extractLsb' 49 3, w.extractLsb' 43 6, w.extractLsb' 37 6, w.extractLsb' 31 6, w.extractLsb' 25 6, w.extractLsb' 17 8, w.extractLsb' 14 3, w.extractLsb' 13 1, w.extractLsb' 9 4, w.extractLsb' 0 9⟩

/-- A format-R word from its opcode and fields. -/
def packR (op : BitVec 8) (f : RFmt) : DWord :=
  op ++ f.ms ++ f.fe ++ f.d ++ f.a ++ f.b ++ f.c ++ f.fn ++ f.rm ++ f.sat ++ f.ty ++ f.mod

/-- The fields of a format-I word. -/
def unpackI (w : DWord) : IFmt :=
  ⟨w.extractLsb' 52 4, w.extractLsb' 49 3, w.extractLsb' 43 6, w.extractLsb' 37 6, w.extractLsb' 13 24, w.extractLsb' 5 8, w.extractLsb' 0 5⟩

/-- A format-I word from its opcode and fields. -/
def packI (op : BitVec 8) (f : IFmt) : DWord :=
  op ++ f.ms ++ f.fe ++ f.d ++ f.a ++ f.imm ++ f.fn ++ f.mod

/-- The fields of a format-L word. -/
def unpackL (w : DWord) : LFmt :=
  ⟨w.extractLsb' 52 4, w.extractLsb' 49 3, w.extractLsb' 43 6, w.extractLsb' 37 6, w.extractLsb' 5 32, w.extractLsb' 0 5⟩

/-- A format-L word from its opcode and fields. -/
def packL (op : BitVec 8) (f : LFmt) : DWord :=
  op ++ f.ms ++ f.fe ++ f.d ++ f.a ++ f.imm ++ f.fn

/-- The fields of a format-B word. -/
def unpackB (w : DWord) : BFmt :=
  ⟨w.extractLsb' 52 4, w.extractLsb' 49 3, w.extractLsb' 43 6, w.extractLsb' 37 6, w.extractLsb' 5 32, w.extractLsb' 0 5⟩

/-- A format-B word from its opcode and fields. -/
def packB (op : BitVec 8) (f : BFmt) : DWord :=
  op ++ f.ms ++ f.fe ++ f.d ++ f.a ++ f.off ++ f.cnd

/-- The fields of a format-M word. -/
def unpackM (w : DWord) : MFmt :=
  ⟨w.extractLsb' 52 4, w.extractLsb' 49 3, w.extractLsb' 43 6, w.extractLsb' 37 6, w.extractLsb' 31 6, w.extractLsb' 28 3, w.extractLsb' 24 4, w.extractLsb' 21 3, w.extractLsb' 19 2, w.extractLsb' 16 3, w.extractLsb' 0 16⟩

/-- A format-M word from its opcode and fields. -/
def packM (op : BitVec 8) (f : MFmt) : DWord :=
  op ++ f.ms ++ f.fe ++ f.d ++ f.a ++ f.b ++ f.sp ++ f.st ++ f.sc ++ f.ord ++ f.sz ++ f.off

/-- The fields of a format-E word. -/
def unpackE (w : DWord) : EFmt :=
  ⟨w.extractLsb' 52 4, w.extractLsb' 49 3, w.extractLsb' 43 6, w.extractLsb' 37 6, w.extractLsb' 31 6, w.extractLsb' 25 6, w.extractLsb' 20 5, w.extractLsb' 15 5, w.extractLsb' 10 5, w.extractLsb' 0 10⟩

/-- A format-E word from its opcode and fields. -/
def packE (op : BitVec 8) (f : EFmt) : DWord :=
  op ++ f.ms ++ f.fe ++ f.d ++ f.a ++ f.b ++ f.c ++ f.w0 ++ f.w1 ++ f.w2 ++ f.efn

/-- The instruction a word's major opcode (and, for TRET, PRKR, PSET and DRST, its FN or OFF16) names,
with the fields of its format, legal or not (R157). -/
def ofWord (w : DWord) : Instr :=
  match (opField w).toNat with
  | 0x01 => .add (unpackR w)
  | 0x02 => .addi (unpackI w)
  | 0x03 => .sub (unpackR w)
  | 0x04 => .mul (unpackR w)
  | 0x05 => .mulh (unpackR w)
  | 0x06 => .mad (unpackR w)
  | 0x07 => .min (unpackR w)
  | 0x08 => .max (unpackR w)
  | 0x09 => .absd (unpackR w)
  | 0x0A => .and (unpackR w)
  | 0x0B => .andi (unpackI w)
  | 0x0C => .or (unpackR w)
  | 0x0D => .ori (unpackI w)
  | 0x0E => .xor (unpackR w)
  | 0x0F => .xori (unpackI w)
  | 0x10 => .not (unpackR w)
  | 0x11 => .shl (unpackR w)
  | 0x12 => .shli (unpackI w)
  | 0x13 => .shr (unpackR w)
  | 0x14 => .shri (unpackI w)
  | 0x15 => .sar (unpackR w)
  | 0x16 => .sari (unpackI w)
  | 0x17 => .rot (unpackR w)
  | 0x18 => .bfe (unpackR w)
  | 0x19 => .bfi (unpackR w)
  | 0x1A => .popc (unpackR w)
  | 0x1B => .clz (unpackR w)
  | 0x1C => .brev (unpackR w)
  | 0x1D => .sel (unpackR w)
  | 0x1E => .cmp (unpackR w)
  | 0x1F => .cmpi (unpackI w)
  | 0x20 => .setc (unpackR w)
  | 0x21 => .mov (unpackR w)
  | 0x22 => .movi (unpackL w)
  | 0x23 => .movh (unpackL w)
  | 0x24 => .lea (unpackR w)
  | 0x25 => .idiv (unpackR w)
  | 0x26 => .cvti (unpackR w)
  | 0x27 => .bswz (unpackR w)
  | 0x28 => .clamp (unpackR w)
  | 0x30 => .fadd (unpackR w)
  | 0x31 => .fsub (unpackR w)
  | 0x32 => .fmul (unpackR w)
  | 0x33 => .ffma (unpackR w)
  | 0x34 => .fmin (unpackR w)
  | 0x35 => .fmax (unpackR w)
  | 0x36 => .fcmp (unpackR w)
  | 0x37 => .fcvt (unpackR w)
  | 0x38 => .frnd (unpackR w)
  | 0x39 => .frcp (unpackR w)
  | 0x3A => .frsq (unpackR w)
  | 0x3B => .fsqrt (unpackR w)
  | 0x3C => .fex2 (unpackR w)
  | 0x3D => .flg2 (unpackR w)
  | 0x3E => .fsin (unpackR w)
  | 0x3F => .fcos (unpackR w)
  | 0x40 => .ftanh (unpackR w)
  | 0x41 => .fclass (unpackR w)
  | 0x42 => .pkadd (unpackR w)
  | 0x43 => .pkmul (unpackR w)
  | 0x44 => .pkfma (unpackR w)
  | 0x45 => .pkmin (unpackR w)
  | 0x46 => .pkmax (unpackR w)
  | 0x47 => .idp4 (unpackR w)
  | 0x48 => .fdp2 (unpackR w)
  | 0x50 => .bra (unpackB w)
  | 0x51 => .brx (unpackR w)
  | 0x52 => .call (unpackB w)
  | 0x53 => .callx (unpackR w)
  | 0x54 => .ret (unpackR w)
  | 0x55 => .exit (unpackR w)
  | 0x56 => .join (unpackR w)
  | 0x57 => .leave (unpackR w)
  | 0x58 => .waitm (unpackR w)
  | 0x59 => .mset (unpackR w)
  | 0x5A => .mops (unpackR w)
  | 0x5B => .mpop (unpackR w)
  | 0x5C => .mffs (unpackR w)
  | 0x5D => .poll (unpackR w)
  | 0x5E => .lbits (unpackR w)
  | 0x5F => .xlane (unpackR w)
  | 0x60 => .nop (unpackR w)
  | 0x61 => .trap (unpackI w)
  | 0x62 => .bkpt (unpackI w)
  | 0x63 => .clk (unpackR w)
  | 0x64 => .sreg (unpackI w)
  | 0x65 => .yield (unpackR w)
  | 0x66 => .sleep (unpackI w)
  | 0x70 => .ldl (unpackM w)
  | 0x71 => .stl (unpackM w)
  | 0x72 => .lds (unpackM w)
  | 0x73 => .sts (unpackM w)
  | 0x74 => .ldc (unpackM w)
  | 0x75 => .stc (unpackM w)
  | 0x76 => .ldp (unpackM w)
  | 0x77 => .stp (unpackM w)
  | 0x78 => .ldg (unpackM w)
  | 0x79 => .stg (unpackM w)
  | 0x7A => .ldv (unpackM w)
  | 0x7B => .vset (unpackR w)
  | 0x7C => .casv (unpackM w)
  | 0x7D => .atom (unpackM w)
  | 0x7E => .red (unpackM w)
  | 0x7F => .atoms (unpackM w)
  | 0x80 => .trn (unpackM w)
  | 0x81 => .hrel (unpackR w)
  | 0x82 => .hqry (unpackR w)
  | 0x83 => .pref (unpackM w)
  | 0x84 => .fence (unpackM w)
  | 0x85 => .fxi (unpackM w)
  | 0x86 => .fxw (unpackR w)
  | 0x87 => .mcst (unpackM w)
  | 0x90 => .bar (unpackI w)
  | 0x91 => .bara (unpackI w)
  | 0x92 => .barw (unpackI w)
  | 0x93 => .cbar (unpackI w)
  | 0x94 => .lbar (unpackI w)
  | 0x95 => .fetchw (unpackI w)
  | 0x96 => .notify (unpackI w)
  | 0x97 => .wpred (unpackI w)
  | 0x98 => .twait (unpackI w)
  | 0x99 => .cancel (unpackI w)
  | 0x9A => .cntq (unpackI w)
  | 0x9B => .evwait (unpackM w)
  | 0x9C => .evsig (unpackM w)
  | 0xA0 => .gang (unpackR w)
  | 0xA1 => .gmma (unpackR w)
  | 0xA2 => .gldf (unpackM w)
  | 0xA3 => .gstf (unpackM w)
  | 0xA4 => .cmprs (unpackR w)
  | 0xA5 => .dcmprs (unpackR w)
  | 0xA6 => .rayb (unpackR w)
  | 0xA7 => .rayq (unpackR w)
  | 0xA8 => .rayn (unpackR w)
  | 0xA9 => .rayc (unpackR w)
  | 0xAA => .bvhr (unpackE w)
  | 0xB0 => .tqcfg (unpackI w)
  | 0xB1 => .tokr (unpackI w)
  | 0xB2 => .oclm (unpackE w)
  | 0xB3 => .orel (unpackE w)
  | 0xB4 => .old (unpackE w)
  | 0xB5 => .mma (unpackE w)
  | 0xB6 => .mmas (unpackE w)
  | 0xB7 => .mzero (unpackE w)
  | 0xB8 => .mdrn (unpackE w)
  | 0xB9 => .mcfg (unpackI w)
  | 0xBA => .vld (unpackE w)
  | 0xBB => .vst (unpackE w)
  | 0xBC => .vadd (unpackE w)
  | 0xBD => .vsub (unpackE w)
  | 0xBE => .vmul (unpackE w)
  | 0xBF => .vfma (unpackE w)
  | 0xC0 => .vmin (unpackE w)
  | 0xC1 => .vmax (unpackE w)
  | 0xC2 => .vexp (unpackE w)
  | 0xC3 => .vrcp (unpackE w)
  | 0xC4 => .vrsq (unpackE w)
  | 0xC5 => .vtanh (unpackE w)
  | 0xC6 => .vcvt (unpackE w)
  | 0xC7 => .vred (unpackE w)
  | 0xC8 => .vbcst (unpackE w)
  | 0xC9 => .vperm (unpackE w)
  | 0xCA => .vsel (unpackE w)
  | 0xCB => .vcmp (unpackE w)
  | 0xCC => .vmov (unpackE w)
  | 0xCD => .vscl (unpackE w)
  | 0xCE => .tcpy (unpackE w)
  | 0xCF => .tcst (unpackE w)
  | 0xD0 => .cpy (unpackE w)
  | 0xD1 => .cpym (unpackE w)
  | 0xD2 => .rngd (unpackI w)
  | 0xD3 => .rnga (unpackI w)
  | 0xD4 => .rngf (unpackI w)
  | 0xD5 => .brcv (unpackE w)
  | 0xE0 => if (unpackR w).fn == 0 then .tretRetry (unpackR w) else if (unpackR w).fn == 1 then .tretSkip (unpackR w) else .tretKill (unpackR w)
  | 0xE1 => .csrr (unpackI w)
  | 0xE2 => .csrw (unpackI w)
  | 0xE3 => .csrs (unpackI w)
  | 0xE4 => .csrc (unpackI w)
  | 0xE5 => .invq (unpackR w)
  | 0xE6 => .invw (unpackR w)
  | 0xE7 => .ctxs (unpackM w)
  | 0xE8 => .ctxl (unpackM w)
  | 0xE9 => .halt (unpackR w)
  | 0xEA => .resm (unpackR w)
  | 0xEB => if (unpackR w).fn == 0 then .prkrRetry (unpackR w) else if (unpackR w).fn == 1 then .prkrSkip (unpackR w) else .prkrKill (unpackR w)
  | 0xEC => .svc (unpackI w)
  | 0xED => if (unpackM w).off == 0 then .psetPin (unpackM w) else if (unpackM w).off == 1 then .psetPinb (unpackM w) else if (unpackM w).off == 2 then .psetUnpin (unpackM w) else .psetUnpinb (unpackM w)
  | 0xEE => if (unpackR w).fn == 0 then .drstQuiesce (unpackR w) else if (unpackR w).fn == 1 then .drstFlush (unpackR w) else if (unpackR w).fn == 2 then .drstCore (unpackR w) else if (unpackR w).fn == 3 then .drstAdmit (unpackR w) else .drstEngine (unpackR w)
  | 0xEF => .stest (unpackR w)
  | _ => .unassignedOpcode w

/-- The words of an instruction; an event of the machine has none. -/
def encode : Instr → Option DWord
  | .add f => some (packR 0x01 f)
  | .addi f => some (packI 0x02 f)
  | .sub f => some (packR 0x03 f)
  | .mul f => some (packR 0x04 f)
  | .mulh f => some (packR 0x05 f)
  | .mad f => some (packR 0x06 f)
  | .min f => some (packR 0x07 f)
  | .max f => some (packR 0x08 f)
  | .absd f => some (packR 0x09 f)
  | .clamp f => some (packR 0x28 f)
  | .and f => some (packR 0x0A f)
  | .andi f => some (packI 0x0B f)
  | .or f => some (packR 0x0C f)
  | .ori f => some (packI 0x0D f)
  | .xor f => some (packR 0x0E f)
  | .xori f => some (packI 0x0F f)
  | .not f => some (packR 0x10 f)
  | .shl f => some (packR 0x11 f)
  | .shli f => some (packI 0x12 f)
  | .shr f => some (packR 0x13 f)
  | .shri f => some (packI 0x14 f)
  | .sar f => some (packR 0x15 f)
  | .sari f => some (packI 0x16 f)
  | .rot f => some (packR 0x17 f)
  | .bfe f => some (packR 0x18 f)
  | .bfi f => some (packR 0x19 f)
  | .popc f => some (packR 0x1A f)
  | .clz f => some (packR 0x1B f)
  | .brev f => some (packR 0x1C f)
  | .sel f => some (packR 0x1D f)
  | .cmp f => some (packR 0x1E f)
  | .cmpi f => some (packI 0x1F f)
  | .setc f => some (packR 0x20 f)
  | .mov f => some (packR 0x21 f)
  | .movi f => some (packL 0x22 f)
  | .movh f => some (packL 0x23 f)
  | .lea f => some (packR 0x24 f)
  | .idiv f => some (packR 0x25 f)
  | .cvti f => some (packR 0x26 f)
  | .bswz f => some (packR 0x27 f)
  | .fadd f => some (packR 0x30 f)
  | .fsub f => some (packR 0x31 f)
  | .fmul f => some (packR 0x32 f)
  | .ffma f => some (packR 0x33 f)
  | .fmin f => some (packR 0x34 f)
  | .fmax f => some (packR 0x35 f)
  | .fcmp f => some (packR 0x36 f)
  | .fcvt f => some (packR 0x37 f)
  | .frnd f => some (packR 0x38 f)
  | .frcp f => some (packR 0x39 f)
  | .frsq f => some (packR 0x3A f)
  | .fsqrt f => some (packR 0x3B f)
  | .fex2 f => some (packR 0x3C f)
  | .flg2 f => some (packR 0x3D f)
  | .fsin f => some (packR 0x3E f)
  | .fcos f => some (packR 0x3F f)
  | .ftanh f => some (packR 0x40 f)
  | .fclass f => some (packR 0x41 f)
  | .pkadd f => some (packR 0x42 f)
  | .pkmul f => some (packR 0x43 f)
  | .pkfma f => some (packR 0x44 f)
  | .pkmin f => some (packR 0x45 f)
  | .pkmax f => some (packR 0x46 f)
  | .idp4 f => some (packR 0x47 f)
  | .fdp2 f => some (packR 0x48 f)
  | .bra f => some (packB 0x50 f)
  | .brx f => some (packR 0x51 f)
  | .call f => some (packB 0x52 f)
  | .callx f => some (packR 0x53 f)
  | .ret f => some (packR 0x54 f)
  | .exit f => some (packR 0x55 f)
  | .join f => some (packR 0x56 f)
  | .leave f => some (packR 0x57 f)
  | .waitm f => some (packR 0x58 f)
  | .mset f => some (packR 0x59 f)
  | .mops f => some (packR 0x5A f)
  | .mpop f => some (packR 0x5B f)
  | .mffs f => some (packR 0x5C f)
  | .poll f => some (packR 0x5D f)
  | .lbits f => some (packR 0x5E f)
  | .xlane f => some (packR 0x5F f)
  | .nop f => some (packR 0x60 f)
  | .trap f => some (packI 0x61 f)
  | .bkpt f => some (packI 0x62 f)
  | .clk f => some (packR 0x63 f)
  | .sreg f => some (packI 0x64 f)
  | .yield f => some (packR 0x65 f)
  | .sleep f => some (packI 0x66 f)
  | .ldl f => some (packM 0x70 f)
  | .stl f => some (packM 0x71 f)
  | .lds f => some (packM 0x72 f)
  | .sts f => some (packM 0x73 f)
  | .ldc f => some (packM 0x74 f)
  | .stc f => some (packM 0x75 f)
  | .ldp f => some (packM 0x76 f)
  | .stp f => some (packM 0x77 f)
  | .ldg f => some (packM 0x78 f)
  | .stg f => some (packM 0x79 f)
  | .ldv f => some (packM 0x7A f)
  | .vset f => some (packR 0x7B f)
  | .casv f => some (packM 0x7C f)
  | .atom f => some (packM 0x7D f)
  | .red f => some (packM 0x7E f)
  | .atoms f => some (packM 0x7F f)
  | .trn f => some (packM 0x80 f)
  | .hrel f => some (packR 0x81 f)
  | .hqry f => some (packR 0x82 f)
  | .pref f => some (packM 0x83 f)
  | .fence f => some (packM 0x84 f)
  | .fxi f => some (packM 0x85 f)
  | .fxw f => some (packR 0x86 f)
  | .mcst f => some (packM 0x87 f)
  | .bar f => some (packI 0x90 f)
  | .bara f => some (packI 0x91 f)
  | .barw f => some (packI 0x92 f)
  | .cbar f => some (packI 0x93 f)
  | .lbar f => some (packI 0x94 f)
  | .fetchw f => some (packI 0x95 f)
  | .notify f => some (packI 0x96 f)
  | .wpred f => some (packI 0x97 f)
  | .twait f => some (packI 0x98 f)
  | .cancel f => some (packI 0x99 f)
  | .cntq f => some (packI 0x9A f)
  | .evwait f => some (packM 0x9B f)
  | .evsig f => some (packM 0x9C f)
  | .gang f => some (packR 0xA0 f)
  | .gmma f => some (packR 0xA1 f)
  | .gldf f => some (packM 0xA2 f)
  | .gstf f => some (packM 0xA3 f)
  | .cmprs f => some (packR 0xA4 f)
  | .dcmprs f => some (packR 0xA5 f)
  | .rayb f => some (packR 0xA6 f)
  | .rayq f => some (packR 0xA7 f)
  | .rayn f => some (packR 0xA8 f)
  | .rayc f => some (packR 0xA9 f)
  | .bvhr f => some (packE 0xAA f)
  | .tqcfg f => some (packI 0xB0 f)
  | .tokr f => some (packI 0xB1 f)
  | .oclm f => some (packE 0xB2 f)
  | .orel f => some (packE 0xB3 f)
  | .old f => some (packE 0xB4 f)
  | .mma f => some (packE 0xB5 f)
  | .mmas f => some (packE 0xB6 f)
  | .mzero f => some (packE 0xB7 f)
  | .mdrn f => some (packE 0xB8 f)
  | .mcfg f => some (packI 0xB9 f)
  | .vld f => some (packE 0xBA f)
  | .vst f => some (packE 0xBB f)
  | .vadd f => some (packE 0xBC f)
  | .vsub f => some (packE 0xBD f)
  | .vmul f => some (packE 0xBE f)
  | .vfma f => some (packE 0xBF f)
  | .vmin f => some (packE 0xC0 f)
  | .vmax f => some (packE 0xC1 f)
  | .vexp f => some (packE 0xC2 f)
  | .vrcp f => some (packE 0xC3 f)
  | .vrsq f => some (packE 0xC4 f)
  | .vtanh f => some (packE 0xC5 f)
  | .vcvt f => some (packE 0xC6 f)
  | .vred f => some (packE 0xC7 f)
  | .vbcst f => some (packE 0xC8 f)
  | .vperm f => some (packE 0xC9 f)
  | .vsel f => some (packE 0xCA f)
  | .vcmp f => some (packE 0xCB f)
  | .vmov f => some (packE 0xCC f)
  | .vscl f => some (packE 0xCD f)
  | .tcpy f => some (packE 0xCE f)
  | .tcst f => some (packE 0xCF f)
  | .cpy f => some (packE 0xD0 f)
  | .cpym f => some (packE 0xD1 f)
  | .rngd f => some (packI 0xD2 f)
  | .rnga f => some (packI 0xD3 f)
  | .rngf f => some (packI 0xD4 f)
  | .brcv f => some (packE 0xD5 f)
  | .tretRetry f => some (packR 0xE0 f)
  | .tretSkip f => some (packR 0xE0 f)
  | .tretKill f => some (packR 0xE0 f)
  | .csrr f => some (packI 0xE1 f)
  | .csrw f => some (packI 0xE2 f)
  | .csrs f => some (packI 0xE3 f)
  | .csrc f => some (packI 0xE4 f)
  | .tstateWrite => none
  | .invq f => some (packR 0xE5 f)
  | .invw f => some (packR 0xE6 f)
  | .ctxs f => some (packM 0xE7 f)
  | .ctxl f => some (packM 0xE8 f)
  | .halt f => some (packR 0xE9 f)
  | .resm f => some (packR 0xEA f)
  | .prkrRetry f => some (packR 0xEB f)
  | .prkrSkip f => some (packR 0xEB f)
  | .prkrKill f => some (packR 0xEB f)
  | .svc f => some (packI 0xEC f)
  | .psetPin f => some (packM 0xED f)
  | .psetPinb f => some (packM 0xED f)
  | .psetUnpin f => some (packM 0xED f)
  | .psetUnpinb f => some (packM 0xED f)
  | .drstQuiesce f => some (packR 0xEE f)
  | .drstFlush f => some (packR 0xEE f)
  | .drstCore f => some (packR 0xEE f)
  | .drstAdmit f => some (packR 0xEE f)
  | .drstEngine f => some (packR 0xEE f)
  | .stest f => some (packR 0xEF f)
  | .regroup => none
  | .callStackRefillReturn => none
  | .parkNoticeWrite => none
  | .engineTrapEntry => none
  | .lateResultDelivery => none
  | .storeAcknowledge => none
  | .memoryPointPerform => none
  | .evwaitReread => none
  | .swapOut => none
  | .teamWake => none
  | .quarantineEnd => none
  | .teamComplete => none
  | .launchSubmit => none
  | .lotteryDraw => none
  | .machineQueuePlace => none
  | .pkgbarReserve => none
  | .teamResident => none
  | .clusterSteal => none
  | .tensorLaunchPlace => none
  | .fetchwDelivery => none
  | .wpredRelease => none
  | .stepBudgetRewrite => none
  | .congestionLevelMessage => none
  | .congestionLevelExpire => none
  | .engineEntryStart => none
  | .engineEntryComplete => none
  | .engineFault => none
  | .mmaKstep => none
  | .copyRowLand => none
  | .bvhRefitNode => none
  | .bridgeBeatLand => none
  | .fxiPosted => none
  | .tokenWaitRelease => none
  | .rngaRelease => none
  | .fxwRelease => none
  | .sleepExpire => none
  | .gangTimeout => none
  | .gmmaResultDelivery => none
  | .tlbHitValid => none
  | .pageWalkEnd => none
  | .invalidationBroadcast => none
  | .invalidationReceive => none
  | .invalidationAcknowledge => none
  | .invwReturn => none
  | .ctxsLegSave => none
  | .haltStopped => none
  | .migrationRequest => none
  | .migrationLineCopy => none
  | .l2Fill => none
  | .l2Eviction => none
  | .qosGrant => none
  | .layerTemperatureSample => none
  | .bankRefresh => none
  | .refreshAtLimit => none
  | .fallbackAgentPerform => none
  | .linkFlitReplay => none
  | .linkRetrainStart => none
  | .linkRetrainEnd => none
  | .fatalError => none
  | .matrixEngineHang => none
  | .targetedSelfTest => none
  | .clockStretch => none
  | .coldReset => none
  | .debugEnableChange => none
  | .recoveryImageLoad => none
  | .rdmaWrite => none
  | .rdmaWriteWithImmediate => none
  | .rdmaRead => none
  | .rdmaSend => none
  | .rdmaFetchAdd => none
  | .rdmaCompareSwap => none
  | .connectionManagement => none
  | .priorityFlowControl => none
  | .ecnMark => none
  | .managementMessage => none
  | .hostTimeMessage => none
  | .fabricRequest => none
  | .opticalFlitReplay => none
  | .fibreFailure => none
  | .getVersion => none
  | .getCapabilities => none
  | .negotiateAlgorithms => none
  | .getDigests => none
  | .getCertificate => none
  | .challenge => none
  | .getMeasurements => none
  | .keyExchange => none
  | .finish => none
  | .endSession => none
  | .unsupportedRequest => none
  | .unassignedOpcode w => some w
  | .writePosted => none
  | .supplySagEnd => none
  | .contextEnd => none
  | .heldCompletionRecordWrite => none

/-- Decoding is total: a legal instruction, or the reason the word is none. -/
def decode (w : DWord) : Except DecodeError Instr :=
  if Machine.msLegal (ofWord w) then
    if Machine.legal (ofWord w) then .ok (ofWord w) else .error .illegalField
  else .error .reservedMask

/-! ## Bytes (R4) -/

/-- The little-endian value of a list of bytes. -/
def fromBytes : List Byte → Nat
  | [] => 0
  | b :: bs => b.toNat + 256 * fromBytes bs

/-- The n little-endian bytes of a value. -/
def toBytes : Nat → Nat → List Byte
  | 0, _ => []
  | n + 1, v => BitVec.ofNat 8 v :: toBytes n (v / 256)

/-- The instruction that eight bytes in memory hold, the first at the lowest address (R4, R144). -/
def decodeBytes (bs : List Byte) : Except DecodeError Instr := decode (BitVec.ofNat 64 (fromBytes bs))

/-- The instruction our decoder reads from a word of the opcode table, laid out in memory as the hardware
stores it; bits at and above `nbits` are 0. -/
def decodeTableWord (nbits w : Nat) : Option Instr :=
  match decodeBytes (toBytes 8 (w % 2 ^ nbits)) with
  | .ok i => some i
  | .error _ => none

end Sys2Proof
end

