-- ==== Sys2Proof/Config.lean ====
section
/-!
DEFINITION. What the specification leaves to the implementation, as constants without a value: nothing in
Lean can evaluate them, so a statement that mentions one holds for every value it may have.
-/

namespace Sys2Proof.Config

/-- The initial version of a line, by line number: unspecified (R133; log 4). -/
opaque initVersion : Nat → Version

/-- The version that a line holds after an uncorrectable error has lost its own, the n-th such one: R394 names none (log 7). -/
opaque lostVersion : Nat → Version

/-- A byte the specification leaves unspecified: the n-th one the machine takes (R79, R326; log 7). -/
opaque freeByte : Nat → Byte

/-- The SHA-384 digest of a message (R441, R442), a function of an outside standard (log 8). -/
opaque sha384 : List Byte → BitVec 384

/-- ECDSA P-384 verification (R441) of a digest under a public key x, y with a signature r, s (log 8). -/
opaque ecdsaVerify : (x y r s : BitVec 384) → BitVec 384 → Bool

/-- The signature over a message with the Alias key that the security block derives from the measurement slots 1-4 (R443, R444), r then
s (log 8). -/
opaque aliasSign : List (BitVec 384) → List Byte → List Byte

/-- The signature of the DeviceID key over a message (R443; log 8). -/
opaque deviceSign : List Byte → List Byte

/-- The Alias public key that the security block derives from the measurement slots 1-4 (R443; log 8). -/
opaque aliasKey : List (BitVec 384) → List Byte

/-- The certificates above the Alias certificate, stored at manufacture (R443; log 8). -/
opaque certChain : List Byte

/-- The device's ephemeral ECDHE public value for the n-th session (R444; log 8). -/
opaque ecdhePublic : Nat → List Byte

/-- The verification of a FINISH message of the n-th session (R444; log 8). -/
opaque finishVerify : Nat → List Byte → Bool

/-- Which of several resident teams of a launch a cluster address names (R109 does not say), by their list (log 11). -/
opaque clusterTeam : List Nat → Nat

/-- The box test of R267 for a ray or box with an infinite coordinate, which no rational arithmetic decides: the entry
distance as a fraction where it hits, by the ray's and the box's words (log 13). -/
opaque rayBox : List Word → Option (Int × Nat)

/-- The triangle test of R267 for an infinite coordinate: t, u, v where it hits (log 13). -/
opaque rayTriangle : List Word → Option (Word × Word × Word)

/-- TVAL of trap 0x10 for a poisoned operand-slot element, by its place in operand memory: R313 says register or address and
gives operand slots neither (log 14). -/
opaque operandAddr : Nat → DWord

/-- The least (false) or greatest (true) of bounds among which is a NaN: R271 calls minima and maxima exact and says
nothing of NaNs (log 15). -/
opaque refitBound : Bool → List Word → Word

/-- The outcome of the n-th self-test that STEST runs: the state of the silicon is not the specification's (R340; log 18). -/
opaque selfTest : Nat → Bool

/-- The structures (kind, location, unit) that fail the tests of a `drst.core` of a die (R418; log 18). -/
opaque coreTests : (n die : Nat) → List Structure

/-- A cluster router fails the tests of a `drst.core` of a die (R418; log 18). -/
opaque routerFails : (n die : Nat) → Bool

/-- How the training of a link of a die at bring-up ends, the n-th one: 0 full width, 1 half width, 2 down, modulo 3; above that, the lane
that failed (R412, R440; log 18). -/
opaque linkTraining : (n die link : Nat) → Nat

/-- Packets of one class that a channel's buffer at the end of a link holds beyond the first: R408 gives the buffers no size (log 81). -/
opaque linkBuffer : Nat

end Sys2Proof.Config
end

