-- ==== Sys2Proof/Machine/Sparse.lean ====
section
/-!
DEFINITION. Sparse tables: lists of (key, value) pairs, sorted by key, with at most one entry a key. A
table that stands for an array with a default value (memory, registers) never lists an entry equal to the
default; a table of records lists the records that exist.
-/

namespace Sys2Proof.Machine

/-- The value listed at a key. -/
def find? {α : Type} (k : Nat) : List (Nat × α) → Option α
  | [] => none
  | (j, v) :: t => if j = k then some v else find? k t

/-- The value at a key, or the default of the table. -/
def sget {α : Type} (d : α) (m : List (Nat × α)) (k : Nat) : α := (find? k m).getD d

/-- Lists a value at a key, in place of the one listed there. -/
def sput {α : Type} (k : Nat) (v : α) : List (Nat × α) → List (Nat × α)
  | [] => [(k, v)]
  | (j, w) :: t => if j = k then (k, v) :: t else if k < j then (k, v) :: (j, w) :: t else (j, w) :: sput k v t

/-- Removes the key. -/
def serase {α : Type} (k : Nat) (m : List (Nat × α)) : List (Nat × α) := m.filter (fun p => p.1 != k)

/-- Writes a value into a table with a default: the default is not listed. -/
def sset {α : Type} [DecidableEq α] (d : α) (m : List (Nat × α)) (k : Nat) (v : α) : List (Nat × α) :=
  if v = d then serase k m else sput k v m

/-- Applies a function to the value at a key, if one is listed. -/
def smod {α : Type} (k : Nat) (f : α → α) (m : List (Nat × α)) : List (Nat × α) :=
  m.map (fun p => if p.1 = k then (p.1, f p.2) else p)

/-- The keys listed. -/
def skeys {α : Type} (m : List (Nat × α)) : List Nat := m.map (·.1)

/-- Keys strictly rising. -/
def keysRise : List Nat → Bool
  | [] => true
  | [_] => true
  | a :: b :: t => decide (a < b) && keysRise (b :: t)

/-- The canonical form of a table with default d: keys strictly rising, no entry equal to the default. -/
def canonical {α : Type} [DecidableEq α] (d : α) (m : List (Nat × α)) : Bool :=
  keysRise (skeys m) && m.all (fun p => decide (p.2 ≠ d))

end Sys2Proof.Machine
end

