-- ==== Sys2Proof/Machine/State.lean ====
section
/-!
DEFINITION. The state of one PNV-9740 package as plain data: threads, bands, teams, cores, tiles, memory
and its requests, translation, the distributor, the dies and links, the host port, the fabric and the
security block. Names: unit u is 256 * die + 8 * cluster + position (0-1023 shader cores, 1024-2047 tensor
tiles) or 2048 + n for management core n (R7, R309); band b = 64 * u + slot (R10); thread t = 32 * b + lane (R9).
-/

namespace Sys2Proof.Machine

/-- Why a step stops with a fault. The specification gives every trap, error reply and reset a next state,
so the only fault is the model's own. -/
inductive Fault where
  /-- Raised by `step` when the agenda holds an instruction word as if it were an event of the machine:
  an instruction issues from memory only. Safe: no behaviour of the hardware is lost. -/
  | notAnEvent
  deriving DecidableEq, Repr

/-- Why an instruction has no meaning. -/
inductive Refusal where
  /-- Raised by an arm of `exec` for an instruction that has no meaning yet. Safe. -/
  | notModelled (mnemonic : String)
  deriving DecidableEq, Repr

/-! ## Translation -/

/-- Granules (R345, R348). -/
inductive Gran where
  | l128 | s32 | w512 | w2k
  deriving DecidableEq, Repr

/-- What a leaf says of a page (R345): pa is the page's first physical address, size 0, 1, 2 is 64 KiB,
32 MiB, 16 GiB, reps are the dies of the extra replicas. -/
structure Leaf where
  pa : Nat := 0
  size : Nat := 0
  r : Bool := false
  w : Bool := false
  x : Bool := false
  gran : Gran := .l128
  vd : Bool := false
  c : Bool := false
  sdef : Nat := 0
  reps : List Nat := []
  deriving DecidableEq, Repr

/-- Handle states, in the code order of R213. -/
inductive HState where
  | invalid | pending | valid | faulted | revoked
  deriving DecidableEq, Repr

/-- A handle register (R213). While pending, `due` is the clock a TLB hit lands, if it hit (R214), and `walk`
the level and table the walk reads next; `tlb` names the TLB entry it was filled from (R350). -/
structure Handle where
  st : HState := .invalid
  base : DWord := 0
  asid : Nat := 0
  leaf : Leaf := {}
  due : Option Nat := none
  walk : Option (Nat × Nat) := none
  tlb : Nat := 0
  deriving DecidableEq, Repr

/-- A TLB entry: address space, first virtual address of the page, leaf, hotness count, and the entry's own name (R349, R350). -/
structure TlbEntry where
  asid : Nat
  va : Nat
  leaf : Leaf
  hot : Nat
  id : Nat := 0
  deriving DecidableEq, Repr

/-! ## Threads and bands -/

/-- Barrier kinds (R239): team, cluster group, launch. -/
inductive BarKind where
  | team | cluster | launch
  deriving DecidableEq, Repr

/-- What a token wait does when it is satisfied (R56, R70). -/
inductive TokAct where
  | orel (slot : Nat)
  | rngf (ring : Nat)
  deriving DecidableEq, Repr

/-- What a thread waits for (R12, R323). -/
inductive Wait where
  | none
  | regroup
  | join (m : Nat)
  | waitm (m : Nat) (gen : Bool)
  | sleep (till : Nat)
  | barrier (kind : BarKind) (bar : Nat) (gen : Bool) (carry d : Nat) (trap : Bool) (since : Nat)
  | wpred
  | twait (tok c : Nat)
  | tokens (ts : List (Nat × BitVec 16)) (act : TokAct)
  | rnga (ring d : Nat)
  | evwait (id : Nat) (want : Word) (d : Nat)
  | fxw (tok : Nat)
  | refill (id : Nat)
  | latch (since : Nat)
  | ray (id d : Nat)
  | invw (seq d : Nat)
  | halted
  deriving DecidableEq, Repr

/-- A version-set entry (R135): line number, version, and the virtual address and space it was reached by. -/
structure VEntry where
  line : Nat
  ver : Version
  asid : Nat
  va : Nat
  deriving DecidableEq, Repr

/-- A deferred store error (R221): stream, cause, address of the failed write. -/
structure StoreErr where
  st : Nat
  cause : Nat
  addr : Nat
  deriving DecidableEq, Repr

/-- A ray hit or candidate (R265): t, u, v and the identifier. -/
structure Hit where
  t : Word
  u : Word
  v : Word
  id : Word
  deriving DecidableEq, Repr

/-- The ray state (R265). `cur` is the reference of the next node, `sub` the leaf triangle to test next,
`stack` holds
references in 32 bits, newest first. -/
structure Ray where
  o : List Word := [0, 0, 0]
  dir : List Word := [0, 0, 0]
  tmin : Word := 0
  tmax : Word := 0
  hdl : Nat := 0
  cur : DWord := 0
  sub : Nat := 0
  stack : List Word := []
  cand : Option Hit := none
  hit : Option Hit := none
  finished : Bool := false
  deriving DecidableEq, Repr

/-- Why and how a thread is parked (R28, R315, R318): its cause, TVAL and the D flag of its notice. -/
structure Park where
  cause : Nat
  tval : DWord
  d : Bool
  deriving DecidableEq, Repr

/-- A thread (R9, R11): registers with full/empty state and deferred-error marks, handles, call stack
(oldest first), trap registers (R311, R312), version set, waits. `seen` lists the stores whose unperformed bytes it has loaded from its L1
(R118); `wword` is the instruction word of its last EVWAIT or GMMA that waited (R253, R323). -/
structure Thread where
  pc : DWord := 0
  g : List (Nat × Word) := []
  empty : List (Nat × Bool) := []
  mark : List (Nat × Nat) := []
  h : List (Nat × Handle) := []
  stack : List DWord := []
  csp : Word := 0
  exited : Bool := false
  parked : Option Park := none
  wait : Wait := .none
  age : Nat := 0
  inh : Bool := false
  pprv : Nat := 0
  prv : Nat := 0
  tcause : DWord := 0
  tval : DWord := 0
  tpc : DWord := 0
  tscr : DWord := 0
  efword : DWord := 0
  efpc : DWord := 0
  efinfo : DWord := 0
  vset : List VEntry := []
  vover : Bool := false
  serr : Option StoreErr := none
  bara : List (Nat × Bool) := []
  ray : Ray := {}
  seen : List (Nat × Nat) := []
  wword : DWord := 0
  deriving DecidableEq, Repr

/-- Issued and done counts of a token (R51); `acq` once a producer that named team scope or wider has completed, so that
a satisfied wait invalidates the L1 (R54, R113). -/
structure Token where
  issued : BitVec 16 := 0
  done : BitVec 16 := 0
  acq : Bool := false
  deriving DecidableEq, Repr

/-- One FXI (R129, R234): thread, streams, the writes it captured, and whether they are posted. -/
structure FxiRec where
  id : Nat
  tok : Nat
  tid : Nat
  streams : List Nat
  reqs : List Nat
  posted : Bool
  deriving DecidableEq, Repr

/-- A queue entry (R45, R324): the instruction and its word, where it was dispatched, its dispatch number, micro-PC,
wait targets, produced token, captured registers, handles and target allocations, TCB snapshot (R66), region (physical
base, size) and NaN enable (R272). A fault met but not yet taken by the queue is in `fault`; an entry whose work is done
or discarded (R79) is `finished` until its turn to complete. -/
structure Entry where
  instr : Instr
  word : DWord
  addr : DWord
  tid : Nat
  dno : Nat
  upc : Nat := 0
  waits : List (Nat × BitVec 16) := []
  tok : Option Nat := none
  started : Bool := false
  regs : List Word := []
  hdls : List Handle := []
  aids : List Nat := []
  snap : Option (List Byte) := none
  region : Option (Nat × Nat) := none
  nan : Bool := false
  finished : Bool := false
  fault : Option (Nat × DWord) := none
  deriving DecidableEq, Repr

/-- An engine queue or band copy queue (R50, R256): entries oldest first; `faulted` once the oldest entry's fault
stands in the Fault state; `reported` once its thread has taken the trap or its notice is written. -/
structure Queue where
  entries : List Entry := []
  faulted : Bool := false
  reported : Bool := false
  halted : Bool := false
  deriving DecidableEq, Repr

/-- An arrival at the rendezvous latch (R260): the lanes that perform, the GMMA's D, A, B and C, the clock and the word. -/
structure Arrival where
  lanes : List Nat
  regs : List Nat
  since : Nat
  word : DWord
  deriving DecidableEq, Repr

/-- The gang register and latch of a band (R258, R260): n, the list word, the GMMAs released since GANG, and the arrivals
that wait, oldest first. -/
structure Gang where
  n : Nat := 0
  list : Word := 0
  count : Nat := 0
  arrivals : List Arrival := []
  deriving DecidableEq, Repr

/-- A fetch-work mailbox (R37, R38): the requested launch, the scratch address, whether its delivery is outstanding
and whether it holds a withdrawn team that has not been counted. -/
structure Mailbox where
  id : Nat
  lid : Nat
  addr : Nat
  pending : Bool
  holds : Bool
  deriving DecidableEq, Repr

/-- A band (R9, R11): its team and index, masks, uniform registers, tokens, control registers, private
memory, gang state, bundle of the window (R14), copy queue. `fpLive` is the FPMODE in force since the last regroup (R330). -/
structure Band where
  team : Nat := 0
  index : Nat := 0
  lanes : Nat := 0
  nregs : Nat := 64
  m : List (Nat × Word) := []
  arrived : List (Nat × Word) := []
  gens : List (Nat × Bool) := []
  s : List (Nat × Word) := []
  k : List (Nat × Token) := []
  fxis : List FxiRec := []
  tvec : DWord := 0
  fpmode : DWord := 0
  fpLive : DWord := 0
  pkqb : DWord := 0
  pctx : DWord := 0
  pbase : Nat := 0
  psize : Nat := 0
  spilltop : Word := 0
  gang : Gang := {}
  bundle : List Nat := []
  cq : Queue := {}
  nextDno : Nat := 1
  boxes : List Mailbox := []
  haltReq : Bool := false
  halted : Bool := false
  deriving DecidableEq, Repr

/-! ## Cores and tiles -/

/-- The issue window of a sub-partition (R13): the picked bands, the next unused issue slot, the slot of the band that
came last in round-robin order, the clock of the regroup that opened it, and the clock from which the next slot may issue. -/
structure Window where
  picked : List Nat := []
  next : Nat := 4
  last : Nat := 15
  start : Nat := 0
  at_ : Nat := 0
  deriving DecidableEq, Repr

/-- A park notice held in a core (R317, R318), with the band's PKQB, address space and context for its write. -/
structure Notice where
  cause : Nat
  flags : Nat
  slot : Nat
  lane : Nat
  loc : Nat
  tval : DWord
  pc : DWord
  lid : Nat
  index : Nat
  bid : Nat
  pkqb : DWord
  asid : Nat
  ctx : Nat
  deriving DecidableEq, Repr

/-- A core, tile or management core: L1 or data cache (copies of bytes by physical address), TLB, core
registers, windows, held notices, the bands whose park queue has faulted, fences (R112, R349, R311, R13, R317, R422). `swapLive` and `gangLive` are the limits in
force since the last regroup (R330). -/
structure Core where
  l1 : List (Nat × Byte) := []
  tlb : List TlbEntry := []
  swapth : DWord := 4096
  gangto : DWord := 0x100000
  swapLive : DWord := 4096
  gangLive : DWord := 0x100000
  subs : List (Nat × Window) := []
  notices : List Notice := []
  pkqFaults : List Nat := []
  fenced : List Nat := []
  scratchFenced : Bool := false
  budgets : List (Nat × Nat) := []
  deriving DecidableEq, Repr

/-- A slot ring (R68, R71): indices and counts, the bytes landed in the fill slot, the bound channel. -/
structure Ring where
  base : Nat
  size : Nat
  count : Nat
  fill : Nat := 0
  acq : Nat := 0
  free : Nat := 0
  filled : Nat := 0
  acquired : Nat := 0
  part : Nat := 0
  chan : Option Nat := none
  deriving DecidableEq, Repr

/-- A tensor tile (R43): queues, slip limits, tokens, operand slots (claims, fill marks, bytes by 16896 * slot + offset),
accumulators (by 4096 * a + 64 * row + column), vector registers (by 64 * v + lane), poisoned elements, NaN enables,
rings, next dispatch number. -/
structure Tile where
  lq : Queue := {}
  aq : Queue := {}
  sq : Queue := {}
  mq : Queue := {}
  cq : Queue := {}
  slip : List (Nat × Nat) := []
  k : List (Nat × Token) := []
  claims : List (Nat × Bool) := []
  marks : List (Nat × Nat) := []
  slots : List (Nat × Byte) := []
  acc : List (Nat × Word) := []
  v : List (Nat × Word) := []
  slotPoison : List (Nat × Bool) := []
  accPoison : List (Nat × Bool) := []
  vPoison : List (Nat × Bool) := []
  nanM : Bool := false
  nanV : Bool := false
  rings : List (Nat × Ring) := []
  nextDno : Nat := 1
  resetTrap : Bool := false
  ctlHaltReq : Bool := false
  ctlHalted : Bool := false
  lastProgress : Nat := 0
  deriving DecidableEq, Repr

/-- A beat of a bridge copy (R283): 16 bytes, their poisoned 4-byte elements, the team, band index and dispatch number of its
copy, and whether it is the copy's last. -/
structure Beat where
  data : List Byte
  bad : List Nat
  team : Nat
  index : Nat
  dno : Nat
  last : Bool
  deriving DecidableEq, Repr

/-- A bridge channel (R71, R74): its bound ring (tile, ring), the team that bound it, the beats that are on the network by the name of
their packet, and the beats handed to it that no ring has taken. -/
structure Channel where
  bound : Option (Nat × Nat) := none
  team : Nat := 0
  sent : List (Nat × Beat) := []
  beats : List Beat := []
  deriving DecidableEq, Repr

/-! ## Memory requests -/

/-- Where an address lies (R116): global and private memory by extended physical address, a scratchpad allocation by
its name, a slice's staging. -/
inductive Place where
  | phys
  | scratch (aid : Nat)
  | staging (die slice : Nat)
  deriving DecidableEq, Repr

/-- Atomic operations by their code (R228), with the operand, the compare value and the size. -/
structure AtomOp where
  code : Nat
  v : DWord
  cmp : DWord
  size : Nat
  deriving DecidableEq, Repr

/-- What a request does at its memory point. `vset` validates its entries one after another (R136), `evwait` is one read
of an event word (R238), `refill` a call-stack refill (R25), `multi` a multicast with the dies still to perform it. -/
inductive ReqKind where
  | load
  | store
  | atom (op : AtomOp) (ret : Bool)
  | ldv (asid va : Nat)
  | casv (expected : Version) (size : Nat)
  | vset (next : Nat) (entries : List VEntry)
  | evwait
  | refill
  | multi (reps : List Nat)
  deriving DecidableEq, Repr

/-- The share of one thread in a request: the byte addresses in memory order, the data bytes of a write, the
registers that take the result (register, word of the result), and the address a trap would name. -/
structure ReqPart where
  tid : Nat
  va : Nat := 0
  addrs : List Nat
  data : List Byte := []
  dests : List (Nat × Nat) := []
  deriving DecidableEq, Repr

/-- A request in flight (R116, R120): `seq` is its place in the issue order. `posted`: accepted by the outgoing link
or the optical die (R122, R129). `order` is the place of a multicast in its primary replica's sequence (R141). `asid` and `team` are
the address space and team of its thread at issue; `net` says that the cluster space names its bytes (R109), `dies` names the replicas of a
multicast. -/
structure Req where
  id : Nat
  seq : Nat
  u : Nat
  place : Place
  kind : ReqKind
  parts : List ReqPart
  st : Nat := 0
  acq : Bool := false
  rel : Bool := false
  scope : Nat := 0
  l1 : Bool := false
  order : Nat := 0
  performed : Bool := false
  posted : Bool := false
  err : Option Nat := none
  asid : Nat := 0
  team : Nat := 0
  net : Bool := false
  dies : List Nat := []
  deriving DecidableEq, Repr

/-- A late result on its way to its registers (R175, R220): the words and the mark they carry; `grp` names the GMMA on unit
`u` whose results are delivered together (R261). -/
structure Late where
  id : Nat
  tid : Nat
  words : List (Nat × Word)
  mark : Nat := 0
  u : Nat := 0
  grp : Nat := 0
  deriving DecidableEq, Repr

/-- A staging partition (R338, R391): unit range of its slice in bytes, backing, address space of its maker. -/
structure Partition where
  off : Nat
  size : Nat
  backing : Option Nat := none
  asid : Nat := 0
  deriving DecidableEq, Repr

/-- A line resident in its slice (R389): valid and dirty sectors, granule it was filled under, its way. -/
structure L2Line where
  gran : Gran
  valid : List Nat
  dirty : List Nat
  way : Nat := 0
  deriving DecidableEq, Repr

/-- The traffic classes of the package network (R408). -/
inductive TClass where
  | req | rsp | brg | mgt
  deriving DecidableEq, Repr

/-- A packet on the package network (R408-R410): its class, what it carries (the name of a request or reply, a bridge channel, an
invalidation command, a launch), its ends, its place in the order of sending (0 until it is sent), the node it came from and the one it
is at, the nodes still ahead, and its virtual channel. -/
structure Packet where
  cls : TClass
  ref : Nat
  src : Nat
  dst : Nat
  stamp : Nat := 0
  prev : Nat := 0
  node : Nat
  rest : List Nat
  vc : Nat := 0
  deriving DecidableEq, Repr

/-! ## Teams, launches, contexts -/

/-- Where a team is (R371-R377, R320). -/
inductive TeamPlace where
  | returned
  | queued (cl : Nat)
  | resident (u : Nat)
  | stored (cl : Nat)
  | ring (slot : Nat) (cl : Nat)
  | savedOut (u : Nat) (image : Nat)
  | gone
  deriving DecidableEq, Repr

/-- A barrier (R29): generation and the threads that have arrived in it. -/
structure BarState where
  gen : Bool := false
  arrived : List Nat := []
  deriving DecidableEq, Repr

/-- The bands and threads of a swapped team, by band index, and INVSEQ at the swap (R321, R325). -/
structure Leg where
  invat : Nat
  bands : List Band
  threads : List (Nat × Thread)
  deriving DecidableEq, Repr

/-- A team (R9, R35): launch, linear index and coordinates, place, its scratchpad under its allocation's name
`aid`, barriers. A thread is named inside barriers by 1024 * team + 32 * band index + lane; `outLive` holds the live
threads of a team that is saved out. `stopping`: a CTXS is stopping it (R320); `boxes`: mailboxes by band index that hold
withdrawn teams while the team has no bands (R38); `haltedAt`: the clock since which some role of it has been halted (R327);
`last`: the unit it was last resident on, where a completed tensor team's scratchpad stays until the next team (R296); `vas`: the
version-set entries that its threads (32 * band index + lane) had when its images were written, whose records hold no virtual address
(log 29); `hdls`: the valid handles that its images hold, each with INVSEQ at the save (R326, R353). -/
structure Team where
  lid : Nat := 0
  index : Nat := 0
  x : Nat := 0
  y : Nat := 0
  z : Nat := 0
  place : TeamPlace := .gone
  bands : List Nat := []
  aid : Nat := 0
  alloc : Nat := 0
  carry : Nat := 0
  scratch : List (Nat × Byte) := []
  poison : List (Nat × Bool) := []
  outLive : List Nat := []
  bars : List (Nat × BarState) := []
  hinted : Bool := false
  done : Bool := false
  status : Nat := 0
  woken : Bool := false
  stopping : Bool := false
  boxes : List (Nat × Mailbox) := []
  haltedAt : Option Nat := none
  last : Nat := 0
  vas : List (Nat × VEntry) := []
  hdls : List (Nat × Handle) := []
  leg : Option Leg := none
  deriving DecidableEq, Repr

/-- A launch descriptor (R365). -/
structure Desc where
  entry : Nat := 0
  tensor : Bool := false
  priv : Bool := false
  pkgbar : Bool := false
  cgroup : Nat := 0
  regs : Nat := 0
  bands : Nat := 0
  last : Nat := 0
  gx : Nat := 0
  gy : Nat := 0
  gz : Nat := 0
  scratch : Nat := 0
  carry : Nat := 0
  psize : Nat := 0
  spilltop : Nat := 0
  steps : Nat := 0
  ppool : Nat := 0
  tvec : Nat := 0
  pkqb : Nat := 0
  fpmode : Nat := 0
  job : Nat := 0
  jcount : Nat := 0
  graph : Nat := 0
  gcount : Nat := 0
  predn : Nat := 0
  preds : List Nat := []
  args : List Word := []
  trect : List Nat := []
  compl : Nat := 0
  deriving DecidableEq, Repr

/-- A launch (R35, R364-R367), listed by 2^32 * context + identifier: status 0 running, 1 done, 2 cancelled, 3 failed; `next` is the next linear team index
to draw; step budgets newest first with the clock they were written (R386); `inst` names the graph counter that it belongs to. -/
structure Launch where
  ctx : Nat := 0
  queue : Nat := 0
  desc : Desc := {}
  status : Nat := 0
  remaining : Nat := 0
  next : Nat := 0
  total : Nat := 0
  hints : Nat := 0
  cancelled : Bool := false
  budgets : List (Nat × Word) := []
  bars : List (Nat × BarState) := []
  broken : List Nat := []
  reserved : Bool := false
  inst : Nat := 0
  deriving DecidableEq, Repr

/-- A graph or job counter (R367), listed by 65536 * context + id; `inst` is a new name for each counter, as ids are used again. -/
structure Counter where
  remaining : Nat
  accepted : Nat
  count : Nat
  status : Nat := 0
  inst : Nat := 0
  deriving DecidableEq, Repr

/-- A context entry (R363) with the distributor's generator state X (R369) and, for each queue, the launch at
its head and the queue's raised read count (R364). -/
structure Ctx where
  asid : Nat := 0
  valid : Bool := false
  cmode : Nat := 0
  suspended : Bool := false
  seed : Word := 0
  qtab : Nat := 0
  burrow : Nat := 0
  bcap : Nat := 4
  rsize : Nat := 4096
  shaderset : Nat := 0
  rect : Nat := 0
  x : Word := 1
  heads : List (Nat × Nat) := []
  deriving DecidableEq, Repr

/-- An address-space entry (R343). -/
structure ASpace where
  root : Nat := 0
  valid : Bool := false
  blocks : Nat := 0
  windows : Nat := 0
  regtab : Nat := 0
  regcnt : Nat := 0
  shadow : Nat := 0
  shadowCap : Nat := 10
  migq : Nat := 0
  migqCap : Nat := 0
  deriving DecidableEq, Repr

/-- A completion record the Sett holds (R384): context, virtual address, bytes 11:0, status. -/
structure HeldRec where
  ctx : Nat
  va : Nat
  body : List Byte
  status : Nat
  deriving DecidableEq, Repr

/-- An invalidation command (R331) with its progress (R352-R354): receivers that have received it and those that
have acknowledged; frames it dropped (for R356). -/
structure InvCmd where
  seq : Nat
  asid : Nat
  kind : Nat
  hint : Nat
  count : Nat
  base : Nat
  broadcast : Bool := false
  received : List Receiver := []
  acked : List Receiver := []
  pending : List (Receiver × List Nat) := []
  frames : List (Nat × Nat) := []
  complete : Bool := false
  deriving DecidableEq, Repr

/-- A CTXS whose team has not stopped yet, or waits for a leg boundary (R320, R333): the thread and register of its
status. -/
structure SaveReq where
  id : Nat
  team : Nat
  image : Nat
  copy : Bool
  leg : Bool
  tid : Nat
  d : Nat
  deriving DecidableEq, Repr

/-- A HALT that waits for its role to stop (R335): the target word, the thread and register of its status. -/
structure HaltReq where
  id : Nat
  target : Word
  tid : Nat
  d : Nat
  deriving DecidableEq, Repr

/-- A migration in progress (R360): address space, request number, line index next to copy. -/
structure Migration where
  asid : Nat
  slot : Nat
  src : Nat
  dst : Nat
  frames : Nat
  gran : Gran
  line : Nat := 0
  deriving DecidableEq, Repr

/-! ## Dies, memory controllers, links -/

/-- Die states of R339 and R424. -/
inductive DieState where
  | online | quiesced | flushed | ready | fenced
  deriving DecidableEq, Repr

/-- A die's shell and core-region state (R413, R424): the thread in `drst.quiesce` (R414), the syndrome registers, links,
resets, clock. `retrainsLeft` lists the links still to be retrained, `retrainBy` the clock by which a retrain under way ends (R412),
`resetting` the thread and register of a `drst.core` that waits for them (R418). -/
structure Die where
  st : DieState := .online
  quiescing : Option Nat := none
  start : Nat := 0
  syncnt : DWord := 0
  synrec : DWord := 0
  synslc : DWord := 0
  synclu : DWord := 0
  syndse : DWord := 0
  synlnk : DWord := 0
  resets : Word := 0
  stretched : Bool := false
  replays : List (Nat × Nat) := []
  fencedLanes : List Nat := []
  retrainsLeft : List Nat := []
  retrainBy : List (Nat × Nat) := []
  resetting : Option (Nat × Nat) := none
  deriving DecidableEq, Repr

/-- A request queued at a sub-channel (R405): class 0 D, 1 C, 2 M; row and bank; arrival clock; requesting cluster. -/
structure DramReq where
  cls : Nat
  write : Bool
  bank : Nat
  row : Nat
  at_ : Nat
  cl : Nat
  deriving DecidableEq, Repr

/-- A sub-channel (R405, R406): its queue, the requests that wait at the slices for room in it, the open row of each bank, the
classes of the grants since C and M were last due, and the level last sent to each cluster with the clock of the message, or the level
when its first request came. -/
structure SubChan where
  queue : List DramReq := []
  waiting : List DramReq := []
  open_ : List (Nat × Nat) := []
  recent : List Nat := []
  sent : List (Nat × (Nat × Nat)) := []
  deriving DecidableEq, Repr

/-- A memory controller (R395-R406): sub-channels, layer temperatures and intervals, refresh counts, lost sub-channels
of W2K groups, the clock until which a refresh keeps each bank unavailable, fenced banks. -/
structure Stack where
  chans : List (Nat × SubChan) := []
  temps : List (Nat × Nat) := []
  intervals : List (Nat × Nat) := []
  due : List (Nat × Nat) := []
  postponed : List (Nat × Nat) := []
  lost : List Nat := []
  busy : List (Nat × Nat) := []
  fencedBanks : List Nat := []
  deriving DecidableEq, Repr

/-- A congestion level a cluster has received: level and clock (R385). -/
structure Level where
  level : Nat
  at_ : Nat
  deriving DecidableEq, Repr

/-! ## Host port, fabric, boot -/

/-- A memory region entry (R433). -/
structure MemRegion where
  key : Nat
  asid : Nat
  r : Bool
  w : Bool
  atomic : Bool
  base : Nat
  len : Nat
  deriving DecidableEq, Repr

/-- A queue pair (R432, R433): connected, in the error state, its sending rate divided by 2^slow. -/
structure QPair where
  connected : Bool := false
  error : Bool := false
  slow : Nat := 0
  deriving DecidableEq, Repr

/-- A window or export entry (R437, R438): for an export entry `any`, r and w are its grants. -/
structure Window64 where
  v : Bool := false
  pkg : Nat := 0
  base : Nat := 0
  size : Nat := 0
  r : Bool := false
  w : Bool := false
  any : Bool := false
  deriving DecidableEq, Repr

/-- What the package sends to the outside: answers of the port, the fabric and the SPDM responder, and notices. -/
inductive Out where
  | rdmaAck (qp : Nat)
  | rdmaData (qp : Nat) (data : List Byte)
  | rdmaAtomic (qp : Nat) (old : DWord)
  | rdmaError (qp : Nat)
  | fabricData (pkg : Nat) (data : List Byte)
  | fabricAck (pkg : Nat)
  | fabricVersion (pkg : Nat) (data : List Byte) (ver : Version)
  | fabricError (pkg : Nat)
  | fabricPoison (pkg : Nat)
  | fabricWrite (pkg addr : Nat) (data : List Byte)
  | spdm (code : Nat) (body : List Byte)
  | mgmt (data : List Byte)
  | completion (lid status : Nat)
  deriving DecidableEq, Repr

/-- What the port hands to Sett firmware: messages of the management channel, payloads and immediate data of queue pairs. -/
inductive Inbound where
  | mgmt (src : Nat) (data : List Byte)
  | send (qp : Nat) (data : List Byte)
  | immediate (qp : Nat) (v : Word)
  deriving DecidableEq, Repr

/-- Boot stages (R440): in the ROM, firmware running and dies up, or in recovery (R441). -/
inductive BootStage where
  | rom | up | recovery
  deriving DecidableEq, Repr

/-- The security block and boot inputs (R440-R444): fused key hashes with their revoked bits, rollback counter, fuse
word, flash copies A and B and the base-die and optical images, measurement slots by number, debug-enable state. -/
structure Boot where
  stage : BootStage := .rom
  keyHash : List (Nat × BitVec 384) := []
  revoked : List Nat := []
  rollback : Nat := 0
  fuseState : Nat := 0
  rom : List Byte := []
  flashA : List Byte := []
  flashB : List Byte := []
  baseImage : List Byte := []
  opticalImage : List Byte := []
  slots : List (Nat × BitVec 384) := []
  debug : Nat := 0
  aliasCert : List Byte := []
  allow : List Nat := []
  deriving DecidableEq, Repr

/-- The SPDM responder (R444): whether GET_VERSION, GET_CAPABILITIES and NEGOTIATE_ALGORITHMS have been answered, the
session in handshake or established, and the number of sessions begun. -/
structure Spdm where
  version : Bool := false
  caps : Bool := false
  algs : Bool := false
  handshake : Bool := false
  session : Bool := false
  count : Nat := 0
  deriving DecidableEq, Repr

/-! ## The agenda -/

/-- Data outside memory that an uncorrectable error poisons (R423): a scratchpad's or staging's byte, a register of a thread, a byte of an
operand slot, an element of an accumulator (4096 accumulator + 64 row + column), a lane of a vector register (64 register + lane). -/
inductive BadData where
  | scratch (aid addr : Nat)
  | staging (die slice off : Nat)
  | reg (tid r : Nat)
  | slot (u o off : Nat)
  | acc (u k : Nat)
  | vreg (u k : Nat)
  deriving DecidableEq, Repr

/-- What Sett firmware or the outside may set that no row of the opcode table names: each is an input of the machine. -/
inductive FwAction where
  | setCtx (id : Nat) (c : Ctx)
  | setSpace (id : Nat) (a : ASpace)
  | setRegion (r : MemRegion)
  | setWindow (w : Nat) (e : Window64)
  | setExport (i : Nat) (e : Window64)
  | setRoute (pkg : Nat) (fibres : List Nat)
  | setRefused (pages : List Nat)
  | setAllow (addrs : List Nat)
  | setPkqb (bid : Nat) (v : DWord)
  | setPhys (pa : Nat) (data : List Byte)
  | machineLaunch (ctx wcnt : Nat) (desc : List Byte)
  | startCore (n : Nat) (entry : Nat) (pctx : DWord)
  | resumeCtx (id : Nat)
  | retrain (die link : Nat)
  | setFlash (a b base optical : List Byte)
  | setFuses (keys : List (Nat × BitVec 384)) (revoked : List Nat) (rollback fuse : Nat) (rom : List Byte)
  | poison (pa : Nat)
  | dieError (cls : Nat) (st : Structure)
  | badData (x : BadData)
  | damage (pa : Nat) (errs : List (List Nat))
  deriving DecidableEq, Repr

/-- One item of the agenda: an event of the opcode table with its arguments; an issue slot of a
sub-partition; clocks that pass; something a cache replaces (R112, R349, R389); one read of a walk (R347); a
step budget reaching a unit (R386); a CTXS whose team has stopped (R320); withdrawn teams that count (R38); a packet crossing its next link (R408); an input. -/
inductive Item where
  | event (i : Instr) (e : EventArgs)
  | issue (u sub : Nat)
  | elapse (n : Nat)
  | dropL1 (u addr : Nat)
  | dropTlb (u idx : Nat)
  | dropWalk (die key : Nat)
  | walkRead (tid hdl : Nat)
  | budgetArrive (u lid : Nat)
  | saveDone (id : Nat)
  | countWithdrawn
  | hop (cls : TClass) (ref : Nat) (dst : Nat)
  | firmware (a : FwAction)
  deriving DecidableEq, Repr

/-- The bundle that issues: unit, band, members, the address of the word and the word (R14); `trapped` are the members that take an
engine fault in place of the word (R316). -/
structure Issue where
  u : Nat := 0
  bid : Nat := 0
  lanes : List Nat := []
  pc : DWord := 0
  word : DWord := 0
  trapped : List Nat := []
  deriving DecidableEq, Repr

/-- The package. -/
structure State where
  /-- Clocks since the cold reset. -/
  clock : Nat
  /-- Next unused name. -/
  fresh : Nat
  /-- Free values taken so far. -/
  free : Nat
  /-- What acts next. -/
  agenda : List Item
  /-- Unit and sub-partition that issue when the agenda is empty. -/
  focus : Nat × Nat
  /-- Operands of the running event. -/
  ev : EventArgs
  /-- The bundle that issues. -/
  cur : Issue
  threads : List (Nat × Thread)
  bands : List (Nat × Band)
  teams : List (Nat × Team)
  /-- Allocation, its unit and bytes (R34). -/
  quarantine : List (Nat × (Nat × Nat))
  cores : List (Nat × Core)
  tiles : List (Nat × Tile)
  channels : List (Nat × Channel)
  /-- Physical memory. -/
  mem : List Host.Cell
  /-- Poisoned sectors by address / 16 (R423). -/
  poison : List (Nat × Bool)
  /-- Line versions (R133). -/
  versions : List (Nat × Version)
  /-- Lines whose version was lost (R394). -/
  lost : List (Nat × Bool)
  /-- Version floor of slice 64 * die + slice (R393). -/
  floors : List (Nat × Version)
  /-- Floors kept by the Sett (R415). -/
  baseFloors : List (Nat × Version)
  /-- Frame granule map (R348). -/
  granules : List (Nat × Gran)
  /-- Resident lines by line number (R389). -/
  l2 : List (Nat × L2Line)
  /-- Staging partitions by 64 * die + slice. -/
  parts : List (Nat × List Partition)
  /-- Staging bytes by 64 * die + slice. -/
  staging : List (Nat × List Host.Cell)
  stagingPoison : List (Nat × Bool)
  /-- Damaged symbols of the codewords in DRAM, one list a codeword, by the first address / 32 of the correction unit (R400). -/
  damage : List (Nat × List (List Nat))
  /-- Requests in flight. -/
  reqs : List Req
  /-- Packets on the package network, oldest first (R408). -/
  packets : List Packet
  /-- Late results. -/
  lates : List Late
  /-- Table entries cached by die, address space and address: key (die * 2^16 + space) * 2^48 + address (R349). -/
  walkCache : List (Nat × DWord)
  spaces : List (Nat × ASpace)
  ctxs : List (Nat × Ctx)
  machineQ : List Nat
  /-- Launches placed on the machine queue that are not yet its head: context, write count, descriptor (R364, R449). -/
  machineWait : List (Nat × (Nat × List Byte))
  launches : List (Nat × Launch)
  graphs : List (Nat × Counter)
  jobs : List (Nat × Counter)
  clusterQ : List (Nat × List Nat)
  lastSteal : List (Nat × Nat)
  /-- Clock of a cluster's last TEAM_RESIDENT (R374). -/
  lastStart : List (Nat × Nat)
  drawTurn : List (Nat × Nat)
  /-- Withdrawn teams that count in a launch once some writes have been acknowledged (R38). -/
  counts : List (Nat × List Nat)
  levels : List (Nat × Level)
  heldRecs : List HeldRec
  complFault : Bool
  burrowFault : List Nat
  invq : List InvCmd
  invNext : Nat
  invseq : Word
  saves : List SaveReq
  halts : List HaltReq
  migrations : List (Nat × Migration)
  dies : List (Nat × Die)
  hbm : List (Nat × Stack)
  tests : List (Structure × Nat)
  fallbackFences : List Nat
  regions : List MemRegion
  qpairs : List (Nat × QPair)
  portTlb : List TlbEntry
  paused : List (Nat × Nat)
  hostTime : Nat
  fabid : DWord
  windows : List (Nat × Window64)
  exports : List (Nat × Window64)
  routes : List (Nat × List Nat)
  deadFibres : List Nat
  fibreReplays : List (Nat × Nat)
  unreachable : List Nat
  refused : List Nat
  boot : Boot
  spdm : Spdm
  outs : List Out
  inbox : List Inbound
  deriving DecidableEq, Repr

/-- The machine right after a cold reset (R440): no context, team, request or translation exists, the boot chain is
at its ROM stage, and every value the specification gives no reset for is the one log 2 names. -/
def State.reset : State where
  clock := 0
  fresh := 1
  free := 0
  agenda := []
  focus := (0, 0)
  ev := {}
  cur := {}
  threads := []
  bands := []
  teams := []
  quarantine := []
  cores := []
  tiles := []
  channels := []
  mem := []
  poison := []
  versions := []
  lost := []
  floors := []
  baseFloors := []
  granules := []
  l2 := []
  parts := []
  staging := []
  stagingPoison := []
  damage := []
  reqs := []
  packets := []
  lates := []
  walkCache := []
  spaces := []
  ctxs := []
  machineQ := []
  machineWait := []
  launches := []
  graphs := []
  jobs := []
  clusterQ := []
  lastSteal := []
  lastStart := []
  drawTurn := []
  counts := []
  levels := []
  heldRecs := []
  complFault := false
  burrowFault := []
  invq := []
  invNext := 1
  invseq := 0
  saves := []
  halts := []
  migrations := []
  dies := []
  hbm := []
  tests := []
  fallbackFences := []
  regions := []
  qpairs := []
  portTlb := []
  paused := []
  hostTime := 0
  fabid := 0
  windows := []
  exports := []
  routes := []
  deadFibres := []
  fibreReplays := []
  unreachable := []
  refused := []
  boot := {}
  spdm := {}
  outs := []
  inbox := []

end Sys2Proof.Machine
end

