-- ==== Sys2Proof/Machine/Base.lean ====
section
/-!
DEFINITION. Named access to the parts of State: units, threads, bands, teams, cores and tiles; registers of a
thread; bytes, poison and versions of memory; homes of lines (04, 14 R342, 16 R388).
-/

namespace Sys2Proof.Machine

/-! ## Places (00 R7, 01 R9-R10, 06 R210) -/

/-- The band of a thread. -/
def bandOf (tid : Nat) : Nat := tid / 32
/-- The lane of a thread. -/
def laneOf (tid : Nat) : Nat := tid % 32
/-- The unit of a band. -/
def unitOfBand (bid : Nat) : Nat := bid / 64
/-- The unit of a thread. -/
def unitOf (tid : Nat) : Nat := unitOfBand (bandOf tid)
/-- The slot of a band on its unit. -/
def slotOf (bid : Nat) : Nat := bid % 64
/-- A shader core: dies 0-3. -/
def isShader (u : Nat) : Bool := u < 1024
/-- A tensor tile: dies 4-7. -/
def isTile (u : Nat) : Bool := 1024 ≤ u && u < 2048
/-- A management core of the Sett (R309). -/
def isMgmt (u : Nat) : Bool := 2048 ≤ u
/-- The die of a core or tile; 8 for the Sett. -/
def dieOf (u : Nat) : Nat := u / 256
/-- The cluster of a core or tile, counted over the package: 32 * die + cluster. -/
def clusterOf (u : Nat) : Nat := u / 8
/-- The location of a unit in the SREG index 8 layout, without sub-partition (R210, R309). -/
def locOf (u : Nat) : Nat := if isMgmt u then 0x8000 + (u - 2048) else u
/-- The unit a 16-bit location names, if there is one. -/
def unitAt (loc : Nat) : Option Nat :=
  if loc < 2048 then some loc else if 0x8000 ≤ loc ∧ loc < 0x8004 then some (loc - 0x8000 + 2048) else none

/-! ## Records -/

/-- A thread's record. -/
def State.thread (s : State) (tid : Nat) : Thread := (find? tid s.threads).getD {}
/-- A band's record. -/
def State.band (s : State) (bid : Nat) : Band := (find? bid s.bands).getD {}
/-- A team's record. -/
def State.team (s : State) (k : Nat) : Team := (find? k s.teams).getD {}
/-- A core's record. -/
def State.core (s : State) (u : Nat) : Core := (find? u s.cores).getD {}
/-- A tile's record. -/
def State.tile (s : State) (u : Nat) : Tile := (find? u s.tiles).getD {}
/-- A launch's record. -/
def State.launch (s : State) (lid : Nat) : Launch := (find? lid s.launches).getD {}
/-- A context entry. -/
def State.ctx (s : State) (c : Nat) : Ctx := (find? c s.ctxs).getD {}
/-- The id names an address space (R343). -/
def isSpace (a : Nat) : Bool := decide (1 ≤ a ∧ a < 4096)
/-- An address-space entry: ids that name no space have none that is valid (R343). -/
def State.space (s : State) (a : Nat) : ASpace := if isSpace a then (find? a s.spaces).getD {} else {}
/-- A die's shell and state. -/
def State.die (s : State) (d : Nat) : Die := (find? d s.dies).getD {}
/-- A memory controller. -/
def State.stack (s : State) (n : Nat) : Stack := (find? n s.hbm).getD {}

/-- Changes a thread. -/
def State.onThread (s : State) (tid : Nat) (f : Thread → Thread) : State :=
  { s with threads := smod tid f s.threads }
/-- Changes a band. -/
def State.onBand (s : State) (bid : Nat) (f : Band → Band) : State := { s with bands := smod bid f s.bands }
/-- Changes a team. -/
def State.onTeam (s : State) (k : Nat) (f : Team → Team) : State := { s with teams := smod k f s.teams }
/-- Changes a core. -/
def State.onCore (s : State) (u : Nat) (f : Core → Core) : State :=
  { s with cores := sput u (f (s.core u)) s.cores }
/-- Changes a tile. -/
def State.onTile (s : State) (u : Nat) (f : Tile → Tile) : State :=
  { s with tiles := sput u (f (s.tile u)) s.tiles }
/-- Changes a launch. -/
def State.onLaunch (s : State) (lid : Nat) (f : Launch → Launch) : State :=
  { s with launches := smod lid f s.launches }
/-- Changes a context. -/
def State.onCtx (s : State) (c : Nat) (f : Ctx → Ctx) : State := { s with ctxs := smod c f s.ctxs }
/-- Changes a die. -/
def State.onDie (s : State) (d : Nat) (f : Die → Die) : State := { s with dies := sput d (f (s.die d)) s.dies }
/-- Changes a memory controller. -/
def State.onStack (s : State) (n : Nat) (f : Stack → Stack) : State :=
  { s with hbm := sput n (f (s.stack n)) s.hbm }

/-- The n-th fresh name, and the state with it used. -/
def State.fresh1 (s : State) : Nat × State := (s.fresh, { s with fresh := s.fresh + 1 })

/-- The team of a thread. -/
def State.teamOf (s : State) (tid : Nat) : Nat := (s.band (bandOf tid)).team
/-- The launch of a thread. -/
def State.lidOf (s : State) (tid : Nat) : Nat := (s.team (s.teamOf tid)).lid
/-- Address space of a thread: PCTX bits 31:16 (R311). -/
def State.asidOf (s : State) (tid : Nat) : Nat := bitsOf (s.band (bandOf tid)).pctx.toNat 31 16
/-- Context of a thread: PCTX bits 15:0 (R311). -/
def State.ctxOf (s : State) (tid : Nat) : Nat := bitsOf (s.band (bandOf tid)).pctx.toNat 15 0
/-- The lasting name of a thread inside barriers (R29). -/
def State.rid (s : State) (tid : Nat) : Nat :=
  1024 * s.teamOf tid + 32 * (s.band (bandOf tid)).index + laneOf tid
/-- The lanes a band has. -/
def lanesList (n : Nat) : List Nat := List.range n
/-- The threads of a band. -/
def State.bandTids (s : State) (bid : Nat) : List Nat :=
  (lanesList (s.band bid).lanes).map (fun l => 32 * bid + l)
/-- The threads of a resident team. -/
def State.teamTids (s : State) (k : Nat) : List Nat := (s.team k).bands.flatMap s.bandTids
/-- Is FTZ set for a thread (R95, R311): on a shader core as of the last regroup (R330). -/
def State.ftz (s : State) (tid : Nat) : Bool :=
  let b := s.band (bandOf tid)
  if isShader (unitOf tid) then b.fpLive.getLsbD 0 else b.fpmode.getLsbD 0

/-! ## Registers of a thread -/

/-- g[r]. -/
def Thread.reg (t : Thread) (r : Nat) : Word := sget 0 t.g r
/-- g64[r] (R150). -/
def Thread.reg64 (t : Thread) (r : Nat) : DWord := t.reg (r + 1) ++ t.reg r
/-- g[r] is empty. -/
def Thread.isEmpty (t : Thread) (r : Nat) : Bool := sget false t.empty r
/-- The deferred-error mark of g[r]: 0 none, 1 cause 0x0F, 2 cause 0x10 (R220, R323). -/
def Thread.markOf (t : Thread) (r : Nat) : Nat := sget 0 t.mark r
/-- Writes g[r]: it is then full and unmarked (R220). -/
def Thread.setReg (t : Thread) (r : Nat) (w : Word) : Thread :=
  { t with g := sset 0 t.g r w, empty := sset false t.empty r false, mark := sset 0 t.mark r 0 }
/-- Writes g64[r]. -/
def Thread.setReg64 (t : Thread) (r : Nat) (w : DWord) : Thread :=
  (t.setReg r (w.extractLsb' 0 32)).setReg (r + 1) (w.extractLsb' 32 32)
/-- Writes the first of several words at r and the following ones above it. -/
def Thread.setRegs (t : Thread) (r : Nat) : List Word → Thread
  | [] => t
  | w :: ws => (t.setReg r w).setRegs (r + 1) ws
/-- Empties n registers from r on (R162). -/
def Thread.emptyRegs (t : Thread) (r : Nat) : Nat → Thread
  | 0 => t
  | n + 1 => ({ t with empty := sset false t.empty r true }).emptyRegs (r + 1) n
/-- A handle register. -/
def Thread.hdl (t : Thread) (h : Nat) : Handle := sget {} t.h h
/-- Writes a handle register. -/
def Thread.setHdl (t : Thread) (h : Nat) (x : Handle) : Thread := { t with h := sset {} t.h h x }
/-- The program counter moves past the word (R144). -/
def Thread.advance (t : Thread) : Thread := { t with pc := t.pc + 8 }
/-- Not exited, parked or waiting (R12). -/
def Thread.live (t : Thread) : Bool := !t.exited
/-- May issue as far as waits go (R12). -/
def Thread.free (t : Thread) : Bool := !t.exited && t.parked.isNone && t.wait == .none

/-- The lowest of some numbers; d where there is none. -/
def lowest (d : Nat) (xs : List Nat) : Nat := xs.min?.getD d

/-- A number lies between two others. -/
def within (lo hi x : Nat) : Bool := decide (lo ≤ x) && decide (x ≤ hi)

/-- Lane masks as words. -/
def maskOf (ls : List Nat) : Word := ls.foldl (fun w l => w ||| ((1 : Word) <<< l)) 0
/-- A mask word has a lane. -/
def hasLane (w : Word) (l : Nat) : Bool := w.getLsbD l
/-- Mask n of a band: m0-m11 (R11). -/
def Band.mask (b : Band) (n : Nat) : Word := sget 0 b.m n
/-- Writes mask n. -/
def Band.setMask (b : Band) (n : Nat) (w : Word) : Band := { b with m := sset 0 b.m n w }
/-- Uniform register n. -/
def Band.sreg (b : Band) (n : Nat) : Word := sget 0 b.s n
/-- The parked lanes of a band: mask mp (R16). -/
def State.parkedMask (s : State) (bid : Nat) : Word :=
  maskOf ((lanesList (s.band bid).lanes).filter (fun l => (s.thread (32 * bid + l)).parked.isSome))
/-- A mask read by field value 0-13 (R149, R200): 12 is ma, 13 is mp. -/
def State.readMask (s : State) (is : Issue) (n : Nat) : Word :=
  if n = 12 then maskOf is.lanes else if n = 13 then s.parkedMask is.bid else (s.band is.bid).mask n

/-! ## Tokens (R51) -/

/-- Token n of a band. -/
def Band.tok (b : Band) (n : Nat) : Token := sget {} b.k n
/-- Token n of the unit or band a thread runs on: the tile's on a tile, else the band's. -/
def State.token (s : State) (tid n : Nat) : Token :=
  if isTile (unitOf tid) then sget {} (s.tile (unitOf tid)).k n else (s.band (bandOf tid)).tok n
/-- Changes token n. -/
def State.onToken (s : State) (tid n : Nat) (f : Token → Token) : State :=
  if isTile (unitOf tid) then s.onTile (unitOf tid) (fun t => { t with k := sset {} t.k n (f (sget {} t.k n)) })
  else s.onBand (bandOf tid) (fun b => { b with k := sset {} b.k n (f (sget {} b.k n)) })
/-- A wait for a target is satisfied (R51). -/
def Token.reached (t : Token) (target : BitVec 16) : Bool := (t.done - target).toNat < 2 ^ 15
/-- Outstanding producers of a token (R52). -/
def Token.outstanding (t : Token) : Nat := (t.issued - t.done).toNat

/-! ## Physical addresses, lines, homes -/

/-- Address in a fabric window (R342). -/
def isFabric (pa : Nat) : Bool := 2 ^ 47 ≤ pa && pa < 2 ^ 48
/-- Address in local memory (R342). -/
def isLocal (pa : Nat) : Bool := pa < 2 ^ 40 && pa % 2 ^ 37 < 0x1800000000
/-- Extended address of byte `pa` of another package: where the model keeps other packages' memory. -/
def remoteBase (pkg : Nat) : Nat := 2 ^ 60 + pkg * 2 ^ 48
/-- The package of an extended address; none for this package. -/
def remotePkg (x : Nat) : Option Nat := if 2 ^ 60 ≤ x then some ((x - 2 ^ 60) / 2 ^ 48) else none
/-- The stack and home die of a local address (R114, R388). -/
def homeDie (pa : Nat) : Nat := bitsOf pa 39 37
/-- The home slice of a local address (R388). -/
def homeSlice (pa : Nat) : Nat :=
  bitsOf pa 16 11 ^^^ bitsOf pa 22 17 ^^^ bitsOf pa 28 23 ^^^ bitsOf pa 34 29 ^^^ bitsOf pa 36 35
/-- Slice number over the package. -/
def sliceOf (pa : Nat) : Nat := 64 * homeDie pa + homeSlice pa
/-- Line number. -/
def lineOf (a : Nat) : Nat := a / 128
/-- The granule of the frame of an address (R348). -/
def State.granule (s : State) (pa : Nat) : Gran := sget .l128 s.granules (pa / 65536)
/-- Ring hops between two dies (R140, R392). -/
def ringHops (a b : Nat) : Nat := Nat.min ((b + 8 - a) % 8) ((a + 8 - b) % 8)
/-- The nearest replica of a set of dies to a die (R140): fewest hops, then lowest number. -/
def nearestDie (d : Nat) (ds : List Nat) : Nat :=
  ds.foldl (fun best x =>
    if ringHops d x < ringHops d best ∨ (ringHops d x = ringHops d best ∧ x < best) then x else best) (ds.headD 0)
/-- The dies of a page's replicas, primary first (R140, R345). -/
def Leaf.dies (l : Leaf) : List Nat := homeDie l.pa :: l.reps
/-- A local address moved to the same offset of another stack. -/
def onStackOf (pa die : Nat) : Nat := die * 2 ^ 37 + pa % 2 ^ 37
/-- The bytes a page covers (R345). -/
def pageBytes (size : Nat) : Nat := if size = 0 then 2 ^ 16 else if size = 1 then 2 ^ 25 else 2 ^ 34

/-- Extended address behind a physical address: its window entry names the package and base (R437); none where the
address is in no range or the window is not valid. -/
def State.extend (s : State) (pa : Nat) : Option Nat :=
  if isFabric pa then
    let w := (find? (bitsOf pa 46 41) s.windows).getD {}
    if w.v && pa % 2 ^ 41 < w.size then some (remoteBase w.pkg + w.base + pa % 2 ^ 41) else none
  else if isLocal pa then some pa else none

/-- Requests to an extended address of another package are answered with an error: no fibre of the package's set works (R439), the fabric is
disabled because FABID is not valid (R440), or no export entry of that package covers the page (R438; log 98). -/
def State.farOff (s : State) (x : Nat) : Bool :=
  match remotePkg x with
  | some p => s.unreachable.contains p || !s.fabid.getLsbD 15 || s.refused.contains (x / 65536)
  | none => false

/-! ## Bytes (Memory) -/

/-- What a byte that nothing has written reads as (log 3). -/
def Memory.blank : Byte := 0
/-- The canonical form of a memory: addresses rising, no byte equal to the blank one. -/
def Memory.wf (m : List Host.Cell) : Bool := canonical Memory.blank m
/-- One byte. -/
def Memory.read (m : List Host.Cell) (a : Nat) : Byte := sget Memory.blank m a
/-- Writes one byte. -/
def Memory.write (m : List Host.Cell) (a : Nat) (b : Byte) : List Host.Cell := sset Memory.blank m a b
/-- Writes bytes at listed addresses. -/
def Memory.writeAll (m : List Host.Cell) : List (Nat × Byte) → List Host.Cell
  | [] => m
  | (a, b) :: t => Memory.writeAll (Memory.write m a b) t

/-- The team that holds an allocation. -/
def State.teamWith (s : State) (aid : Nat) : Option Nat :=
  (s.teams.find? (fun p => p.2.aid == aid)).map (·.1)

/-- One byte of a place; an allocation that no team holds any more reads as blank. -/
def State.readByte (s : State) (pl : Place) (a : Nat) : Byte :=
  match pl with
  | .phys => Memory.read s.mem a
  | .scratch aid =>
    match s.teamWith aid with
    | some k => Memory.read (s.team k).scratch a
    | none => Memory.blank
  | .staging d sl => Memory.read (sget [] s.staging (64 * d + sl)) a

/-- Writes bytes of a place; a write to an allocation that no team holds lands in quarantined space (R34). -/
def State.writeBytes (s : State) (pl : Place) (bs : List (Nat × Byte)) : State :=
  match pl with
  | .phys => { s with mem := Memory.writeAll s.mem bs }
  | .scratch aid =>
    match s.teamWith aid with
    | some k => s.onTeam k (fun t => { t with scratch := Memory.writeAll t.scratch bs })
    | none => s
  | .staging d sl =>
    { s with staging := sset [] s.staging (64 * d + sl) (Memory.writeAll (sget [] s.staging (64 * d + sl)) bs) }

/-- The n bytes from an address on. -/
def State.readN (s : State) (pl : Place) (a n : Nat) : List Byte :=
  (List.range n).map (fun i => s.readByte pl (a + i))
/-- A little-endian value of n bytes. -/
def State.readNat (s : State) (pl : Place) (a n : Nat) : Nat := fromBytes (s.readN pl a n)
/-- Consecutive addresses with their bytes. -/
def cellsAt (a : Nat) (bs : List Byte) : List (Nat × Byte) := (List.range bs.length).zip bs |>.map (fun p => (a + p.1, p.2))
/-- Writes consecutive bytes. -/
def State.writeN (s : State) (pl : Place) (a : Nat) (bs : List Byte) : State := s.writeBytes pl (cellsAt a bs)

/-- Poison granule of a byte address: 16-byte sectors of memory and staging, 4-byte elements of scratchpads (R423). -/
def poisonUnit (pl : Place) : Nat := match pl with | .scratch _ => 4 | _ => 16

/-- The poison key of staging of slice (die, slice) at a granule: slices are 2^18 granules apart. -/
def stagingKey (d sl g : Nat) : Nat := (64 * d + sl) * 2 ^ 18 + g

/-- The granule holding an address is poisoned (R423). -/
def State.poisoned (s : State) (pl : Place) (a : Nat) : Bool :=
  match pl with
  | .phys => sget false s.poison (a / 16)
  | .scratch aid =>
    match s.teamWith aid with
    | some k => sget false (s.team k).poison (a / 4)
    | none => false
  | .staging d sl => sget false s.stagingPoison (stagingKey d sl (a / 16))

/-- Sets or clears the poison of a granule. -/
def State.setPoison (s : State) (pl : Place) (a : Nat) (p : Bool) : State :=
  match pl with
  | .phys => { s with poison := sset false s.poison (a / 16) p }
  | .scratch aid =>
    match s.teamWith aid with
    | some k => s.onTeam k (fun t => { t with poison := sset false t.poison (a / 4) p })
    | none => s
  | .staging d sl => { s with stagingPoison := sset false s.stagingPoison (stagingKey d sl (a / 16)) p }

/-- Distinct elements in order of first appearance. -/
def distinct (xs : List Nat) : List Nat := xs.foldl (fun acc x => if acc.contains x then acc else acc ++ [x]) []

/-- A write that covers a whole granule clears its poison (R423). -/
def State.clearCovered (s : State) (pl : Place) (addrs : List Nat) : State :=
  let g := poisonUnit pl
  (distinct (addrs.map (· / g))).foldl (fun s k =>
    if (List.range g).all (fun i => addrs.contains (k * g + i)) then s.setPoison pl (k * g) false else s) s

/-- Writes bytes and clears the poison of the granules they cover. -/
def State.store (s : State) (pl : Place) (bs : List (Nat × Byte)) : State :=
  (s.writeBytes pl bs).clearCovered pl (bs.map (·.1))

/-! ## Versions (R133, R393) -/

/-- A line's version: the free initial one until something changes it; on a frame of S32 granule, the one it holds
while it is resident and otherwise its slice's floor. -/
def State.version (s : State) (line : Nat) : Version :=
  let pa := line * 128
  if pa < 2 ^ 60 && s.granule pa == .s32 then
    if (find? line s.l2).isSome then (find? line s.versions).getD (sget 0 s.floors (sliceOf pa))
    else sget 0 s.floors (sliceOf pa)
  else (find? line s.versions).getD (Config.initVersion line)

/-- The home of a line is its slice; when the die is flushed or ready, or the slice is fenced, it is the fallback home
agent (R416, R422). -/
def State.atAgent (s : State) (pa : Nat) : Bool :=
  (s.die (homeDie pa)).st == .flushed || (s.die (homeDie pa)).st == .ready || (s.die (homeDie pa)).st == .fenced ||
  s.fallbackFences.contains (sliceOf pa)

/-- The lines that are filled and replaced together with a line (R389). -/
def State.groupLines (s : State) (line : Nat) : List Nat :=
  match s.granule (line * 128) with
  | .w512 => (List.range 4).map (fun i => line / 4 * 4 + i)
  | .w2k => (List.range 16).map (fun i => line / 16 * 16 + i)
  | _ => [line]

/-! ## Requests (R122, R124) -/

/-- Acknowledged writes: requests that stay in flight until their acknowledgement (R122, R124). -/
def Req.isStore (r : Req) : Bool :=
  match r.kind with
  | .store => true
  | .atom _ ret => !ret
  | .multi _ => true
  | _ => false

/-- The request writes at its memory point (R122, R129). -/
def Req.writes (r : Req) : Bool :=
  match r.kind with
  | .atom _ _ => true
  | .casv _ _ => true
  | _ => r.isStore

/-- The request reads at its memory point (R120, R126): loads, and atomics with or without a result. -/
def Req.reads (r : Req) : Bool :=
  match r.kind with
  | .store => false
  | .multi _ => false
  | _ => true

/-- The request belongs to a thread. -/
def Req.of (r : Req) (tid : Nat) : Bool := r.parts.any (fun p => p.tid == tid)

/-- The address at which a request's first byte lies. -/
def Req.first (r : Req) : Nat := ((r.parts.head?).bind (fun p => p.addrs.head?)).getD 0

/-- The address at whose memory point a request is performed next; `die` names a replica of a multicast. -/
def Req.point (r : Req) (die : Nat) : Nat :=
  match r.kind with
  | .vset next es => 128 * ((es[next]?).map (·.line)).getD 0
  | .multi reps => onStackOf r.first (if r.order = 0 then reps.headD 0 else die)
  | _ => r.first

/-- A request goes to memory of another package. -/
def Req.remote (r : Req) : Bool := r.place == .phys && decide (2 ^ 60 ≤ r.first)

/-- What a release at a scope still waits for (R122). -/
def Req.holds (r : Req) (scope : Nat) : Bool :=
  if r.isStore then (if scope ≤ 1 then false else if r.remote && scope < 6 then !r.posted else true)
  else !r.performed

/-! ## Flow -/

/-- The bytes from an address on. -/
def runOf (a n : Nat) : List Nat := (List.range n).map (a + ·)

/-- Applies a step for each element of a list. -/
def forEach {α : Type} (xs : List α) (s : State) (f : State → α → State) : State := xs.foldl f s

/-- The next state. -/
def ok (s : State) : Host.Outcome State Fault Refusal := .next s

end Sys2Proof.Machine
end

