-- ==== Sys2Proof/Machine/Waits.lean ====
section
/-!
DEFINITION. What waits for a limit: the gang rendezvous latch (08 R260) and the matrix engine (17 R421), and the halted roles that keep their
clocks from counting (13 R327).
-/

namespace Sys2Proof.Machine

/-! ## Halted roles (R327) -/

/-- A team has a halted role, whose limits do not count (R327). -/
def State.teamHalted (s : State) (k : Nat) : Bool :=
  (s.team k).bands.any (fun b => (s.band b).halted || (s.band b).cq.halted) ||
  (match (s.team k).place with
   | .resident u => isTile u && (let t := s.tile u
      t.ctlHalted || t.lq.halted || t.aq.halted || t.sq.halted || t.mq.halted || t.cq.halted)
   | _ => false)

/-! ## The rendezvous latch (R258, R260) -/

/-- The band indices of a gang list of n. -/
def gangList (n : Nat) (w : Word) : List Nat := (List.range n).map (fun p => bitsOf w.toNat (5 * p + 4) (5 * p))

/-- The bands of a gang list within a team, in list order. -/
def State.gangBands (s : State) (bid : Nat) : List Nat :=
  let b := s.band bid
  let all := (s.team b.team).bands
  (gangList b.gang.n b.gang.list).filterMap (fun i => all.find? (fun x => (s.band x).index == i))

/-- The first arrival of a band. -/
def State.arrival (s : State) (bid : Nat) : Option Arrival := (s.band bid).gang.arrivals.head?

/-- A listed band has no live thread (R260). -/
def State.gangDead (s : State) (bid : Nat) : Bool :=
  (s.gangBands bid).any (fun b => (s.bandTids b).all (fun t => (s.thread t).exited))

/-- GANGTO of a band's core as of the last regroup (R260, R330). -/
def State.gangLimit (s : State) (bid : Nat) : Nat := (s.core (unitOfBand bid)).gangLive.toNat % 2 ^ 32

/-- The clock by which the bundles that wait with a band at the latch trap: now where a listed band has no live thread, else GANGTO clocks
after the band's arrival, while that limit counts (R260, R327). -/
def State.gangDue (s : State) (bid : Nat) : Option Nat :=
  if !(s.gangBands bid).contains bid then none
  else (s.arrival bid).bind (fun a =>
    if s.gangDead bid then some s.clock
    else if s.gangLimit bid = 0 || s.teamHalted (s.band bid).team then none else some (a.since + s.gangLimit bid))

/-! ## The matrix engine (R60, R421) -/

/-- The operand slot that an entry writes, if any (R55, R57): OLD, and TCPY with a slot destination. -/
def slotOfEntry (e : Entry) : Option Nat :=
  match e.instr with
  | .old f => some f.a.toNat
  | .tcpy f => if f.efn.getLsbD 7 then (e.regs[2]?).map (fun w => w.toNat % 16) else none
  | _ => none

/-- The format of B of an MMA word (R274). -/
def mmaFb (f : EFmt) : Nat := bitsOf f.efn.toNat 8 6

/-- Element bytes of a k-step by format (R55). -/
def stepBytes (fmt : Nat) : Nat := if fmt = 2 then 16 else 32

/-- The columns that must be filled before k-step j of a streaming MMA (R60). -/
def needMark (f : EFmt) (j : Nat) : Nat := (j + 1) * stepBytes (mmaFb f) / 16

/-- The fill mark of a slot. -/
def Tile.mark (t : Tile) (o : Nat) : Nat := sget 0 t.marks o

/-- Some uncompleted entry of LQ or CQ writes the slot (R274). -/
def Tile.filling (t : Tile) (o : Nat) : Bool :=
  (t.lq.entries ++ t.cq.entries).any (fun e => slotOfEntry e == some o)

/-- The k-step that comes next must wait for its columns (R60). -/
def Tile.stepWaits (t : Tile) (f : EFmt) (j : Nat) : Bool :=
  f.efn.getLsbD 9 && decide (t.mark f.c.toNat < needMark f j) && t.filling f.c.toNat

/-- The queue runs: it is neither in Fault nor halted (R50). -/
def Queue.runs (x : Queue) : Bool := !x.faulted && !x.halted

/-- The started entry of a tile's matrix engine has all its inputs and is not halted (R421). -/
def State.couldStep (s : State) (u : Nat) : Bool :=
  match (s.tile u).mq.entries with
  | e :: _ => (s.tile u).mq.runs && e.started && !e.finished && e.fault.isNone && (match e.instr with
    | .mma f => !(s.tile u).stepWaits f e.upc
    | .mmas f => !(s.tile u).stepWaits f e.upc
    | _ => true)
  | [] => false

/-- The clock by which a matrix engine that does not go on is reported hung (R421). -/
def State.hangDue (s : State) (u : Nat) : Option Nat :=
  if isTile u && s.couldStep u then some ((s.tile u).lastProgress + 2 ^ 20) else none

end Sys2Proof.Machine
end

