-- ==== Sys2Proof/Machine/Time.lean ====
section
/-!
DEFINITION. How clocks pass. The clock never passes the moment at which the specification has something happen: an issue slot or a
regroup of a sub-partition that holds bands (01 R13), the end of a wait at the gang latch (08 R260), the report of a hung matrix engine
(17 R421), a ninth due refresh of a bank (16 R404), a congestion message (16 R406), the
end of a link retrain (17 R412), a targeted self-test (17 R422).
-/

namespace Sys2Proof.Machine

/-! ## Windows of sub-partitions (R13) -/

/-- The bands of a sub-partition. -/
def State.bandsOf (s : State) (u sub : Nat) : List Nat :=
  (skeys s.bands).filter (fun b => unitOfBand b == u && slotOf b % 4 == sub)

/-- The window of a sub-partition. -/
def State.window (s : State) (u sub : Nat) : Window := (find? sub (s.core u).subs).getD {}

/-- Changes the window of a sub-partition. -/
def State.onWindow (s : State) (u sub : Nat) (f : Window → Window) : State :=
  s.onCore u (fun c => { c with subs := sput sub (f ((find? sub c.subs).getD {})) c.subs })

/-- The next clock that is a multiple of 4 since the die's core region left reset (R13). -/
def regroupClock (clock start : Nat) : Nat := start + (clock - start + 3) / 4 * 4

/-- The issue slot of a window at a clock: slot i falls i clocks after the regroup, and none is used twice. -/
def Window.slot (w : Window) (clock : Nat) : Nat := Nat.max w.next (clock - w.start)

/-- The four issue slots of a window have passed. -/
def Window.over (w : Window) (clock : Nat) : Bool := decide (4 ≤ w.slot clock)

/-- The clock of a sub-partition's next issue slot, or of its next regroup once the window is over; of the next instruction of a tile
or management core. -/
def State.slotDue (s : State) (u sub : Nat) : Nat :=
  let w := s.window u sub
  if isShader u && w.over s.clock then regroupClock (Nat.max s.clock w.at_) (s.die (dieOf u)).start else Nat.max s.clock w.at_

/-- The sub-partitions of shader cores that hold bands, as 4 * unit + sub-partition. -/
def State.busySubs (s : State) : List Nat :=
  distinct ((skeys s.bands).filterMap (fun b => if isShader (unitOfBand b) then some (4 * unitOfBand b + slotOf b % 4) else none))

/-! ## Refresh and congestion (R403, R404, R406) -/

/-- DRAM layer of a bank (R395). -/
def layerOf (bank : Nat) : Nat := bank % 16

/-- The refresh interval of a layer, 5460 clocks until a sample changes it (R403). -/
def Stack.interval (x : Stack) (layer : Nat) : Nat := (find? layer x.intervals).getD 5460

/-- The clock at which a bank's next refresh is due. -/
def Stack.dueAt (x : Stack) (bank : Nat) : Nat := (find? bank x.due).getD (x.interval (layerOf bank))

/-- The clock at which a bank would have a ninth refresh outstanding (R404). -/
def Stack.refreshLimit (x : Stack) (bank : Nat) : Nat :=
  x.dueAt bank + (8 - sget 0 x.postponed bank) * x.interval (layerOf bank)

/-- The congestion level of a sub-channel: by its queue's length, and 3 while a layer of its stack is above 105 degrees (R406). -/
def State.chanLevel (s : State) (n ch : Nat) : Nat :=
  let x := s.stack n
  let q := (sget {} x.chans ch).queue.length
  if x.temps.any (fun p => decide (105 < p.2)) then 3 else if q < 64 then 0 else if q < 96 then 1 else if q < 120 then 2 else 3

/-- The clusters of compute dies that have a request in a sub-channel's queue. -/
def SubChan.clusters (c : SubChan) : List Nat := distinct ((c.queue.map (·.cl)).filter (· < 256))

/-- The clock by which a sub-channel sends its level to a cluster again: now where it has changed since the last message or since the
cluster's first request came, else 1024 clocks after that (R406). -/
def State.levelDue (s : State) (n ch cl : Nat) : Nat :=
  let c := sget {} (s.stack n).chans ch
  match find? cl c.sent with
  | some (l, t) => if l = s.chanLevel n ch then t + 1024 else s.clock
  | none => lowest s.clock ((c.queue.filter (fun r => r.cl == cl)).map (·.at_)) + 1024

/-! ## The clock -/

/-- The moments that the clock may not pass before what falls due then has happened. -/
def State.deadlines (s : State) : List Nat :=
  if s.boot.stage != .up then []
  else
    s.busySubs.map (fun k => s.slotDue (k / 4) (k % 4)) ++
    (skeys s.bands).filterMap s.gangDue ++ (skeys s.tiles).filterMap s.hangDue ++
    (List.range 8).flatMap (fun n => (List.range 48).map (fun b => (s.stack n).refreshLimit b)) ++
    s.hbm.flatMap (fun p => p.2.chans.flatMap (fun c => c.2.clusters.map (s.levelDue p.1 c.1))) ++
    s.dies.flatMap (fun p => p.2.retrainBy.map (·.2)) ++
    s.tests.map (·.2)

/-- Up to n clocks pass. -/
def State.elapse (s : State) (n : Nat) : State :=
  { s with clock := Nat.max s.clock (lowest (s.clock + n) (s.deadlines ++ [s.clock + n])) }

/-- The clock moves to a moment, as far as it may. -/
def State.advanceTo (s : State) (t : Nat) : State := s.elapse (t - s.clock)

/-- What happens at a moment: the clock moves to it first, and nothing happens where it may not pass that far yet. -/
def State.atClock (s : State) (t : Nat) (f : State → State) : State :=
  if t ≤ s.clock then f s
  else
    let x := s.advanceTo t
    if t ≤ x.clock then f x else x

end Sys2Proof.Machine
end

