-- ==== Sys2Proof/Machine/Net.lean ====
section
/-!
DEFINITION. The package network (17 R408-R412): routes, traffic classes, virtual channels, the hops of packets and what a link's state
does to them. A packet that is on the network has not reached its destination; what it carries waits for it. Nodes: 32 * die + cluster
is a cluster's router (0-255), 256 + die the ring router of a die's shell, 264 the Sett. Link 0 of die d goes to die d + 1, link 1 to
die d - 1, link 2 is the spoke.
-/

namespace Sys2Proof.Machine

/-! ## Links (R411, R412, R424) -/

/-- The state of link l in SYNLNK: 0 full, 1 half width, 2 retraining, 3 down. -/
def Die.linkState (d : Die) (l : Nat) : Nat := bitsOf d.synlnk.toNat (8 * l + 1) (8 * l)

/-- Writes the state of link l. -/
def Die.setLink (d : Die) (l st : Nat) : Die :=
  { d with synlnk := d.synlnk - BitVec.ofNat 64 (d.linkState l * 2 ^ (8 * l)) + BitVec.ofNat 64 (st * 2 ^ (8 * l)) }

/-- The other end of a ring link. -/
def peerOf (d l : Nat) : Option (Nat × Nat) := if l = 0 then some ((d + 1) % 8, 1) else if l = 1 then some ((d + 7) % 8, 0) else none

/-- Changes the dies at both ends of a link, each with the link's number there; the Sett's end of a spoke is no die. -/
def State.onEnds (s : State) (d l : Nat) (f : Nat → Die → Die) : State :=
  let s := s.onDie d (f l)
  match peerOf d l with
  | some (e, m) => s.onDie e (f m)
  | none => s

/-- Writes the state of a link at both of its ends. -/
def State.setLinks (s : State) (d l st : Nat) : State := s.onEnds d l (fun m x => x.setLink m st)

/-! ## Ends and routes (R409) -/

/-- The Sett's node. -/
def settNode : Nat := 264
/-- The end of a slice. -/
def sliceEnd (d sl : Nat) : Nat := 4096 + 64 * d + sl
/-- The end of the Sett: its firmware and the fallback home agent. -/
def settEnd : Nat := 8192
/-- The end of a die's shell, whose ring router answers for a link that is down. -/
def shellEnd (d : Nat) : Nat := 8200 + d

/-- The end of a die that takes the Sett's broadcasts, at the cluster where its spoke attaches. -/
def dieEnd (d : Nat) : Nat := 4096 + 64 * d + 40

/-- The node of an end: the router of its cluster, the ring router of a shell, or the Sett; slice s lies under cluster s >> 1 (R388). -/
def nodeOf (e : Nat) : Nat :=
  if e < 2048 then e / 8 else if e < 4096 then settNode else if e < 4608 then (e - 4096) / 2
  else if 8200 ≤ e ∧ e < 8208 then 256 + (e - 8200) else settNode

/-- The routers that a packet passes in a mesh from cluster a to cluster b of die d: X first, then Y. -/
def meshPath (d a b : Nat) : List Nat :=
  let line := fun (x y : Nat) => if x ≤ y then (List.range (y - x)).map (x + 1 + ·) else (List.range (x - y)).map (x - 1 - ·)
  (line (a % 8) (b % 8)).map (fun x => 32 * d + 8 * (a / 8) + x) ++ (line (a / 8) (b / 8)).map (fun y => 32 * d + 8 * y + b % 8)

/-- The ring routers after die a on the way to die b, one way round. -/
def ringPath (a b : Nat) (up : Bool) : List Nat :=
  if up then (List.range ((b + 8 - a) % 8)).map (fun i => 256 + (a + 1 + i) % 8)
  else (List.range ((a + 8 - b) % 8)).map (fun i => 256 + (a + 7 - i) % 8)

/-- The ring link between two neighbouring ring routers, as die and link. -/
def ringLinkOf (a b : Nat) : Nat × Nat := if (b + 8 - a) % 8 = 1 then (a % 8, 0) else (a % 8, 1)

/-- No link on the way of a ring path is down. -/
def State.pathUp (s : State) (a b : Nat) (up : Bool) : Bool :=
  let ns := (256 + a) :: ringPath a b up
  (ns.zip (ns.drop 1)).all (fun p => let l := ringLinkOf (p.1 - 256) (p.2 - 256); (s.die l.1).linkState l.2 != 3)

/-- The direction that a packet takes from die a to die b: the one with fewer hops, increasing at a tie (R409); the other one where a
link on it is down (R412). -/
def State.goesUp (s : State) (a b : Nat) : Bool :=
  let up := decide ((b + 8 - a) % 8 ≤ 4)
  if s.pathUp a b up then up else !up

/-- From the ring router of die a round the ring to die b, then across its mesh to cluster c. -/
def ringTail (a b c : Nat) (up : Bool) : List Nat :=
  ringPath a b up ++ (32 * b + (if up then 0 else 7)) :: meshPath b (if up then 0 else 7) c

/-- The nodes from a node to an end's node, the first one left out (R409). -/
def State.routeFrom (s : State) (a b : Nat) : List Nat :=
  if a = b then []
  else if a = settNode then (256 + b / 32) :: (32 * (b / 32) + 20) :: meshPath (b / 32) 20 (b % 32)
  else if 256 ≤ a then if b = settNode then [settNode] else ringTail (a - 256) (b / 32) (b % 32) (s.goesUp (a - 256) (b / 32))
  else if b = settNode then meshPath (a / 32) (a % 32) 20 ++ [256 + a / 32, settNode]
  else if a / 32 = b / 32 then meshPath (a / 32) (a % 32) (b % 32)
  else
    let up := s.goesUp (a / 32) (b / 32)
    meshPath (a / 32) (a % 32) (if up then 7 else 0) ++ (256 + a / 32) :: ringTail (a / 32) (b / 32) (b % 32) up

/-- The nodes from one end to another. -/
def State.route (s : State) (src dst : Nat) : List Nat := s.routeFrom (nodeOf src) (nodeOf dst)

/-- The die-to-die link between two nodes, if there is one. -/
def linkAt (a b : Nat) : Option (Nat × Nat) :=
  if 256 ≤ a ∧ a < 264 ∧ b = settNode then some (a - 256, 2)
  else if a = settNode ∧ 256 ≤ b ∧ b < 264 then some (b - 256, 2)
  else if 256 ≤ a ∧ a < 264 ∧ 256 ≤ b ∧ b < 264 then some (ringLinkOf (a - 256) (b - 256))
  else none

/-- The dateline: the link between die 7 and die 0, either way (R409). -/
def crossesDateline (a b : Nat) : Bool := (a == 263 && b == 256) || (a == 256 && b == 263)

/-! ## Sending and arriving -/

/-- A packet is handed to the network; nothing is where both ends share a node. -/
def State.sendPacket (s : State) (cls : TClass) (ref src dst : Nat) : State :=
  match s.route src dst with
  | [] => s
  | n :: ns => { s with packets := s.packets ++ [{ cls := cls, ref := ref, src := src, dst := dst, node := nodeOf src, rest := n :: ns }] }

/-- The end where a bridge channel reaches the tensor half: channels 0-63 run over the die 3 to die 4 link and end at die 4's ring port,
channels 64-127 over the die 0 to die 7 link and end at die 7's (R71). -/
def bridgeEnd (c : Nat) : Nat := if c < 64 then sliceEnd 4 0 else sliceEnd 7 14

/-- A beat is handed to the network: its channel's link fixes the direction (R71), unless a link on the way is down (R412). -/
def State.sendBeat (s : State) (ref src c : Nat) : State :=
  let a := nodeOf src
  let d := if c < 64 then 4 else 7
  let up := decide (c < 64) == s.pathUp (a / 32) d (decide (c < 64))
  let way := meshPath (a / 32) (a % 32) (if up then 7 else 0) ++ (256 + a / 32) :: ringTail (a / 32) d (if c < 64 then 0 else 7) up
  { s with packets := s.packets ++ [{ cls := .brg, ref := ref, src := src, dst := bridgeEnd c, node := a, rest := way }] }

/-- The name that the packets of an invalidation command carry. -/
def invRef (seq : Nat) : Nat := 2 ^ 60 + seq

/-- A packet that carries something is still on its way to an end. -/
def State.onWay (s : State) (cls : TClass) (ref dst : Nat) : Bool :=
  s.packets.any (fun p => p.cls == cls && p.ref == ref && p.dst == dst)

/-- A packet of a class that carries something is still on its way. -/
def State.carries (s : State) (cls : TClass) (ref : Nat) : Bool := s.packets.any (fun p => p.cls == cls && p.ref == ref)

/-- The packets that carry something are taken off the network. -/
def State.dropPackets (s : State) (cls : TClass) (ref : Nat) : State :=
  { s with packets := s.packets.filter (fun p => !(p.cls == cls && p.ref == ref)) }

/-! ## Hops (R408-R410, R412) -/

/-- The packet's virtual channel after it crosses to a node: VC1 from the dateline on. -/
def Packet.vcAt (p : Packet) (n : Nat) : Nat := if crossesDateline p.node n then 1 else p.vc

/-- The channel of a link that a packet of a virtual channel uses: ring links have two a class, mesh links and spokes one (R408). -/
def channelOf (a b vc : Nat) : Nat := if 256 ≤ a ∧ a < 264 ∧ 256 ≤ b ∧ b < 264 then vc else 0

/-- The packets of a class and channel in the buffer at the end of a link. -/
def State.buffered (s : State) (cls : TClass) (a b ch : Nat) : Nat :=
  (s.packets.filter (fun p => p.cls == cls && p.prev == a && p.node == b && channelOf a b p.vc == ch && p.stamp != 0)).length

/-- The buffer at the end of a link has room for one more packet of a class and channel: other classes do not count (R408). -/
def State.linkRoom (s : State) (cls : TClass) (a b ch : Nat) : Bool := decide (s.buffered cls a b ch ≤ Config.linkBuffer)

/-- Two packets keep their order: they have one class, one pair of ends and one virtual channel (R410). -/
def Packet.sameFlow (p q : Packet) : Bool := q.cls == p.cls && q.src == p.src && q.dst == p.dst && q.vc == p.vc

/-- A packet of the same class, ends and virtual channel was handed over earlier and has not left its end, or was sent earlier and is no
further (R410). -/
def State.behind (s : State) (p : Packet) : Bool :=
  (p.stamp == 0 && (s.packets.takeWhile (· != p)).any (fun q => p.sameFlow q && q.stamp == 0)) ||
  s.packets.any (fun q => p.sameFlow q && q.stamp != 0 &&
    (p.stamp == 0 || decide (q.stamp < p.stamp)) && decide (p.rest.length ≤ q.rest.length))

/-- The link to the next node can be crossed: it is neither retraining nor down (R412). -/
def State.linkOpen (s : State) (a b : Nat) : Bool :=
  match linkAt a b with
  | some (d, l) => decide ((s.die d).linkState l < 2)
  | none => true

/-- A packet may cross to its next node. -/
def State.mayHop (s : State) (p : Packet) : Bool :=
  match p.rest with
  | [] => false
  | n :: _ => s.linkOpen p.node n && !s.behind p && s.linkRoom p.cls p.node n (channelOf p.node n (p.vcAt n))

/-- A packet crosses to its next node; at its destination it leaves the network. -/
def State.hop (s : State) (p : Packet) : State :=
  match p.rest with
  | [] => s
  | n :: ns =>
    let q := { p with stamp := if p.stamp = 0 then s.fresh else p.stamp, prev := p.node, node := n, rest := ns, vc := p.vcAt n }
    let s := { s with fresh := if p.stamp = 0 then s.fresh + 1 else s.fresh }
    { s with packets := s.packets.flatMap (fun x => if x = p then (if ns.isEmpty then [] else [q]) else [x]) }

/-- A packet of a class that one end sends another passes straight through: no link on its way retrains or is down, and none of its class
between these ends is still on the way (R410, R412; log 81). -/
def State.crossing (s : State) (cls : TClass) (src dst : Nat) : Bool :=
  let way := nodeOf src :: s.route src dst
  (way.zip (way.drop 1)).all (fun h => s.linkOpen h.1 h.2) && !s.packets.any (fun p => p.cls == cls && p.src == src && p.dst == dst)

/-- A request and its reply pass straight through between two ends. -/
def State.roundTrip (s : State) (a b : Nat) : Bool := s.crossing .req a b && s.crossing .rsp b a

/-- The spoke of a die retrains: management, syndrome and reset traffic between the Sett and the die waits (R408, R412). -/
def State.spokeBusy (s : State) (d : Nat) : Bool := (s.die d).linkState 2 == 2

/-- The packets queued for a link: at its near node, their next node beyond it. -/
def Packet.waitsFor (p : Packet) (d l : Nat) : Bool :=
  match p.rest with
  | [] => false
  | n :: _ => match linkAt p.node n with
    | some x => x == (d, l) || some x == peerOf d l
    | none => false

/-- The hop takes a ring link that is down. -/
def State.downHop (s : State) (a b : Nat) : Bool :=
  match linkAt a b with
  | some (d, l) => decide (l < 2) && (s.die d).linkState l == 3
  | none => false

/-- After a link went down, packets that would still take it use the other direction from where they are (R412). -/
def State.reroute (s : State) : State :=
  { s with packets := s.packets.map (fun p =>
      if ((p.node :: p.rest).zip p.rest).any (fun h => s.downHop h.1 h.2) then { p with rest := s.routeFrom p.node (nodeOf p.dst) } else p) }

end Sys2Proof.Machine
end

