-- ==== Sys2Proof/Machine/Codewords.lean ====
section
/-!
DEFINITION. How DRAM holds lines (16 R395-R400): places of the granules, lines of a byte of a burst area, Reed-Solomon codewords, and
what a read with damaged symbols decodes to. The contents of DRAM are a function of memory, versions and poison.
-/

namespace Sys2Proof.Machine

/-! ## Places (R395, R396) -/

/-- A burst area: its sub-channel and burst address. -/
structure Burst where
  ch : Nat
  a : Nat
  deriving DecidableEq, Repr

/-- Frame number in its stack. -/
def frameOf (pa : Nat) : Nat := pa % 2 ^ 37 / 65536

/-- The burst areas that hold the line, group or unit of an address, and the first byte of its part (R395). -/
def burstsOf (g : Gran) (pa : Nat) : List Burst × Nat :=
  let f := frameOf pa
  let k := pa % 65536 / 128
  let u := pa % 65536 / 32
  match g with
  | .l128 => ([⟨(k + f) % 64, 8 * f + k / 64⟩], 0)
  | .s32 => ([⟨(u + f) % 64, 8 * f + u / 256⟩], 32 * (u / 64 % 4))
  | .w512 => ((List.range 4).map (fun i => ⟨4 * ((k / 4 + f) % 16) + i, 8 * f + k / 4 / 16⟩), 0)
  | .w2k => ((List.range 16).map (fun i => ⟨16 * ((k / 16 + f) % 4) + i, 8 * f + k / 16 / 4⟩), 0)

/-- Bank of a burst address. -/
def Burst.bank (b : Burst) : Nat := b.a / 16 % 48
/-- Row of a burst address. -/
def Burst.row (b : Burst) : Nat := b.a / 16 / 48
/-- Column slot of a burst address. -/
def Burst.column (b : Burst) : Nat := b.a % 16

/-- The data lines that carry byte p of a burst area: the low DQ line and its beat for p below 128; otherwise the beat that carries
the low half on CB 3:0, the next beat carrying the high half (R396). -/
def byteLines (p : Nat) : Nat × Nat := if p < 128 then (8 * (p % 4), p / 4) else (32, 2 * (p - 128))

/-! ## Codewords (R397-R399) -/

/-- Multiplication in GF(2^8) with x^8 + x^4 + x^3 + x^2 + 1. -/
def gfMul (a b : Byte) : Byte :=
  (List.range 8).foldr (fun i acc =>
    let twice : Byte := if acc.getLsbD 7 then (acc <<< 1) ^^^ 0x1D else acc <<< 1
    if b.getLsbD i then twice ^^^ a else twice) 0

/-- α^i. -/
def gfPow : Nat → Byte
  | 0 => 1
  | n + 1 => gfMul (gfPow n) 2

/-- A polynomial, highest coefficient first, times (x - α^i). -/
def timesRoot (g : List Byte) (i : Nat) : List Byte :=
  List.zipWith (· ^^^ ·) (g ++ [0]) (0 :: g.map (gfMul · (gfPow i)))

/-- The generator of a code with c check symbols, highest coefficient first. -/
def generator (c : Nat) : List Byte := (List.range c).foldl timesRoot [1]

/-- The check symbols of a message: the remainder of message times x^c divided by the generator. -/
def checkSymbols (c : Nat) (msg : List Byte) : List Byte :=
  let g := (generator c).drop 1
  msg.foldl (fun reg m =>
    let f := m ^^^ reg.headD 0
    List.zipWith (· ^^^ ·) (reg.drop 1 ++ [0]) (g.map (gfMul · f))) (List.replicate c 0)

/-- The line codeword of 128 data bytes and a version (R398); that of a poisoned line has its check symbols inverted (R400). -/
def lineCodeword (data : List Byte) (v : Version) (poisoned : Bool) : List Byte :=
  let msg := data ++ toBytes 5 v.toNat
  msg ++ (checkSymbols 11 msg).map (fun x => if poisoned then x ^^^ 0xFF else x)

/-- The codeword of an S32 unit. -/
def unitCodeword (data : List Byte) (poisoned : Bool) : List Byte :=
  data ++ (checkSymbols 4 data).map (fun x => if poisoned then x ^^^ 0xFF else x)

/-- The sub-channel of the group, and the byte of its burst area, of symbol i of line k of a group of G lines (R399). -/
def symbolPlace (G k i : Nat) : Nat × Nat := ((k + i) % G, G * (i / G) + k)

/-- The codeword that DRAM holds for the line or unit of an address: with inverted check symbols where it is poisoned in every sector
(R400; log 82). -/
def State.codeword (s : State) (pa : Nat) : List Byte :=
  if s.granule pa == .s32 then
    let a := pa / 32 * 32
    unitCodeword (s.readN .phys a 32) (s.poisoned .phys a && s.poisoned .phys (a + 16))
  else
    let a := pa / 128 * 128
    lineCodeword (s.readN .phys a 128) (s.version (lineOf a)) ((List.range 8).all (fun i => s.poisoned .phys (a + 16 * i)))

/-- Byte of a burst area that holds symbol i of the codeword of an address, with its burst area. -/
def State.symbolAt (s : State) (pa i : Nat) : Burst × Nat :=
  let g := s.granule pa
  let b := burstsOf g pa
  let k := pa % 65536 / 128
  match g with
  | .l128 => (b.1.headD ⟨0, 0⟩, i)
  | .s32 => (b.1.headD ⟨0, 0⟩, if i < 32 then b.2 + i else 128 + b.2 / 8 + (i - 32))
  | .w512 => let p := symbolPlace 4 (k % 4) i; (b.1.getD p.1 ⟨0, 0⟩, p.2)
  | .w2k => let p := symbolPlace 16 (k % 16) i; (b.1.getD p.1 ⟨0, 0⟩, p.2)

/-! ## Decoding (R400) -/

/-- What a read of a correction unit finds: whether a symbol was corrected, the sub-channel of the group taken as lost, and the
codewords that are uncorrectable. -/
structure Decoded where
  corrected : Bool
  lost : Option Nat
  bad : List Nat
  deriving DecidableEq, Repr

/-- Symbols a codeword corrects (R398). -/
def correctable (g : Gran) : Nat := if g == .s32 then 2 else 5

/-- Decodes the codewords of a unit from the places of their damaged symbols (R400). -/
def decodeUnit (g : Gran) (errs : List (List Nat)) : Decoded :=
  let ks := List.range errs.length
  let failing := ks.filter (fun k => correctable g < (errs.getD k []).length)
  let cured := fun c => failing.all (fun k => ((errs.getD k []).filter (fun i => (k + i) % 16 != c)).length ≤ 1)
  let lost := if g == .w2k && !failing.isEmpty then (List.range 16).find? cured else none
  { corrected := errs.any (fun l => !l.isEmpty), lost := lost, bad := if lost.isSome then [] else failing }

end Sys2Proof.Machine
end

