-- ==== Sys2Proof/Machine/Dram.lean ====
section
/-!
DEFINITION. Slices and the DRAM behind them (16 R389-R401, R405; 17 R422-R424, R450): error records, reads and writes of correction units
with the damage they meet, ways and evictions, fills, and writes at a line's home.
-/

namespace Sys2Proof.Machine

/-! ## Error records (R422, R424, R450) -/

/-- A 16-bit field of a 64-bit count rises by n and saturates. -/
def addField (x : DWord) (lo n : Nat) : DWord :=
  let old := bitsOf x.toNat (lo + 15) lo
  x + BitVec.ofNat 64 ((Nat.min 65535 (old + n) - old) * 2 ^ lo)

/-- The die whose syndrome registers record a structure (R422): that of its location. -/
def Structure.die (st : Structure) : Nat := if st.kind = 1 ∨ st.kind = 2 then st.loc / 256 % 8 else st.loc / 256

/-- SYNREC of an event (R424). -/
def State.recordWord (s : State) (d kind cls result : Nat) (st : Structure) : DWord :=
  BitVec.ofNat 64 (kind * 2 ^ 60 + cls * 2 ^ 58 + result * 2 ^ 56 + st.unit % 2 ^ 17 * 2 ^ 39 + st.loc % 2 ^ 11 * 2 ^ 28 +
    (s.clock - (s.die d).start) % 2 ^ 28)

/-- An event is counted in a field of SYNCNT, if it counts in one, and recorded with a result (R450). -/
def State.recordAs (s : State) (kind cls result : Nat) (field : Option Nat) (st : Structure) : State :=
  let d := Structure.die st
  let r := s.recordWord d kind cls result st
  s.onDie d (fun x => { x with synrec := r, syncnt := match field with | some lo => addField x.syncnt lo 1 | none => x.syncnt })

/-- An event is counted in a field of SYNCNT (none for a hang), recorded, and its self-test falls due within 1.4 million clocks
(R422, R450). -/
def State.record (s : State) (kind cls : Nat) (field : Option Nat) (st : Structure) : State :=
  let s := s.recordAs kind cls 0 field st
  if s.tests.any (fun t => t.1 == st) then s else { s with tests := s.tests ++ [(st, s.clock + 1400000)] }

/-! ## Queues (R405) -/

/-- Who asks for DRAM: the class (0 D, 1 C, 2 M) and the cluster it acts for, 256 for the Sett and the outside (R405, R406). -/
structure Who where
  cls : Nat
  cl : Nat
  deriving DecidableEq, Repr

/-- The Sett and the outside, in class D. -/
def settWho : Who := ⟨0, 256⟩

/-- A thread's or walker's access from a unit. -/
def dataWho (u : Nat) : Who := ⟨0, if isMgmt u then 256 else clusterOf u⟩

/-- A copy engine's or the layout unit's access for a unit. -/
def copyWho (u : Nat) : Who := ⟨1, if isMgmt u then 256 else clusterOf u⟩

/-- A slice's own write-backs, read-modify-write reads, pins and migrations, for the cluster it lies under (R388). -/
def sliceWho (sl : Nat) : Who := ⟨2, sl / 2⟩

/-- A queue has room for one more read, or write (R405). -/
def SubChan.room (c : SubChan) (write : Bool) : Bool := decide ((c.queue.filter (fun x => x.write == write)).length < 64)

/-- A request joins the queue of its sub-channel, or waits at its slice for room there. -/
def SubChan.join (c : SubChan) (r : DramReq) : SubChan :=
  if c.room r.write then { c with queue := c.queue ++ [r] } else { c with waiting := c.waiting ++ [r] }

/-- Clusters that have just got a request in the queue take the level of that moment, from which a change is sent to them (R406). -/
def SubChan.meet (c : SubChan) (level now : Nat) : SubChan :=
  { c with sent := c.clusters.foldl (fun m cl => if (find? cl m).isSome then m else sput cl (level, now) m) c.sent }

/-- An access to the correction unit of an address joins the queues of the sub-channels that hold it (R395, R405). -/
def State.dramAccess (s : State) (pa : Nat) (write : Bool) (w : Who) : State :=
  let now := s.clock
  forEach (burstsOf (s.granule pa) pa).1 s (fun s b =>
    let level := s.chanLevel (homeDie pa) b.ch
    s.onStack (homeDie pa) (fun x => { x with chans := sset {} x.chans b.ch (((sget {} x.chans b.ch).join
      { cls := w.cls, write := write, bank := b.bank, row := b.row, at_ := now, cl := w.cl }).meet level now) }))

/-! ## Damage and decoding (R400) -/

/-- The first address of the correction unit of an address (R398). -/
def State.unitBase (s : State) (pa : Nat) : Nat :=
  match s.granule pa with
  | .s32 => pa / 32 * 32
  | .l128 => pa / 128 * 128
  | .w512 => pa / 512 * 512
  | .w2k => pa / 2048 * 2048

/-- The first data address of each codeword of the correction unit of an address (R398). -/
def State.unitWords (s : State) (pa : Nat) : List Nat :=
  if s.granule pa == .s32 then [s.unitBase pa] else (s.groupLines (lineOf pa)).map (128 * ·)

/-- The damaged symbols of the codewords of the unit of an address. -/
def State.damageAt (s : State) (pa : Nat) : List (List Nat) := sget [] s.damage (s.unitBase pa / 32)

/-- Symbols of the codewords of the unit of an address are damaged. -/
def State.hurtUnit (s : State) (pa : Nat) (errs : List (List Nat)) : State :=
  if errs.all List.isEmpty then s
  else
    let old := s.damageAt pa
    let new := (List.range (s.unitWords pa).length).map (fun k => distinct (old.getD k [] ++ errs.getD k []))
    { s with damage := sset [] s.damage (s.unitBase pa / 32) new }

/-- The sub-channel of a stack that a group's own sub-channel c is. -/
def groupChan (g : Gran) (pa c : Nat) : Nat := ((burstsOf g pa).1.headD ⟨0, 0⟩).ch + c

/-- Sub-channels of a W2K group that are taken as lost (R400). -/
def State.lostIn (s : State) (pa : Nat) : List Nat :=
  if s.granule pa == .w2k then (List.range 16).filter (fun c => (s.stack (homeDie pa)).lost.contains (groupChan .w2k pa c)) else []

/-- Codewords of a unit that cannot be corrected with one sub-channel erased: more than one other error (R400). -/
def erasedBad (errs : List (List Nat)) (c : Nat) : List Nat :=
  (List.range errs.length).filter (fun k => 1 < ((errs.getD k []).filter (fun i => (k + i) % 16 != c)).length)

/-- What a read of a unit finds (R400): the codewords of a group with a lost sub-channel are decoded with it erased; two lost ones exceed
the code. A codeword that is poisoned in every sector and has a damaged symbol does not decode either way. -/
def State.decodeFill (s : State) (units : List Nat) (errs : List (List Nat)) : Decoded :=
  let pa := units.headD 0
  let g := s.granule pa
  let errs := (List.range units.length).map (fun k => errs.getD k [])
  let dirty := fun (a : Nat) => (List.range (if g == .s32 then 2 else 8)).all (fun i => s.poisoned .phys (a + 16 * i))
  let hurt := (List.range units.length).filter (fun k => dirty (units.getD k 0) && !(errs.getD k []).isEmpty)
  let d : Decoded := match s.lostIn pa with
    | [] => decodeUnit g errs
    | [c] => { corrected := errs.any (fun l => !l.isEmpty), lost := none, bad := erasedBad errs c }
    | _ => { corrected := false, lost := none, bad := List.range units.length }
  { d with bad := distinct (d.bad ++ hurt) }

/-- What a read of the unit of an address finds now. -/
def State.decodeAt (s : State) (pa : Nat) : Decoded := s.decodeFill (s.unitWords pa) (s.damageAt pa)

/-- A line is poisoned in every sector. -/
def State.poisonLine (s : State) (line : Nat) : State :=
  forEach (List.range 8) s (fun s i => s.setPoison .phys (128 * line + 16 * i) true)

/-- A codeword's version is lost (R394): the line is poisoned, flagged, and holds an unspecified version; a flagged line stays as it is. -/
def State.loseVersion (s : State) (line : Nat) : State :=
  if sget false s.lost line then s
  else
    let v := Config.lostVersion s.free
    { s.poisonLine line with
      free := s.free + 1
      lost := sset false s.lost line true
      versions := sput line v s.versions }

/-- The bank that holds the first damaged symbol of a codeword. -/
def State.damagedBank (s : State) (pa : Nat) (places : List Nat) : Structure :=
  let b := (s.symbolAt pa (places.headD 0)).1
  ⟨1, 256 * homeDie pa, 48 * b.ch + b.bank⟩

/-- A sub-channel is recorded as lost: counted, recorded, and its 48 banks are to be tested (R400, R422, R450). -/
def State.loseChannel (s : State) (pa c : Nat) : State :=
  let n := homeDie pa
  let ch := groupChan .w2k pa c
  let s := s.onStack n (fun x => { x with lost := distinct (x.lost ++ [ch]) })
  let s := s.record 1 1 (some 0) ⟨1, 256 * n, 48 * ch⟩
  let due := s.clock + 1400000
  let more := ((List.range 48).map (fun b => (⟨1, 256 * n, 48 * ch + b⟩ : Structure))).filter (fun st => !s.tests.any (fun t => t.1 == st))
  { s with tests := s.tests ++ more.map (fun st => (st, due)) }

/-- Part of R395: does the DRAM that holds an aligned 16-byte sector lie in a fenced bank (R422). A W2K group
survives the loss of one sub-channel (R400). -/
def State.bankFenced (s : State) (pa : Nat) : Bool :=
  let fenced := (s.stack (homeDie pa)).fencedBanks
  if fenced.isEmpty || 2 ^ 60 ≤ pa then false
  else
    let f := pa % 2 ^ 37 / 65536
    let k := pa % 65536 / 128
    let u := pa % 65536 / 32
    let hit := fun ch j => fenced.contains (ch * 48 + (8 * f + j) / 16 % 48)
    match s.granule pa with
    | .l128 => hit ((k + f) % 64) (k / 64)
    | .s32 => hit ((u + f) % 64) (u / 256)
    | .w512 => (List.range 4).any (fun i => hit (4 * ((k / 4 + f) % 16) + i) (k / 4 / 16))
    | .w2k => 2 ≤ ((List.range 16).filter (fun i => hit (16 * ((k / 16 + f) % 4) + i) (k / 16 / 4))).length

/-- Sectors are poisoned. -/
def State.poisonAll (s : State) (xs : List Nat) : State := forEach xs s (fun s x => s.setPoison .phys x true)

/-- What a read of DRAM finds of one codeword, whose data begin at `a`: a corrected or uncorrectable error is recorded; an uncorrectable one
poisons the sectors that the slice does not hold, and loses the line's version where the codeword holds it (R394, R400). -/
def State.readWord (s : State) (g : Gran) (held : Nat → Bool) (a : Nat) (places : List Nat) (bad : Bool) : State :=
  if bad then
    let s := s.record 1 1 (some 0) (s.damagedBank a places)
    if g == .s32 then s.poisonAll ([a, a + 16].filter (fun x => !held x)) else s.loseVersion (lineOf a)
  else if places.isEmpty then s else s.record 1 0 (some 32) (s.damagedBank a places)

/-- DRAM is read (R400): the codewords of the unit of an address are decoded; sectors of a fenced bank read as poisoned (R422). `held` are
the addresses of sectors that the slice holds. -/
def State.readUnit (s : State) (pa : Nat) (held : Nat → Bool) (w : Who) : State :=
  let g := s.granule pa
  let units := s.unitWords pa
  let errs := s.damageAt pa
  let d := s.decodeAt pa
  let s := forEach (List.range units.length) (s.dramAccess pa false w) (fun s k =>
    s.readWord g held (units.getD k 0) (errs.getD k []) (d.bad.contains k))
  let secs := units.flatMap (fun a => (List.range (if g == .s32 then 2 else 8)).map (fun i => a + 16 * i))
  let s := s.poisonAll (secs.filter (fun x => !held x && s.bankFenced x))
  match d.lost with
  | some c => s.loseChannel pa c
  | none => s

/-- DRAM is written: the unit of an address is encoded anew, without damage (R401). -/
def State.writeUnit (s : State) (pa : Nat) : State :=
  { s.dramAccess pa true (sliceWho (sliceOf pa)) with damage := serase (s.unitBase pa / 32) s.damage }

/-! ## Evictions (R389, R393, R401) -/

/-- Half of the version space. -/
def versionHalf : Nat := 2 ^ 39

/-- An S32 eviction raises its slice's floor, with the base die's copy (R393). -/
def State.raiseFloor (s : State) (sl : Nat) (v : Version) : State :=
  let f := sget 0 s.floors sl
  if (v - f).toNat < versionHalf then { s with floors := sset 0 s.floors sl v, baseFloors := sset 0 s.baseFloors sl v } else s

/-- The slice holds the sector of an address. -/
def State.holds (s : State) (a : Nat) : Bool :=
  match find? (lineOf a) s.l2 with
  | some e => e.valid.contains (a % 128 / 16)
  | none => false

/-- The dirty sectors of a line are written back: whole correction units, a unit of which the slice does not hold every byte after it has
been read and decoded (R401). A group is written once, as its first dirty line leaves. -/
def State.writeDirty (s : State) (line : Nat) : State :=
  match find? line s.l2 with
  | none => s
  | some e =>
    if e.gran == .s32 then
      forEach ((List.range 4).filter (fun u => e.dirty.any (fun x => x / 2 == u))) s (fun s u =>
        let a := 128 * line + 32 * u
        let s := if e.valid.contains (2 * u) && e.valid.contains (2 * u + 1) then s
          else s.readUnit a s.holds (sliceWho (sliceOf a))
        s.writeUnit a)
    else if e.dirty.isEmpty then s
    else
      let s := s.writeUnit (128 * line)
      { s with l2 := (s.groupLines line).foldl (fun m l => smod l (fun x => { x with dirty := [] }) m) s.l2 }

/-- One line leaves its slice: its dirty sectors and version go to DRAM, or its version raises the floor of an S32 frame's slice (R393). -/
def State.dropLine (s : State) (line : Nat) : State :=
  match find? line s.l2 with
  | none => s
  | some e =>
    let v := s.version line
    let s := s.writeDirty line
    let s := { s with l2 := serase line s.l2 }
    if e.gran == .s32 then { s.raiseFloor (sliceOf (128 * line)) v with versions := serase line s.versions } else s

/-- A line lies in its slice with its version-lost flag: it stays there until its frame is migrated (R394). -/
def State.flagHeld (s : State) (line : Nat) : Bool := sget false s.lost line && (find? line s.l2).isSome

/-- The unit of replacement of a line leaves its slice (R389); one with a flagged line stays (R394). -/
def State.evict (s : State) (line : Nat) : State :=
  let g := s.groupLines line
  if g.any s.flagHeld then s else forEach g s State.dropLine

/-- A slice gives up its lines: dirty sectors and versions are written back, a flagged line as poisoned with its held version
(R415, R422). -/
def State.flushSlice (s : State) (sl : Nat) : State :=
  let mine := (skeys s.l2).filter (fun l => decide (128 * l < 2 ^ 60) && sliceOf (128 * l) == sl)
  forEach mine s (fun s l =>
    if sget false s.lost l then (({ s with lost := serase l s.lost }.poisonLine l).writeUnit (128 * l)).dropLine l else s.dropLine l)

/-! ## Sets and ways (R389, R391) -/

/-- The set of a line in its slice. -/
def setOf (line : Nat) : Nat := 16 * bitsOf (128 * line) 25 17 + bitsOf (128 * line) 10 7

/-- A staging partition of a slice takes a way of a set: offset o lies in way 15 - (o >> 20), set (o >> 7) AND 8191. -/
def Partition.takes (p : Partition) (set way : Nat) : Bool :=
  decide (12 ≤ way ∧ way < 16 ∧ p.off ≤ (15 - way) * 2 ^ 20 + 128 * set ∧ (15 - way) * 2 ^ 20 + 128 * set < p.off + p.size)

/-- The resident lines of a slice in a way of a set. -/
def State.linesIn (s : State) (sl set way : Nat) : List Nat :=
  (s.l2.filter (fun p => p.2.way == way && decide (128 * p.1 < 2 ^ 60) && setOf p.1 == set && sliceOf (128 * p.1) == sl)).map (·.1)

/-- The way that lines of a slice take: the lowest that is free in all their sets, else the lowest whose lines may leave, none where there
is no such way (R389 leaves the choice open; log 24). -/
def State.pickWay (s : State) (sl : Nat) (sets : List Nat) : Option Nat :=
  let open_ := (List.range 16).filter (fun w => sets.all (fun x => !(sget [] s.parts sl).any (fun p => p.takes x w)))
  match open_.find? (fun w => sets.all (fun x => (s.linesIn sl x w).isEmpty)) with
  | some w => some w
  | none => open_.find? (fun w => sets.all (fun x => (s.linesIn sl x w).all (fun l => !(s.groupLines l).any s.flagHeld)))

/-- A line, with its group, gets a place in its slice: what lies there leaves first (R389). An S32 line starts at its slice's floor (R390). -/
def State.allot (s : State) (line : Nat) : State :=
  if (find? line s.l2).isSome then s
  else
    let g := s.groupLines line
    let sl := sliceOf (128 * line)
    let sets := g.map setOf
    match s.pickWay sl sets with
    | none => s
    | some w =>
      let s := forEach (sets.flatMap (fun x => s.linesIn sl x w)) s State.evict
      forEach g s (fun s l =>
        let gran := s.granule (128 * l)
        { s with l2 := sput l { gran := gran, valid := [], dirty := [], way := w } s.l2,
                 versions := if gran == .s32 then sput l (sget 0 s.floors sl) s.versions else s.versions })

/-! ## Fills (R390) -/

/-- The slice holds more sectors of a line. -/
def State.addValid (s : State) (line : Nat) (secs : List Nat) : State :=
  { s with l2 := smod line (fun e => { e with valid := distinct (e.valid ++ secs) }) s.l2 }

/-- The unit u of a resident S32 line, or the whole group of another line, is filled where the slice lacks a part of it. -/
def State.fillUnit (s : State) (line u : Nat) (w : Who) : State :=
  if s.granule (128 * line) == .s32 then
    let a := 128 * line + 32 * (u % 4)
    if s.holds a && s.holds (a + 16) then s else (s.readUnit a s.holds w).addValid line [2 * (u % 4), 2 * (u % 4) + 1]
  else
    let g := s.groupLines line
    if g.all (fun l => (List.range 8).all (fun x => s.holds (128 * l + 16 * x))) then s
    else forEach g (s.readUnit (128 * line) s.holds w) (fun s l => s.addValid l (List.range 8))

/-- The flagged lines of a slice. -/
def State.flagged (s : State) (sl : Nat) : Nat :=
  (s.lost.filter (fun p => (find? p.1 s.l2).isSome && sliceOf (128 * p.1) == sl)).length

/-- A failed slice is fenced: its home lines go to the fallback home agent, and its staging is refused (R422). -/
def State.fenceSlice (s : State) (d sl : Nat) : State :=
  let s := s.flushSlice (64 * d + sl)
  let s := s.onDie d (fun x => { x with synslc := x.synslc ||| BitVec.ofNat 64 (2 ^ sl) })
  { s with fallbackFences := distinct (s.fallbackFences ++ [64 * d + sl]) }

/-- A 65th flagged line is a lasting fault of the slice, which is recorded and fenced without a test (R394, R422). -/
def State.settleFlags (s : State) (pa : Nat) : State :=
  if 2 ^ 60 ≤ pa || s.flagged (sliceOf pa) ≤ 64 || s.fallbackFences.contains (sliceOf pa) then s
  else (s.recordAs 0 1 2 (some 0) ⟨0, 256 * homeDie pa, homeSlice pa⟩).fenceSlice (homeDie pa) (homeSlice pa)

/-- A load's access to sectors of a line at its home: the line, with its group, is resident afterwards, with the units that hold the
sectors it lacked (R390); the agent reads DRAM and holds no line (R416). -/
def State.touch (s : State) (line : Nat) (sectors : List Nat) (w : Who) : State :=
  let pa := 128 * line
  let units := if s.granule pa == .s32 then distinct ((sectors.filter (fun x => !s.holds (pa + 16 * x))).map (· / 2)) else [0]
  if 2 ^ 60 ≤ pa then s
  else if s.atAgent pa then forEach units s (fun s u => s.readUnit (pa + 32 * u) (fun _ => false) w)
  else (forEach units (s.allot line) (fun s u => s.fillUnit line u w)).settleFlags pa

/-- A store's access to a line at its home (R390): `whole` are the sectors it covers, `part` those it covers in part. A store to an S32
line fills only the units of invalid sectors that it covers in part; at the agent the units are read before they are written
(R401, R416), unless the store covers them. -/
def State.touchStore (s : State) (line : Nat) (whole part : List Nat) (w : Who) : State :=
  let pa := 128 * line
  if 2 ^ 60 ≤ pa then s
  else if s.atAgent pa then
    if s.granule pa == .s32 then
      forEach (distinct ((whole ++ part).map (· / 2))) s (fun s u =>
        let s := if whole.contains (2 * u) && whole.contains (2 * u + 1) then s
          else s.readUnit (pa + 32 * u) (fun _ => false) (sliceWho (sliceOf pa))
        s.writeUnit (pa + 32 * u))
    else (s.readUnit pa (fun _ => false) (sliceWho (sliceOf pa))).writeUnit pa
  else if s.granule pa == .s32 then
    let s := s.allot line
    (forEach (distinct ((part.filter (fun x => !s.holds (pa + 16 * x))).map (· / 2))) s (fun s u => s.fillUnit line u w)).addValid line whole
  else s.touch line [] w

/-- A read that is not to allocate: sectors that miss are read through (R402); an uncorrectable versioned line becomes resident and
flagged (R394). -/
def State.readThrough (s : State) (line : Nat) (sectors : List Nat) (w : Who) : State :=
  let pa := 128 * line
  if 2 ^ 60 ≤ pa || sectors.all (fun x => s.holds (pa + 16 * x)) then s
  else if s.atAgent pa || (s.granule pa != .s32 && !(s.decodeAt pa).bad.isEmpty) then s.touch line sectors w
  else if s.granule pa == .s32 then
    forEach (distinct ((sectors.filter (fun x => !s.holds (pa + 16 * x))).map (· / 2))) s (fun s u => s.readUnit (pa + 32 * u) s.holds w)
  else s.readUnit pa s.holds w

/-- The sectors that some byte addresses of a line touch. -/
def sectorsIn (line : Nat) (addrs : List Nat) : List Nat :=
  distinct ((addrs.filter (fun a => lineOf a == line)).map (fun a => a % 128 / 16))

/-- The lines of some addresses are brought to their homes (R390). -/
def State.fillFor (s : State) (w : Who) (pl : Place) (addrs : List Nat) : State :=
  match pl with
  | .phys => forEach (distinct (addrs.map lineOf)) s (fun s l => s.touch l (sectorsIn l addrs) w)
  | _ => s

/-- The lines of a range of memory are read at their homes (R390). -/
def State.fillRange (s : State) (w : Who) (pa n : Nat) : State :=
  forEach ((List.range ((pa % 128 + n + 127) / 128)).map (lineOf pa + ·)) s (fun s l => s.touch l (List.range 8) w)

/-- A read of bytes meets poison (R423), or a fenced bank whose sector the slice does not hold (R422). -/
def State.readsPoison (s : State) (pl : Place) (addrs : List Nat) : Bool :=
  addrs.any (fun a => s.poisoned pl a || (pl == .phys && decide (a < 2 ^ 60) && s.bankFenced a && !s.holds a))

/-! ## Writes at a line's home (R133, R390) -/

/-- Marks sectors of a resident line dirty. -/
def State.soil (s : State) (line : Nat) (sectors : List Nat) : State :=
  { s with l2 := smod line (fun e => { e with dirty := distinct (e.dirty ++ sectors) }) s.l2 }

/-- One line write request raises the line's version by one (R133); at the agent, an S32 write raises the floor (R416). -/
def State.bump (s : State) (line : Nat) : State :=
  let pa := line * 128
  let v := s.version line + 1
  if pa < 2 ^ 60 && s.granule pa == .s32 && (find? line s.l2).isNone then
    { s with floors := sset 0 s.floors (sliceOf pa) v, baseFloors := sset 0 s.baseFloors (sliceOf pa) v }
  else { s with versions := sput line v s.versions }

/-- The bytes a write may still place: none of a fenced bank at the agent (R422). -/
def State.keptBytes (s : State) (bs : List (Nat × Byte)) : List (Nat × Byte) :=
  bs.filter (fun p => !(decide (p.1 < 2 ^ 60) && s.atAgent p.1 && s.bankFenced p.1))

/-- The sectors of a line that byte addresses cover wholly. -/
def wholeSectors (line : Nat) (addrs : List Nat) : List Nat :=
  (sectorsIn line addrs).filter (fun x => (List.range 16).all (fun i => addrs.contains (128 * line + 16 * x + i)))

/-- A write of bytes to global memory at the home of their lines: fill, bytes, dirty sectors, one version step a line. -/
def State.writeHome (s : State) (w : Who) (bs : List (Nat × Byte)) : State :=
  forEach (distinct (bs.map (fun p => lineOf p.1))) s (fun s l =>
    let mine := bs.filter (fun p => lineOf p.1 == l)
    let secs := sectorsIn l (mine.map (·.1))
    let whole := wholeSectors l (mine.map (·.1))
    (((s.touchStore l whole (secs.filter (fun x => !whole.contains x)) w).soil l secs).store .phys (s.keptBytes mine)).bump l)

/-- A write of bytes at its memory point: one version step for each line it names (R133). -/
def State.writeAt (s : State) (w : Who) (pl : Place) (bs : List (Nat × Byte)) : State :=
  match pl with
  | .phys => s.writeHome w bs
  | _ => s.store pl bs

/-- A hardware write of consecutive bytes to a control structure: it raises the versions of its lines as a store does, though the table of
R133 does not list it (log 83). -/
def State.writeCtl (s : State) (pa : Nat) (bs : List Byte) : State := s.writeHome settWho (cellsAt pa bs)

/-! ## Staging (R338, R391) -/

/-- The backing of a partition gets its bytes back, one write of each line (R338, R133), poison with them (R423). -/
def State.writeBack (s : State) (d sl : Nat) (p : Partition) : State :=
  match p.backing with
  | none => s
  | some base =>
    let bytes := (List.range p.size).map (fun i => s.readByte (.staging d sl) (p.off + i))
    let bad := (List.range (p.size / 16)).filter (fun i => s.poisoned (.staging d sl) (p.off + 16 * i))
    let s := s.writeHome (sliceWho (64 * d + sl)) (cellsAt base bytes)
    forEach bad s (fun s i => s.setPoison .phys (base + 16 * i) true)

/-- A partition is released: its bytes are gone. -/
def State.release1 (s : State) (d sl : Nat) (p : Partition) : State :=
  let key := 64 * d + sl
  { s with
    parts := sset [] s.parts key ((sget [] s.parts key).filter (fun q => q.off != p.off)),
    staging := sset [] s.staging key ((sget [] s.staging key).filter (fun c => !(p.off ≤ c.1 && c.1 < p.off + p.size))),
    stagingPoison := s.stagingPoison.filter (fun c =>
      !(stagingKey d sl (p.off / 16) ≤ c.1 && c.1 < stagingKey d sl ((p.off + p.size) / 16))) }

/-- The lines that lie in the ways a partition takes are written back and leave before it is made (R391); a flagged one alone stays (R394). -/
def State.clearWays (s : State) (d sl : Nat) (p : Partition) : State :=
  let mine := (s.l2.filter (fun x => decide (128 * x.1 < 2 ^ 60) && sliceOf (128 * x.1) == 64 * d + sl && p.takes (setOf x.1) x.2.way)).map (·.1)
  forEach mine s (fun s l => if s.flagHeld l then s else s.dropLine l)

/-- A partition is made (R338): zeros, or the bytes of its backing with their poison. -/
def State.pin (s : State) (d sl : Nat) (p : Partition) : State :=
  let key := 64 * d + sl
  let s := s.clearWays d sl p
  let s := { s with parts := sset [] s.parts key (sget [] s.parts key ++ [p]) }
  match p.backing with
  | none => s
  | some base =>
    let s := forEach (List.range (p.size / 128)) s (fun s i => s.readThrough (base / 128 + i) (List.range 8) (sliceWho key))
    let bytes := s.readN .phys base p.size
    let bad := (List.range (p.size / 16)).filter (fun i => s.readsPoison .phys [base + 16 * i])
    let s := s.writeN (.staging d sl) p.off bytes
    forEach bad s (fun s i => s.setPoison (.staging d sl) (p.off + 16 * i) true)

/-- Every partition of a slice is released, backed ones written back (R415). -/
def State.releaseSlice (s : State) (d sl : Nat) : State :=
  forEach (sget [] s.parts (64 * d + sl)) s (fun s p => (s.writeBack d sl p).release1 d sl p)

end Sys2Proof.Machine
end

