-- ==== Sys2Proof/Machine/Translate.lean ====
section
/-!
DEFINITION. Translation (14 R342-R351): entries of page tables, walks, TLB entries and their hotness counts,
private addresses (R108), and the fetch of an instruction word (R144, check 1 of R159).
-/

namespace Sys2Proof.Machine

/-- What one table entry says at its level. -/
inductive EntryKind where
  | table (pa : Nat)
  | leaf (l : Leaf)
  | bad
  deriving DecidableEq, Repr

/-- The level's page-size code: level 0 is 64 KiB, 1 is 32 MiB, 2 is 16 GiB (R345). -/
def granOf (n : Nat) : Gran := if n = 0 then .l128 else if n = 1 then .s32 else if n = 2 then .w512 else .w2k
/-- The code of a granule (R345, R348). -/
def granCode : Gran → Nat
  | .l128 => 0
  | .s32 => 1
  | .w512 => 2
  | .w2k => 3

/-- The fields of a leaf entry at a level (R345). -/
def leafFields (e level : Nat) : Leaf :=
  { pa := bitsOf e 47 16 * 65536, size := level, r := e.testBit 2, w := e.testBit 3, x := e.testBit 4,
    gran := granOf (bitsOf e 6 5), vd := e.testBit 7, c := e.testBit 8, sdef := bitsOf e 12 9,
    reps := ([bitsOf e 52 50, bitsOf e 55 53, bitsOf e 58 56]).take (bitsOf e 49 48) }

/-- Every frame of a local range has the granule g in the frame granule map (R346, R348). -/
def State.framesHave (s : State) (pa bytes : Nat) (g : Gran) : Bool :=
  let lo := pa / 65536
  let n := bytes / 65536
  let inside := s.granules.filter (fun p => lo ≤ p.1 && p.1 < lo + n)
  if g == .l128 then inside.isEmpty else inside.length == n && inside.all (fun p => p.2 == g)

/-- A local address lies in a granted block of the address space (R344). -/
def granted (a : ASpace) (pa : Nat) : Bool := isLocal pa && a.blocks.testBit (6 * homeDie pa + pa % 2 ^ 37 / 2 ^ 34)

/-- A leaf passes the checks of R346, in address space a. -/
def State.leafOk (s : State) (a : ASpace) (e level : Nat) : Bool :=
  let l := leafFields e level
  let bytes := pageBytes level
  let nrep := bitsOf e 49 48
  bitsOf e 63 59 == 0 && bitsOf e 15 13 == 0 && l.pa % bytes == 0 && (l.vd == (l.gran != .s32)) &&
  (if isFabric l.pa then
     nrep == 0 && a.windows.testBit (bitsOf l.pa 46 41) && (s.extend l.pa).isSome && (s.extend (l.pa + bytes - 1)).isSome
   else
     granted a l.pa && s.framesHave l.pa bytes l.gran &&
     (distinct l.dies).length == l.dies.length &&
     l.reps.all (fun d => granted a (onStackOf l.pa d) && s.framesHave (onStackOf l.pa d) bytes l.gran))

/-- Reads an entry at a level of a walk in an address space (R345, R346). -/
def State.entryKind (s : State) (a : ASpace) (e level : Nat) : EntryKind :=
  if !e.testBit 0 then .bad
  else if e.testBit 1 then
    if level = 3 || !s.leafOk a e level then .bad else .leaf (leafFields e level)
  else if level = 0 || bitsOf e 11 2 != 0 || bitsOf e 63 48 != 0 then .bad
  else .table (bitsOf e 47 12 * 4096)

/-- The physical address of the entry a walk reads at a level (R345). -/
def entryAddr (table va level : Nat) : Nat := table + 8 * bitsOf va (24 + 9 * level) (16 + 9 * level)

/-- One read of a walk at its memory point (R347); none where the table lies in no range (R342), or its package cannot be reached (R439). -/
def State.readEntry (s : State) (pa : Nat) : Option Nat :=
  (s.extend pa).bind (fun x => if s.farOff x then none else some (s.readNat .phys x 8))

/-- One 8-byte read at a physical address fills its line (R390); nothing where it cannot be reached. -/
def State.readFill (s : State) (w : Who) (pa : Nat) : State :=
  match s.extend pa with
  | some x => if s.farOff x then s else s.fillFor w .phys (runOf x 8)
  | none => s

/-- The rest of a walk from a level on: each level is one read (R345, R347). -/
def State.walkFrom (s : State) (a : ASpace) (va : Nat) : Nat → Nat → Option Leaf
  | 0, table =>
    match s.readEntry (entryAddr table va 0) with
    | none => none
    | some e => match s.entryKind a e 0 with
      | .leaf l => some l
      | _ => none
  | level + 1, table =>
    match s.readEntry (entryAddr table va (level + 1)) with
    | none => none
    | some e => match s.entryKind a e (level + 1) with
      | .leaf l => some l
      | .table t => s.walkFrom a va level t
      | .bad => none

/-- A whole walk (R345): none is a walk fault. -/
def State.walk (s : State) (asid va : Nat) : Option Leaf :=
  let a := s.space asid
  if 2 ^ 52 ≤ va || !a.valid then none else s.walkFrom a va 3 a.root

/-- The first virtual address of the page that maps va. -/
def pageBase (l : Leaf) (va : Nat) : Nat := va / pageBytes l.size * pageBytes l.size

/-- The physical address that a leaf gives a virtual one. -/
def Leaf.map (l : Leaf) (va : Nat) : Nat := l.pa + va % pageBytes l.size

/-- The copy of a page that a unit reaches: the nearest replica (R140, R141); the Sett takes the primary (log 9). -/
def Leaf.near (l : Leaf) (u va : Nat) : Nat :=
  if l.reps.isEmpty then l.map va
  else if isMgmt u then l.map va
  else onStackOf (l.map va) (nearestDie (dieOf u) l.dies)

/-- The reads of a walk fill their lines at their home slices (R390, R405), level after level. -/
def State.walkFillFrom (s : State) (w : Who) (a : ASpace) (va : Nat) : Nat → Nat → State
  | 0, table => s.readFill w (entryAddr table va 0)
  | level + 1, table =>
    let s := s.readFill w (entryAddr table va (level + 1))
    match s.readEntry (entryAddr table va (level + 1)) with
    | none => s
    | some e => match s.entryKind a e (level + 1) with
      | .table t => s.walkFillFrom w a va level t
      | _ => s

/-- What a whole walk does at the slices. -/
def State.walkFill (s : State) (w : Who) (asid va : Nat) : State :=
  let a := s.space asid
  if 2 ^ 52 ≤ va || !a.valid then s else s.walkFillFrom w a va 3 a.root

/-! ## TLBs and hotness (R349-R351) -/

/-- The TLB entry of a core that maps an address. -/
def Core.tlbHit (c : Core) (asid va : Nat) : Option TlbEntry :=
  c.tlb.find? (fun e => e.asid == asid && e.va == pageBase e.leaf va)

/-- Counts one access through a handle, if the TLB entry that filled it is still there (R350). -/
def State.heat (s : State) (u id : Nat) : State :=
  s.onCore u (fun c => { c with tlb := c.tlb.map (fun e =>
    if e.id == id && e.id != 0 then { e with hot := Nat.min 65535 (e.hot + 1) } else e) })

/-- The page and size that a shadow entry names: bits 35:0 and 37:36 of its first word (R351, R5). -/
def tagOf (x : Nat) : Nat := x % 2 ^ 38

/-- Merges the hotness count of a TLB entry that leaves into its address space's shadow table: one step at the entry's memory point that
raises its line's version as an ATOM does, whether or not the count is kept (R351). -/
def State.hotMerge (s : State) (e : TlbEntry) : State :=
  let a := s.space e.asid
  if e.hot = 0 then s
  else
    let p := e.va / 65536
    let idx := (p ^^^ p / 2 ^ 18) % 2 ^ a.shadowCap
    match s.extend (a.shadow + 16 * idx) with
    | none => s
    | some pa =>
      if s.farOff pa then s
      else
      let s := s.fillFor settWho .phys [pa]
      let tag := s.readNat .phys pa 8
      let count := s.readNat .phys (pa + 8) 4
      let ev := s.readNat .phys (pa + 12) 4
      let mine := 2 ^ 63 + e.leaf.size * 2 ^ 36 + p
      let sat := fun n => Nat.min (2 ^ 32 - 1) n
      if tag.testBit 63 && tagOf tag == tagOf mine then s.writeCtl pa (toBytes 8 mine ++ toBytes 4 (sat (count + e.hot)) ++ toBytes 4 (sat (ev + 1)))
      else if !tag.testBit 63 || count ≤ e.hot then s.writeCtl pa (toBytes 8 mine ++ toBytes 4 e.hot ++ toBytes 4 1)
      else s.bump (lineOf pa)

/-- Fills the TLB with a leaf: 128 entries, the oldest one leaves (R349; replacement is not architected). The entry's name with it. -/
def State.tlbFill (s : State) (u asid va : Nat) (l : Leaf) : Nat × State :=
  let c := s.core u
  match c.tlbHit asid va with
  | some e => (e.id, s)
  | none =>
    let (id, s) := s.fresh1
    let s := if 128 ≤ c.tlb.length then
        (match c.tlb with
         | [] => s
         | e :: rest => (s.onCore u (fun c => { c with tlb := rest })).hotMerge e)
      else s
    (id, s.onCore u (fun c => { c with tlb := c.tlb ++ [⟨asid, pageBase l va, l, 0, id⟩] }))

/-- TRN's effect on a handle (R214), also a retry's new translation (R215): pending, with a TLB hit due in 12 clocks or
a walk at its first level; a base of 2^52 or above faults without a walk. -/
def State.translate (s : State) (tid h : Nat) (base : DWord) : State :=
  let asid := s.asidOf tid
  let va := base.toNat
  if 2 ^ 52 ≤ va then s.onThread tid (fun t => t.setHdl h { st := .faulted, base := base, asid := asid })
  else
    match (s.core (unitOf tid)).tlbHit asid va with
    | some e => s.onThread tid (fun t =>
        t.setHdl h { st := .pending, base := base, asid := asid, leaf := e.leaf, due := some (s.clock + 12), tlb := e.id })
    | none => s.onThread tid (fun t =>
        t.setHdl h { st := .pending, base := base, asid := asid, walk := some (3, (s.space asid).root) })

/-! ## Private memory (R108) -/

/-- The virtual address of private byte a of a thread (R108). -/
def State.privVa (s : State) (tid a : Nat) : Nat :=
  (s.band (bandOf tid)).pbase + a / 4 * 128 + 4 * laneOf tid + a % 4

/-- The page of a private byte, through the handle that programs cannot name (R108). -/
def State.privLeaf (s : State) (tid a : Nat) : Option Leaf := s.walk (s.asidOf tid) (s.privVa tid a)

/-! ## Fetch (R144, check 1 of R159) -/

/-- The extended physical address of the word at a virtual address, if its page is mapped with execute permission. -/
def State.fetchAddr (s : State) (u asid va : Nat) : Option Nat :=
  match s.walk asid va with
  | some l => if l.x then s.extend (l.near u va) else none
  | none => none

/-- The instruction word at a virtual address, which lies at a multiple of 8 (R144). -/
def State.fetch (s : State) (u asid va : Nat) : Option DWord :=
  (s.fetchAddr u asid (va / 8 * 8)).map (fun x => BitVec.ofNat 64 (s.readNat .phys x 8))

/-- The fetch of a word is answered with an error: its page is mapped, but its package cannot be reached (R439; log 84). -/
def State.fetchLost (s : State) (u asid va : Nat) : Bool :=
  match s.fetchAddr u asid (va / 8 * 8) with
  | some x => s.farOff x
  | none => false

/-- The fetch of a word fills the lines of its walk and its own (R390). -/
def State.fetchFill (s : State) (u asid va : Nat) : State :=
  let s := s.walkFill (dataWho u) asid va
  match s.fetchAddr u asid (va / 8 * 8) with
  | some x => if s.farOff x then s else s.fillFor (dataWho u) .phys (runOf x 8)
  | none => s

/-- The word at a virtual address is poisoned (R423): a thread that would run it takes trap 0x10 (log 97). -/
def State.fetchPoisoned (s : State) (u asid va : Nat) : Bool :=
  match s.fetchAddr u asid (va / 8 * 8) with
  | some x => s.readsPoison .phys (runOf x 8)
  | none => false

end Sys2Proof.Machine
end

