-- ==== Sys2Proof/Machine/Teams.lean ====
section
/-!
DEFINITION. Exits, joins, barriers, legs and the completion of teams, launches, graphs and jobs (01 R17-R42, R447;
07 R239-R245; 15 R382-R384): the shared operations behind EXIT, the mask and barrier instructions, CANCEL and
every end of a team.
-/

namespace Sys2Proof.Machine

/-! ## Results in flight -/

/-- The name under which requests of a thread that has exited go on (R206). -/
def deadTid (tid : Nat) : Nat := 2 ^ 50 + tid

/-- Keeps only the late results of a thread that go to registers below n (R31, R206). -/
def State.keepLates (s : State) (tid n : Nat) : State :=
  { s with
    saves := s.saves.map (fun p => if p.tid = tid ∧ n ≤ p.d then { p with tid := deadTid tid } else p),
    halts := s.halts.map (fun p => if p.tid = tid ∧ n ≤ p.d then { p with tid := deadTid tid } else p),
    lates := s.lates.map (fun l => if l.tid = tid then { l with words := l.words.filter (fun w => w.1 < n) } else l),
    reqs := s.reqs.map (fun r => { r with parts := r.parts.map (fun p =>
      if p.tid = tid then { p with dests := p.dests.filter (fun d => d.1 < n) } else p) }) }

/-- The requests of an exited thread no longer belong to it. -/
def State.orphan (s : State) (tid : Nat) : State :=
  { s with
    lates := s.lates.filter (fun l => l.tid != tid),
    saves := s.saves.map (fun p => if p.tid = tid then { p with tid := deadTid tid } else p),
    halts := s.halts.map (fun p => if p.tid = tid then { p with tid := deadTid tid } else p),
    reqs := s.reqs.map (fun r => { r with parts := r.parts.map (fun p =>
      if p.tid = tid then { p with tid := deadTid tid, dests := [] } else p) }) }

/-- A result of an instruction that waited arrives late (R175, R328). -/
def State.answerLate (s : State) (tid d : Nat) (w : Word) : State :=
  { s with lates := s.lates ++ [{ id := s.fresh, tid := tid, words := [(d, w)] }], fresh := s.fresh + 1 }

/-! ## Target words (R328) -/

/-- Location. -/
def targetUnit (w : Word) : Nat := bitsOf w.toNat 10 0
/-- Kind. -/
def targetKind (w : Word) : Nat := bitsOf w.toNat 15 13
/-- The band slot's band. -/
def targetBand (w : Word) : Nat := 64 * targetUnit w + bitsOf w.toNat 21 16
/-- The band whose role a target word names: that of the slot for kinds 0 and 7, the control thread's for the tile kinds. -/
def roleBand (w : Word) : Nat := if targetKind w = 0 ∨ targetKind w = 7 then targetBand w else 64 * targetUnit w

/-- A HALT whose role ends before it has stopped finds no role any more: status 2 (R335; log 101). -/
def State.dropHalts (s : State) (bids : List Nat) : State :=
  let mine := s.halts.filter (fun p => bids.contains (roleBand p.target))
  forEach mine { s with halts := s.halts.filter (fun p => !bids.contains (roleBand p.target)) } (fun s p => s.answerLate p.tid p.d 2)

/-! ## Joins (R17-R22) -/

/-- Live members of mask n of a band (R17). -/
def State.members (s : State) (bid n : Nat) : List Nat :=
  (lanesList (s.band bid).lanes).filter (fun l =>
    hasLane ((s.band bid).mask n) l && !(s.thread (32 * bid + l)).exited)

/-- The arrived set of mask n. -/
def Band.arr (b : Band) (n : Nat) : Word := sget 0 b.arrived n
/-- The generation of mask n. -/
def Band.gen (b : Band) (n : Nat) : Bool := sget false b.gens n
/-- Writes the arrived set of mask n. -/
def Band.setArr (b : Band) (n : Nat) (w : Word) : Band := { b with arrived := sset 0 b.arrived n w }

/-- Every live member of mask n has arrived. -/
def State.joinDone (s : State) (bid n : Nat) : Bool :=
  (s.members bid n).all (fun l => hasLane ((s.band bid).arr n) l)

/-- A waiting thread goes on past the instruction it waits in. -/
def State.release (s : State) (tid : Nat) : State :=
  s.onThread tid (fun t => { t.advance with wait := .none })

/-- Completes the join on mask n (R18): waiters are released, the arrived set is cleared, the generation flips. -/
def State.completeJoin (s : State) (bid n : Nat) : State :=
  let waiters := (s.bandTids bid).filter (fun t => (s.thread t).wait == .join n)
  let s := s.onBand bid (fun b => { b.setArr n 0 with gens := sset false b.gens n (!b.gen n) })
  forEach waiters s State.release

/-- A thread in WAITM may go on (R20). -/
def State.waitmDone (s : State) (tid n : Nat) (g : Bool) : Bool :=
  let b := s.band (bandOf tid)
  b.gen n != g || (s.members (bandOf tid) n).all (fun l => l == laneOf tid || hasLane (b.arr n) l)

/-- The joins of a band that wait for a live member (R18). -/
def State.openJoins (s : State) (bid : Nat) : List Nat :=
  (List.range 12).filter (fun n => (s.bandTids bid).any (fun t => (s.thread t).wait == .join n) && !s.joinDone bid n)

/-- Evaluates every join and WAITM of a band against its masks (R22). -/
def State.evalJoins (s : State) (bid : Nat) : State :=
  let s := forEach (List.range 12) s (fun s n =>
    let waiting := (s.bandTids bid).any (fun t => (s.thread t).wait == .join n)
    if waiting && s.joinDone bid n then s.completeJoin bid n else s)
  forEach (s.bandTids bid) s (fun s t =>
    match (s.thread t).wait with
    | .waitm n g => if s.waitmDone t n g then s.release t else s
    | _ => s)

/-! ## Barriers and legs (R29-R33, R239-R245) -/

/-- Live threads of a team by their names in barriers: resident, in a leg record, saved out, or not yet started. -/
def State.liveRids (s : State) (k : Nat) : List Nat :=
  let t := s.team k
  let name := fun i l => 1024 * k + 32 * i + l
  match t.place with
  | .resident _ =>
    (s.teamTids k).filterMap (fun x => if (s.thread x).exited then none else some (name (s.band (bandOf x)).index (laneOf x)))
  | .savedOut _ _ => t.outLive
  | .gone => []
  | _ =>
    match t.leg with
    | some g => (g.threads.filter (fun p => !p.2.exited)).map (fun p => 1024 * k + p.1)
    | none => if t.done then [] else [name 31 31]

/-- The teams that a barrier of a kind spans (R239, R242, R243), for a team of it. -/
def State.span (s : State) (kind : BarKind) (k : Nat) : List Nat :=
  let t := s.team k
  let same := fun (p : Nat × Team) => p.2.lid == t.lid && !p.2.done
  match kind with
  | .team => [k]
  | .cluster =>
    let g := (s.launch t.lid).desc.cgroup
    (s.teams.filter (fun p => same p && p.2.index / g == t.index / g)).map (·.1)
  | .launch => (s.teams.filter same).map (·.1)

/-- The key of a barrier among those of its launch: LBAR b is b, CBAR b of group n is 16 * (n + 1) + b. -/
def State.barKey (s : State) (kind : BarKind) (k bar : Nat) : Nat :=
  match kind with
  | .team => bar
  | .launch => bar
  | .cluster => 16 * ((s.team k).index / (s.launch (s.team k).lid).desc.cgroup + 1) + bar

/-- A barrier's state. -/
def State.barState (s : State) (kind : BarKind) (k bar : Nat) : BarState :=
  match kind with
  | .team => sget {} (s.team k).bars bar
  | _ => sget {} (s.launch (s.team k).lid).bars (s.barKey kind k bar)

/-- Changes a barrier's state. -/
def State.onBar (s : State) (kind : BarKind) (k bar : Nat) (f : BarState → BarState) : State :=
  let v := f (s.barState kind k bar)
  match kind with
  | .team => s.onTeam k (fun t => { t with bars := sset {} t.bars bar v })
  | _ => let key := s.barKey kind k bar
         s.onLaunch (s.team k).lid (fun l => { l with bars := sset {} l.bars key v })

/-- The barrier is broken in its launch (R244). -/
def State.barBroken (s : State) (kind : BarKind) (k bar : Nat) : Bool :=
  kind != .team && (s.launch (s.team k).lid).broken.contains (s.barKey kind k bar)

/-- The registers a thread keeps after a leg and its barrier's status (R30, R240): g0 to g(n-1), then D. -/
def Thread.endLeg (t : Thread) (n d status : Nat) : Thread :=
  ({ t.advance with
      g := t.g.filter (fun p => p.1 < n), empty := t.empty.filter (fun p => p.1 < n),
      mark := t.mark.filter (fun p => p.1 < n), wait := .none }).setReg d (BitVec.ofNat 32 status)

/-- A thread's leg ends: results to registers that are not carried are discarded (R31). -/
def State.endLeg (s : State) (tid n d status : Nat) : State :=
  (s.keepLates tid n).onThread tid (fun t => t.endLeg n d status)

/-- The whole L1 or data cache of a unit is invalidated (R113). -/
def State.dropL1 (s : State) (u : Nat) : State := s.onCore u (fun c => { c with l1 := [] })

/-- The allocation beyond the carry size reads as zero (R30). -/
def Team.zeroScratch (t : Team) : Team :=
  { t with scratch := t.scratch.filter (fun p => p.1 < t.carry), poison := t.poison.filter (fun p => 4 * p.1 < t.carry) }

/-- The tile of a team has no uncompleted engine entry (R245); true elsewhere. -/
def State.tileIdle (s : State) (k : Nat) : Bool :=
  match (s.team k).place with
  | .resident u =>
    if isTile u then
      let t := s.tile u
      t.lq.entries.isEmpty && t.aq.entries.isEmpty && t.sq.entries.isEmpty && t.mq.entries.isEmpty && t.cq.entries.isEmpty
    else true
  | _ => true

/-- A thread waits at a barrier in a generation; one that named `.trap` keeps its leg when the barrier breaks (R244). -/
def Thread.awaits (t : Thread) (kind : BarKind) (bar : Nat) (g : Bool) (status : Nat) : Bool :=
  match t.wait with
  | .barrier kd b gen _ _ trap _ => kd == kind && b == bar && gen == g && !(status == 1 && trap)
  | _ => false

/-- A leg of a resident team ends (R30, R113): its scratchpad beyond the carry size is zeroed and its L1 invalidated. The moment is that
of each completion of a leg-ending barrier by a thread (log 85). -/
def State.teamLegEnds (s : State) (k : Nat) : State :=
  match (s.team k).place with
  | .resident u => (s.onTeam k Team.zeroScratch).dropL1 u
  | _ => s

/-- Releases the waiters of a barrier in a team with a status, from the generation g; where some leg ends, the team's L1 is
invalidated and its scratchpad beyond the carry size zeroed. A swapped team whose threads wait there wakes. -/
def State.releaseTeam (s : State) (kind : BarKind) (bar : Nat) (g : Bool) (status : Nat) (k : Nat) : State :=
  let t := s.team k
  match t.place with
  | .resident _ =>
    let s := if (s.teamTids k).any (fun tid => (s.thread tid).awaits kind bar g status) then s.teamLegEnds k else s
    forEach (s.teamTids k) s (fun s tid =>
      match (s.thread tid).wait with
      | .barrier kd b gen carry d trap _ =>
        if kd == kind && b == bar && gen == g then
          if status == 1 && trap then s.onThread tid (fun t => { t with wait := .none })
          else
            let s := s.endLeg tid carry d status
            if kind == .team then s.onThread tid (fun t => { t with bara := t.bara.filter (fun p => p.1 != bar) }) else s
        else s
      | _ => s)
  | _ =>
    match t.leg with
    | some l => if l.threads.any (fun p => p.2.awaits kind bar g 0) then s.onTeam k (fun t => { t.zeroScratch with woken := true }) else s
    | none => s

/-- On a tile, a thread waits at the barrier: its BARA alone completes nothing (R245). -/
def State.tileAwaits (s : State) (k bar : Nat) : Bool :=
  match (s.team k).place with
  | .resident u => !isTile u || (s.teamTids k).any (fun t => match (s.thread t).wait with
      | .barrier .team b _ _ _ _ _ => b == bar
      | _ => false)
  | _ => true

/-- Completes a barrier if every live thread it spans has arrived (R29, R242, R243, R245). -/
def State.tryBarrier (s : State) (kind : BarKind) (k bar : Nat) : State :=
  let b := s.barState kind k bar
  let teams := s.span kind k
  let live := teams.flatMap s.liveRids
  let placed := kind != .launch || teams.length == (s.launch (s.team k).lid).remaining
  if !b.arrived.isEmpty && placed && live.all (fun r => b.arrived.contains r) && (kind != .team || (s.tileIdle k && s.tileAwaits k bar)) then
    let s := s.onBar kind k bar (fun _ => ⟨!b.gen, []⟩)
    forEach teams s (fun s k => s.releaseTeam kind bar b.gen 0 k)
  else s

/-- Evaluates every barrier that spans a team. -/
def State.evalBarriers (s : State) (k : Nat) : State :=
  let s := forEach (List.range 16) s (fun s b => s.tryBarrier .team k b)
  let d := (s.launch (s.team k).lid).desc
  let s := if 2 ≤ d.cgroup then forEach (List.range 16) s (fun s b => s.tryBarrier .cluster k b) else s
  if d.pkgbar then forEach (List.range 16) s (fun s b => s.tryBarrier .launch k b) else s

/-! ## Completion (R35, R36, R382-R384) -/

/-- A completion record (R384): its first 12 bytes. -/
def recordBody (lid x y z level : Nat) : List Byte :=
  toBytes 4 lid ++ toBytes 2 x ++ toBytes 2 y ++ toBytes 2 z ++ toBytes 2 level

/-- The extended physical address of a byte of a context's virtual space, as the Sett reaches it for a read or a write: none where it
cannot (R384, R439). -/
def State.ctxPa (s : State) (c va : Nat) (w : Bool) : Option Nat :=
  match s.walk (s.ctx c).asid va with
  | some l =>
    if (if w then l.w else l.r) then (s.extend (l.map va)).bind (fun x => if s.farOff x then none else some x) else none
  | none => none

/-- The walks of an access of the Sett to n bytes of a context's virtual space fill their lines (R390, R405). -/
def State.ctxWalks (s : State) (c va n : Nat) : State :=
  forEach (distinct ((runOf va n).map (· / 65536))) s (fun s p => s.walkFill settWho (s.ctx c).asid (65536 * p))

/-- A read of n bytes there fills the lines of its walks and its own. -/
def State.ctxFill (s : State) (c va n : Nat) : State :=
  (s.ctxWalks c va n).fillFor settWho .phys ((runOf va n).filterMap (fun a => s.ctxPa c a false))

/-- Several reads of a context's virtual space: addresses and sizes. -/
def State.ctxReads (s : State) (c : Nat) (rs : List (Nat × Nat)) : State := forEach rs s (fun s r => s.ctxFill c r.1 r.2)

/-- Writes a completion record, or holds it where its page is not writable (R384). -/
def State.writeRecord (s : State) (ctx va : Nat) (body : List Byte) (status : Nat) : State :=
  let f := s.ctxWalks ctx va 16
  match s.ctxPa ctx va true with
  | some pa => (f.writeCtl pa body).writeCtl (pa + 12) (toBytes 4 status)
  | none => { f with heldRecs := s.heldRecs ++ [⟨ctx, va, body, status⟩], complFault := true }

/-- The record of a completed level of a launch, when COMPL is set. -/
def State.levelRecord (s : State) (lid level x y z status : Nat) : State :=
  let l := s.launch lid
  if l.desc.compl = 0 then s
  else s.writeRecord l.ctx (l.desc.compl + 16 * level) (recordBody (lid % 2 ^ 32) x y z level) status

/-- Keys of the graph and job of a launch. -/
def Launch.graphKey (l : Launch) : Nat := 65536 * l.ctx + l.desc.graph
/-- See graphKey. -/
def Launch.jobKey (l : Launch) : Nat := 65536 * l.ctx + l.desc.job

/-- A counter that reaches 0 records done, unless it has recorded cancelled or failed (R35, R36). -/
def Counter.lower (c : Counter) : Counter :=
  { c with remaining := c.remaining - 1, status := if c.remaining = 1 ∧ c.status = 0 then 1 else c.status }

/-- A launch of the graph has completed: the graph's counter falls, and that of its open job when the graph completes (R383). -/
def State.graphDec (s : State) (lid : Nat) : State :=
  let l := s.launch lid
  let s := { s with graphs := smod l.graphKey Counter.lower s.graphs }
  let g := (find? l.graphKey s.graphs).getD { remaining := 1, accepted := 0, count := 0 }
  if g.remaining = 0 then
    let s := s.levelRecord lid 2 0 0 0 g.status
    match find? l.jobKey s.jobs with
    | none => s
    | some j =>
      if j.remaining = 0 then s
      else
        let s := { s with jobs := smod l.jobKey Counter.lower s.jobs }
        if j.lower.remaining = 0 then s.levelRecord lid 3 0 0 0 j.lower.status else s
  else s

/-- A completed PKGBAR launch returns its reservation: RESV falls by its team count (R381). -/
def State.unreserve (s : State) (lid : Nat) : State :=
  let l := s.launch lid
  let c := s.ctx l.ctx
  if !l.reserved then s
  else
    let s := s.onLaunch lid (fun l => { l with reserved := false })
    match s.ctxPa l.ctx (c.burrow + 0x100) true with
    | some pa => (s.ctxFill l.ctx (c.burrow + 0x100) 4).writeCtl pa (toBytes 4 (s.readNat .phys pa 4 - l.total))
    | none => s

/-- The launch's counter has fallen: at 0 it completes (R35). -/
def State.launchSettle (s : State) (lid : Nat) : State :=
  let l := s.launch lid
  if l.remaining = 0 then
    let s := s.onLaunch lid (fun l => { l with status := if l.status = 0 then 1 else l.status })
    let s := s.unreserve lid
    let s := s.levelRecord lid 1 0 0 0 (s.launch lid).status
    s.graphDec lid
  else s

/-- The launch barriers of a launch are evaluated, as its count of uncompleted teams has fallen (R243). -/
def State.evalLaunchBars (s : State) (lid : Nat) : State :=
  match (s.teams.find? (fun p => p.2.lid == lid && !p.2.done)).map (·.1) with
  | some k => if (s.launch lid).desc.pkgbar then forEach (List.range 16) s (fun s b => s.tryBarrier .launch k b) else s
  | none => s

/-- Counts n teams of a launch as completed or cancelled. -/
def State.launchDec (s : State) (lid n : Nat) : State :=
  if n = 0 || (s.launch lid).remaining = 0 then s
  else ((s.onLaunch lid (fun l => { l with remaining := l.remaining - n })).launchSettle lid).evalLaunchBars lid

/-- Breaks the barriers of some cluster groups of a launch and, if `launch`, its launch barriers: every waiter is released
with status 1, later uses are broken too, and the launch's counter records failed (R244). -/
def State.breakBarriers (s : State) (lid : Nat) (groups : List Nat) (launch : Bool) : State :=
  let d := (s.launch lid).desc
  let keys := (if launch && d.pkgbar then [0] else []) ++ (if 2 ≤ d.cgroup then groups.map (· + 1) else [])
  if keys.isEmpty then s
  else
    let s := s.onLaunch lid (fun l =>
      { l with broken := distinct (l.broken ++ keys.flatMap (fun g => (List.range 16).map (fun b => 16 * g + b))), status := 3 })
    forEach (s.teams.filter (fun p => p.2.lid == lid && !p.2.done)) s (fun s p =>
      forEach [BarKind.cluster, BarKind.launch] s (fun s kind =>
        forEach (List.range 16) s (fun s bar =>
          if keys.contains (s.barKey kind p.1 bar / 16) && (if kind == .launch then d.pkgbar else 2 ≤ d.cgroup)
          then s.releaseTeam kind bar (s.barState kind p.1 bar).gen 1 p.1 else s)))

/-- The cluster group of a team within its launch (R372). -/
def State.groupOf (s : State) (k : Nat) : Nat := (s.team k).index / (s.launch (s.team k).lid).desc.cgroup

/-- Discards the teams of a launch that are not placed (R36, R376). -/
def State.discardUnplaced (s : State) (lid : Nat) : State :=
  let l := s.launch lid
  let back := s.teams.filter (fun p => p.2.lid == lid && p.2.place == .returned)
  let n := l.total - l.next + back.length
  let s := s.onLaunch lid (fun l => { l with next := l.total })
  let s := forEach back s (fun s p => s.onTeam p.1 (fun t => { t with place := .gone, done := true, status := 2 }))
  s.launchDec lid n

/-- A launch has unplaced teams. -/
def State.hasUnplaced (s : State) (lid : Nat) : Bool :=
  (s.launch lid).next < (s.launch lid).total || s.teams.any (fun p => p.2.lid == lid && p.2.place == .returned)

/-- Cancels one launch: it records cancelled unless it has recorded failed, its launch barriers break when it had unplaced teams, and
those are discarded (R36, R244, R250). -/
def State.cancelOne (s : State) (lid : Nat) : State :=
  let unplaced := s.hasUnplaced lid
  let s := s.onLaunch lid (fun l => { l with cancelled := true, status := if l.status = 3 then 3 else 2 })
  let s := if unplaced && (s.launch lid).desc.pkgbar then s.breakBarriers lid [] true else s
  s.discardUnplaced lid

/-- The launches of the same graph that name one of the given launches as predecessor. -/
def State.dependants (s : State) (lids : List Nat) : List Nat :=
  (s.launches.filter (fun p => p.2.desc.preds.any (fun q =>
    lids.any (fun l => l % 2 ^ 32 == q && l / 2 ^ 32 == p.1 / 2 ^ 32 && (s.launch l).inst == p.2.inst)) && !lids.contains p.1)).map (·.1)

/-- Everything that depends on a set of launches, directly or through others. -/
def State.closure (s : State) : Nat → List Nat → List Nat
  | 0, ls => ls
  | n + 1, ls => s.closure n (distinct (ls ++ s.dependants ls))

/-- Cancels every launch that depends on a launch (R36). -/
def State.cancelDependants (s : State) (lid : Nat) : State :=
  forEach ((s.closure s.launches.length [lid]).filter (· != lid)) s State.cancelOne

/-- A launch's counter records failed, and its dependants are cancelled (R36). -/
def State.failLaunch (s : State) (lid : Nat) : State :=
  if (s.launch lid).status = 3 then s.cancelDependants lid
  else (s.onLaunch lid (fun l => { l with status := 3 })).cancelDependants lid

/-- Some record of a team, its own or a copy's that was loaded from its image, has issued the hint (log 20). -/
def State.hasHinted (s : State) (k : Nat) : Bool :=
  s.teams.any (fun p => p.2.lid == (s.team k).lid && p.2.index == (s.team k).index && p.2.hinted)

/-- The team has issued its early-start hint: it counts once (R39, R298). -/
def State.hint (s : State) (k : Nat) : State :=
  if s.hasHinted k then s.onTeam k (fun t => { t with hinted := true })
  else (s.onTeam k (fun t => { t with hinted := true })).onLaunch (s.team k).lid (fun l => { l with hints := l.hints + 1 })

/-- Requests and copies in flight towards an allocation: its inbound counter (R34, R109): those of other teams' stores
and atomics. -/
def State.inbound (s : State) (aid : Nat) : Nat :=
  (s.reqs.filter (fun r => r.place == .scratch aid)).length +
  ((s.bands.flatMap (fun p => p.2.cq.entries) ++ s.tiles.flatMap (fun p => p.2.cq.entries)).filter
    (fun e => e.started && e.aids.contains aid)).length

/-- The queues of a tile or band, oldest entry first. -/
def State.queue (s : State) (q : QRef) : Queue :=
  match q with
  | .band b => (s.band b).cq
  | .tile u e =>
    match e with
    | .lq => (s.tile u).lq
    | .aq => (s.tile u).aq
    | .sq => (s.tile u).sq
    | .mq => (s.tile u).mq
    | .cq => (s.tile u).cq

/-- Changes a queue. -/
def State.onQueue (s : State) (q : QRef) (f : Queue → Queue) : State :=
  match q with
  | .band b => s.onBand b (fun x => { x with cq := f x.cq })
  | .tile u e =>
    s.onTile u (fun t => match e with
      | .lq => { t with lq := f t.lq }
      | .aq => { t with aq := f t.aq }
      | .sq => { t with sq := f t.sq }
      | .mq => { t with mq := f t.mq }
      | .cq => { t with cq := f t.cq })

/-- A thread whose tokens a queue produces for. -/
def queueTid (q : QRef) : Nat :=
  match q with
  | .band b => 32 * b
  | .tile u _ => 2048 * u

/-- The queues of a team. -/
def State.teamQueues (s : State) (k : Nat) : List QRef :=
  match (s.team k).place with
  | .resident u =>
    if isTile u then [.tile u .lq, .tile u .aq, .tile u .sq, .tile u .mq, .tile u .cq]
    else (s.team k).bands.map QRef.band
  | _ => []

/-- The scope a producer of a token names for its writes (R54): that of a copy or BVHR; none for other producers. -/
def scopeOfEntry (e : Entry) : Option Nat :=
  match e.instr with
  | .tcpy f => some (bitsOf f.efn.toNat 2 0)
  | .tcst f => some (bitsOf f.efn.toNat 2 0)
  | .cpy f => some (bitsOf f.efn.toNat 2 0)
  | .cpym f => some (bitsOf f.efn.toNat 2 0)
  | .bvhr f => some (bitsOf f.efn.toNat 2 0)
  | _ => none

/-- The done count of the entry's produced token rises (R49). -/
def State.produce (s : State) (q : QRef) (e : Entry) : State :=
  match e.tok with
  | some n => s.onToken (queueTid q) n (fun k =>
      { k with done := k.done + 1, acq := k.acq || decide (2 ≤ (scopeOfEntry e).getD 0) })
  | none => s

/-- Discards the uncompleted entries of a queue: their tokens' done counts rise (R447). -/
def State.flushQueue (s : State) (q : QRef) : State :=
  let es := (s.queue q).entries
  let s := s.onQueue q (fun x => { x with entries := [], faulted := false, reported := false })
  forEach es s (fun s e => s.produce q e)

/-- Unbinds the channels that a team has bound to its rings; the tile keeps its rings as they are until the next team (R74, R296;
log 86). -/
def State.unbindChannels (s : State) (k : Nat) : State :=
  { s with channels := s.channels.map (fun (p : Nat × Channel) =>
    if p.2.bound.isSome && p.2.team == k then (p.1, { p.2 with bound := none }) else p) }

/-- Frees a team's bands, threads and allocation; the allocation is quarantined while requests towards it are in
flight (R34). Halts of its roles that have not stopped yet find no role (R335). A tile's own state and a tensor team's scratchpad stay as they are until another team comes (R295, R296). -/
def State.freeTeam (s : State) (k : Nat) : State :=
  let t := s.team k
  match t.place with
  | .resident u =>
    let s := s.dropHalts t.bands
    let s := if s.inbound t.aid = 0 then s else { s with quarantine := s.quarantine ++ [(t.aid, (u, t.alloc))] }
    let s := { s with
      threads := s.threads.filter (fun p => !t.bands.contains (bandOf p.1)),
      bands := s.bands.filter (fun p => !t.bands.contains p.1) }
    if isTile u then s.onTeam k (fun t => { t with bands := [] })
    else s.onTeam k (fun t => { t with bands := [], aid := 0, scratch := [], poison := [] })
  | _ => s

/-- The writes of a band's threads, live or exited, that a release at package scope still waits for (R38, R122). -/
def State.bandWrites (s : State) (bid : Nat) : List Nat :=
  (s.reqs.filter (fun r => r.writes && r.holds 5 && r.parts.any (fun p => p.tid / 32 == bid || p.tid / 32 == 2 ^ 45 + bid))).map (·.id)

/-- A withdrawn team counts in its launch once some writes are released: at once where there are none (R38). -/
def State.countAfter (s : State) (lid : Nat) (ids : List Nat) : State :=
  if ids.isEmpty then s.launchDec lid 1 else { s with counts := s.counts ++ [(lid, ids)] }

/-- The withdrawn teams whose writes a release at package scope no longer waits for count (R38, R122): the model's own item. -/
def State.settleCounts (s : State) : State :=
  let left := fun (ids : List Nat) => ids.any (fun id => s.reqs.any (fun r => r.id == id && r.holds 5))
  let due := s.counts.filter (fun c => !left c.2)
  forEach due { s with counts := s.counts.filter (fun c => left c.2) } (fun s c => s.launchDec c.1 1)

/-- Each mailbox of a team's bands that holds a withdrawn team counts it, as a release at package scope for the fetching band's writes:
as the last thread of the team exits (R38). The team's stored mailboxes have no writes in flight. -/
def State.countBoxes (s : State) (k : Nat) : State :=
  let bids := (s.team k).bands
  let held := bids.flatMap (fun b => ((s.band b).boxes.filter (·.holds)).map (fun m => (m.lid, s.bandWrites b)))
  let kept := ((s.team k).boxes.filter (fun p => p.2.holds)).map (fun p => (p.2.lid, ([] : List Nat)))
  let clear := fun (bs : List Mailbox) => bs.map (fun m => { m with holds := false })
  let s := forEach bids s (fun s b => s.onBand b (fun x => { x with boxes := clear x.boxes }))
  let s := s.onTeam k (fun t => { t with boxes := [] })
  forEach (held ++ kept) s (fun s c => s.countAfter c.1 c.2)

/-- Another record of the same team, its own or a copy's that was loaded from its image, has completed (log 20). -/
def State.counted (s : State) (k : Nat) : Bool :=
  s.teams.any (fun p => p.2.lid == (s.team k).lid && p.2.index == (s.team k).index && p.1 != k && p.2.done)

/-- The team completes (R35): it is counted once, whatever copies of it complete (R376, R387), its record of CMODE 1 is written, and what it held is freed. -/
def State.completeTeam (s : State) (k : Nat) : State :=
  let t := s.team k
  if t.done then s
  else
    let counted := s.counted k
    let s := ((s.countBoxes k).unbindChannels k).freeTeam k
    let s := s.onTeam k (fun t => { t with done := true, place := .gone, leg := none,
                                           status := if t.status = 0 then 1 else t.status })
    if counted then s
    else
      let s := if (s.ctx (s.launch t.lid).ctx).cmode = 1 then s.levelRecord t.lid 0 t.x t.y t.z (s.team k).status else s
      s.launchDec t.lid 1

/-- The tokens of a team: its tile's, or its bands' (R9, R35). -/
def State.teamTokens (s : State) (k : Nat) : List Token :=
  match (s.team k).place with
  | .resident u => if isTile u then (s.tile u).k.map (·.2) else (s.team k).bands.flatMap (fun b => (s.band b).k.map (·.2))
  | _ => []

/-- Everything of the team is over: every thread exited and every token done (R35), and no fetch-work request pending. -/
def State.teamDone (s : State) (k : Nat) : Bool :=
  (s.teamTids k).all (fun t => (s.thread t).exited) &&
  (s.teamQueues k).all (fun q => (s.queue q).entries.isEmpty) &&
  (s.teamTokens k).all (fun t => t.issued == t.done) &&
  (s.team k).bands.all (fun b => (s.band b).boxes.all (fun m => !m.pending))

/-- The last thread of a team has exited: the hint counts as issued (R39), and withdrawn teams count (R38). -/
def State.lastExit (s : State) (k : Nat) : State := (s.hint k).countBoxes k

/-- One thread's own part of an exit (R21, R206). -/
def State.exitOnly (s : State) (tid : Nat) : State :=
  let s := s.onThread tid (fun t => { t with exited := true, parked := none, wait := .none, stack := [], vset := [],
                                             vover := false, h := [], bara := [] })
  let s := s.orphan tid
  s.onBand (bandOf tid) (fun b =>
    { b with arrived := (b.arrived.map (fun p => (p.1, p.2 &&& ~~~(maskOf [laneOf tid])))).filter (fun p => p.2 != 0) })

/-- Joins and barriers that waited for a thread are completed by its exit at the same instant (R21, R29); what else its band waits for is
evaluated at the next regroup (R22). -/
def State.exitThread (s : State) (tid : Nat) : State :=
  if (s.thread tid).exited then s
  else
    let k := s.teamOf tid
    let rid := s.rid tid
    let bid := bandOf tid
    let joins := s.openJoins bid
    let s := s.exitOnly tid
    let s := s.onTeam k (fun t => { t with bars := t.bars.map (fun p => (p.1, { p.2 with arrived := p.2.arrived.filter (· != rid) })) })
    let s := forEach joins s (fun s n => if s.joinDone bid n then s.completeJoin bid n else s)
    let s := s.evalBarriers k
    if (s.teamTids k).all (fun t => (s.thread t).exited) then s.lastExit k else s

/-- The team is ended (R447): its threads exit, its queue entries are discarded, its barriers break (R244), its channels
are unbound, and it completes at once as failed; its launch records failed. -/
def State.endTeam (s : State) (k : Nat) : State :=
  let t := s.team k
  if t.done then s
  else
    let s := forEach (s.teamTids k) s State.exitOnly
    let s := forEach (s.teamQueues k) s State.flushQueue
    let s := s.lastExit k
    let s := s.onTeam k (fun t => { t with status := 3 })
    let s := s.breakBarriers t.lid [s.groupOf k] true
    let s := s.failLaunch t.lid
    s.completeTeam k

end Sys2Proof.Machine
end

