-- ==== Sys2Proof/Machine/Ops.lean ====
section
/-!
DEFINITION. Taking a trap and returning from one (13 R313-R316, R329), parking (01 R28, 13 R317-R318), and the
frame every instruction word runs in: the checks of R159, predication (R16) and the bundle after it (R14).
-/

namespace Sys2Proof.Machine

/-! ## Traps -/

/-- The address field of TPC and TVEC: bits 51:3 (R311). -/
def addrField (x : DWord) : DWord := x &&& 0x000FFFFFFFFFFFF8

/-- Causes that park a thread of a shader core for its own access (R313). -/
def parks (cause u : Nat) : Bool := isShader u && (cause == 0x06 || cause == 0x07)

/-- The location a notice or a SREG reports: with the sub-partition of the band on a shader core (R210, R318). -/
def bandLoc (bid : Nat) : Nat :=
  let u := unitOfBand bid
  if isShader u then locOf u + 2048 * (slotOf bid % 4) else locOf u

/-- A notice about a thread (R318): flag bit 0 D, bit 1 Q. -/
def State.noticeOf (s : State) (tid cause flags : Nat) (tval pc : DWord) : Notice :=
  let bid := bandOf tid
  let b := s.band bid
  { cause := cause, flags := flags, slot := slotOf bid, lane := laneOf tid, loc := bandLoc bid, tval := tval, pc := pc,
    lid := s.lidOf tid % 2 ^ 32, index := b.index, bid := bid, pkqb := b.pkqb, asid := s.asidOf tid,
    ctx := s.ctxOf tid }

/-- A notice is held in the core until PARK_NOTICE_WRITE writes it (R317). -/
def State.notify (s : State) (tid cause flags : Nat) (tval pc : DWord) : State :=
  let n := s.noticeOf tid cause flags tval pc
  s.onCore (unitOf tid) (fun c => { c with notices := c.notices ++ [n] })

/-- The thread is parked (R28): it stays at its instruction and the supervisor is notified. -/
def State.park (s : State) (tid cause : Nat) (tval : DWord) (d : Bool) : State :=
  let s := s.notify tid cause (if d then 1 else 0) tval (s.thread tid).pc
  s.onThread tid (fun t => { t with parked := some ⟨cause, tval, d⟩, wait := .none })

/-- The registers of a trap entry (R314): the pc, cause and value are saved, PPRV takes PRV, PRV becomes 1 unless it is 2,
INH becomes 1, the pc becomes TVEC. -/
def Thread.trapEntry (t : Thread) (tvec : DWord) (cause : DWord) (tval : DWord) : Thread :=
  { t with tpc := addrField t.pc, tcause := cause, tval := tval, pprv := t.prv,
           prv := if t.prv = 2 then 2 else 1, inh := true, pc := addrField tvec, wait := .none }

/-- A cause with no handler, or during one (R315): a shader thread parks with D set, a control thread's team ends after a
notice with D set. -/
def State.doubleTrap (s : State) (tid cause : Nat) (tval : DWord) : State :=
  if isShader (unitOf tid) then s.park tid cause tval true
  else (s.notify tid cause 1 tval (s.thread tid).pc).endTeam (s.teamOf tid)

/-- The thread can perform trap entry (R315): it has a handler and runs none. -/
def State.mayTrap (s : State) (tid : Nat) : Bool := addrField (s.band (bandOf tid)).tvec != 0 && !(s.thread tid).inh

/-- A thread's own instruction meets a cause of R313: a double trap (R315), also of a cause that parks; else it parks, or takes
the trap (R314). -/
def State.raise (s : State) (tid cause : Nat) (tval : DWord) : State :=
  if !s.mayTrap tid then s.doubleTrap tid cause tval
  else if parks cause (unitOf tid) then s.park tid cause tval false
  else s.onThread tid (fun t => t.trapEntry (s.band (bandOf tid)).tvec (BitVec.ofNat 64 cause) tval)

/-- The codes of the queues (R311). -/
def queueCode : QRef → Nat
  | .tile _ .lq => 0
  | .tile _ .aq => 1
  | .tile _ .sq => 2
  | .tile _ .mq => 3
  | .tile _ .cq => 4
  | .band _ => 5

/-- The queue of a code, for a thread. -/
def queueOfCode (tid code : Nat) : QRef :=
  let u := unitOf tid
  if code = 0 then .tile u .lq else if code = 1 then .tile u .aq else if code = 2 then .tile u .sq
  else if code = 3 then .tile u .mq else if code = 4 then .tile u .cq else .band (bandOf tid)

/-- TCAUSE of an engine fault (R312): E and the queue. -/
def engineCause (code cause : Nat) : DWord := BitVec.ofNat 64 (cause + 256 + 1024 * code)

/-- Trap entry for an engine entry's fault (R316): as R314, with E, QUEUE and the engine fault record. -/
def State.raiseEngine (s : State) (tid code cause : Nat) (tval : DWord) (word pc : DWord) (dno upc : Nat) : State :=
  if !s.mayTrap tid then s.doubleTrap tid cause tval
  else s.onThread tid (fun t =>
    { t.trapEntry (s.band (bandOf tid)).tvec (engineCause code cause) tval with
        efword := word, efpc := pc, efinfo := BitVec.ofNat 64 (code * 2 ^ 48 + dno % 2 ^ 32 * 2 ^ 16 + upc % 2 ^ 16) })

/-! ## Queue entries after a fault (R76, R257) -/

/-- The faulted entry of a queue: the oldest that has met a fault. -/
def Queue.faultedEntry (q : Queue) : Option Entry := q.entries.find? (fun e => e.fault.isSome)

/-- A handle that an entry uses is translated again from its base (R355), by a walk of its own that fills no TLB (log 103). -/
def State.rewalk (s : State) (h : Handle) : Handle :=
  if h.st == .revoked || h.st == .faulted then
    match s.walk h.asid h.base.toNat with
    | some l => { h with st := .valid, leaf := l }
    | none => { h with st := .faulted }
  else h

/-- The entry restarts at its micro-PC; its handles are translated again and its region entry is read again (R76, R355). -/
def State.restartEntry (s : State) (q : QRef) : State :=
  let r := s.rewalk
  let now := s.clock
  let s := match q with
    | .tile u .mq => s.onTile u (fun t => { t with lastProgress := now })
    | _ => s
  s.onQueue q (fun x =>
    { x with faulted := false, reported := false,
             entries := x.entries.map (fun e => if e.fault.isSome then
               { e with fault := none, hdls := e.hdls.map r, region := none } else e) })

/-- The faulted entry is completed as it stands (R76): its token's done count rises, and a slot it writes is marked
whole (R257). -/
def State.completeEntry (s : State) (q : QRef) : State :=
  match (s.queue q).faultedEntry with
  | none => s
  | some e =>
    let s := s.onQueue q (fun x => { x with faulted := false, reported := false, entries := x.entries.filter (fun y => y.dno != e.dno) })
    let s := s.produce q e
    match q, slotOfEntry e with
    | .tile u _, some o => s.onTile u (fun t => { t with marks := sset 0 t.marks o 16 })
    | _, _ => s

/-- The queues whose faults a thread takes: a control thread its tile's five, a shader thread its band's. -/
def queuesOf (tid : Nat) : List QRef :=
  let u := unitOf tid
  if isTile u then [.tile u .lq, .tile u .aq, .tile u .sq, .tile u .mq, .tile u .cq]
  else if isShader u then [.band (bandOf tid)] else []

/-- The unreported faulted entries of a thread's queues; a shader thread takes those it placed itself (R256). -/
def State.faultsOf (s : State) (tid : Nat) : List (QRef × Entry) :=
  (queuesOf tid).filterMap (fun q =>
    let x := s.queue q
    if x.faulted && !x.reported then
      match x.faultedEntry with
      | some e => if isTile (unitOf tid) || e.tid == tid then some (q, e) else none
      | none => none
    else none)

/-- The fault reported first: the lowest dispatch number (R316). -/
def State.firstFault (s : State) (tid : Nat) : Option (QRef × Entry) :=
  (s.faultsOf tid).foldl (fun m p => match m with
    | none => some p
    | some b => if p.2.dno < b.2.dno then some p else some b) none

/-- The value a fault of an entry reports. -/
def Entry.faultOf (e : Entry) : Nat × DWord := e.fault.getD (0, 0)

/-- The fault of an entry whose thread has exited: a shader thread's is reported by a notice with Q set (R256); a control thread's
finds no handler, and its team ends (R315, R447). -/
def State.orphanFault (s : State) (q : QRef) (e : Entry) : State :=
  let f := e.faultOf
  if isTile (unitOf (queueTid q)) then (s.notify e.tid f.1 1 f.2 e.addr).endTeam (s.teamOf (queueTid q))
  else (s.notify e.tid f.1 2 f.2 e.addr).onQueue q (fun x => { x with reported := true })

/-- A thread exits: a fault of its entries that it has not taken is reported as one of an exited thread (R206, R256). -/
def State.leave (s : State) (tid : Nat) : State :=
  let s := s.exitThread tid
  match s.firstFault tid with
  | some (q, e) => s.orphanFault q e
  | none => s

/-- The return from a trap (R329) of one thread: 0 retry, 1 skip, 2 kill. -/
def State.trapReturn (s : State) (tid fn : Nat) : State :=
  let t := s.thread tid
  let s := s.onThread tid (fun t => { t with inh := false, prv := t.pprv })
  let k := s.teamOf tid
  if t.tcause.getLsbD 8 then
    let q := queueOfCode tid (bitsOf t.tcause.toNat 12 10)
    let none_ := bitsOf t.tcause.toNat 7 0 == 0x18
    if fn = 2 then s.endTeam k
    else
      let s := s.onThread tid (fun t => { t with pc := t.tpc })
      if none_ then s else if fn = 0 then s.restartEntry q else s.completeEntry q
  else if fn = 0 then s.onThread tid (fun t => { t with pc := t.tpc })
  else if fn = 1 then
    let s := s.onThread tid (fun t => { t with pc := t.tpc + 8 })
    s
  else if isShader (unitOf tid) then (s.leave tid).failLaunch (s.lidOf tid)
  else s.endTeam k

/-! ## The checks of R159 -/

/-- What the checks of a lane decide. -/
inductive Check where
  | pass
  | wait
  | trap (cause : Nat) (tval : DWord)
  | storeError (cause : Nat) (tval : DWord)
  deriving DecidableEq, Repr

/-- The first trap of a list of (holds, cause, value) causes, in order. -/
def firstTrap : List (Bool × Nat × DWord) → Check
  | [] => .pass
  | (b, c, v) :: t => if b then .trap c v else firstTrap t

/-- A check followed by another. -/
def Check.andThen (a b : Check) : Check := match a with | .pass => b | _ => a

/-- The words that a management core refuses although they are of class C (R309). -/
def isCopy : Instr → Bool
  | .tcpy _ => true
  | .tcst _ => true
  | .cpy _ => true
  | .cpym _ => true
  | _ => false

/-- The class runs on the kind of unit (R156, R309). -/
def classRuns (i : Instr) (u : Nat) : Bool :=
  match classOf i with
  | some .c => !(isMgmt u && isCopy i)
  | some .s => isShader u
  | some .t => isTile u
  | some .p => true
  | none => true

/-- Tokens of the word: k0-k15 on a shader core (R149, R154). -/
def tokensFit (i : Instr) (u : Nat) : Bool :=
  let e := fun (f : EFmt) => (f.d.toNat ≤ 15 || f.d == 63) && (f.w0.toNat ≤ 15 || f.w0 == 31) &&
    (f.w1.toNat ≤ 15 || f.w1 == 31) && (f.w2.toNat ≤ 15 || f.w2 == 31)
  !isShader u ||
  match i with
  | .tcpy f => e f
  | .tcst f => e f
  | .cpy f => e f
  | .cpym f => e f
  | .bvhr f => e f
  | .fxi f => f.d.toNat ≤ 15
  | .fxw f => f.a.toNat ≤ 15
  | .twait f => f.a.toNat ≤ 15
  | _ => true

/-- A mask that a class C word names exists on shader cores only (R183, R185, R194). -/
def masksFit (i : Instr) (u : Nat) : Bool :=
  isShader u ||
  match i with
  | .cmp _ => false
  | .cmpi _ => false
  | .fcmp f => !f.fn.getLsbD 3
  | .mov f => f.fn != 4
  | _ => true

/-- The carry count of a barrier is at most the launch's registers (R239). -/
def carryFits (i : Instr) (n : Nat) : Bool :=
  match i with
  | .bar f => carryOf f ≤ n
  | .barw f => carryOf f ≤ n
  | .cbar f => carryOf f ≤ n
  | .lbar f => carryOf f ≤ n
  | _ => true

/-- Slot and bridge destinations exist on tiles (R281, R282): TCPY to a slot runs on a tile, a bridge destination of CPY
on a shader core. -/
def destFits (i : Instr) (u : Nat) : Bool :=
  match i with
  | .tcpy f => isTile u || !f.efn.getLsbD 7
  | .cpy f => isShader u || bitsOf f.c.toNat 5 3 != 5
  | _ => true

/-- A fragment's registers of GMMA below the register count (R259). -/
def gmmaFits (i : Instr) (n : Nat) : Bool :=
  match i with
  | .gmma f => f.a.toNat + 4 ≤ n
  | _ => true

/-- Check 4 of R159 for a unit and a band's register count: the word is legal, its class runs here, and every register it
names exists. -/
def fits (i : Instr) (u n : Nat) : Bool :=
  legal i && classRuns i u && tokensFit i u && masksFit i u && carryFits i n && destFits i u && gmmaFits i n &&
  (shape i).srcs.all (fun x => x.reg + x.cnt ≤ n) && (shape i).dsts.all (fun x => x.1 + x.2 ≤ n)

/-- The privilege level a word needs (R156, R328). -/
def levelOf (i : Instr) : Nat :=
  match i with
  | .drstQuiesce _ => 2
  | .drstFlush _ => 2
  | .drstCore _ => 2
  | .drstAdmit _ => 2
  | .drstEngine _ => 2
  | .stest _ => 2
  | _ => if classOf i == some .p then 1 else 0

/-- The registers of a source. -/
def Src.regs (x : Src) : List Nat := (List.range x.cnt).map (x.reg + ·)

/-- The code of a field in TVAL (R160). -/
def Fld.code : Fld → Nat
  | .a => 0
  | .b => 1
  | .c => 2
  | .d => 3

/-- TVAL that names a register of a field (R160). -/
def regTval (f : Fld) (r : Nat) : DWord := BitVec.ofNat 64 (64 * f.code + r)

/-- The first register of some sources that has a property, in the order of the sources' fields: A, B, C, then D (R160 does not say which
of several empty sources TVAL names; log 88). -/
def firstReg (srcs : List Src) (p : Nat → Bool) : Option (Fld × Nat) :=
  match srcs with
  | [] => none
  | x :: rest =>
    match x.regs.find? p with
    | some r => some (x.fld, r)
    | none => firstReg rest p

/-- The handles a word must find full (R12, R213): those it writes, and those it reaches the global space through. -/
def handlesOf : Instr → List Nat
  | .trn f => [f.d.toNat]
  | .hrel f => [f.a.toNat]
  | .ldg f => [f.a.toNat]
  | .stg f => [f.a.toNat]
  | .mcst f => [f.a.toNat]
  | .ldv f => [f.a.toNat]
  | .casv f => [f.a.toNat]
  | .atom f => [f.a.toNat]
  | .red f => [f.a.toNat]
  | .evwait f => if f.sp == 4 then [f.a.toNat] else []
  | .evsig f => if f.sp == 4 then [f.a.toNat] else []
  | .tcpy f => [f.a.toNat]
  | .tcst f => [f.a.toNat]
  | .bvhr f => [f.a.toNat]
  | .cpy f => (if bitsOf f.c.toNat 5 3 = 4 then [bitsOf f.a.toNat 5 3] else []) ++
              (if bitsOf f.c.toNat 2 0 = 4 then [bitsOf f.a.toNat 2 0] else [])
  | .cpym f => if bitsOf f.c.toNat 2 0 = 4 then [bitsOf f.a.toNat 2 0] else []
  | _ => []

/-- Registers of the A fragment of a GMMA for a format word (R259). -/
def fragLen (w : Word) : Nat := if bitsOf w.toNat 3 0 ≤ 1 then 8 else 4

/-- The sources of a word for a thread: those of its shape; the A fragment of a GMMA has as many registers as the format word in
g[C] says, once that is full (R259). -/
def srcsOf (i : Instr) (t : Thread) : List Src :=
  match i with
  | .gmma f => (shape i).srcs.map (fun x => if x.fld == .a && !t.isEmpty f.c.toNat then { x with cnt := fragLen (t.reg f.c.toNat) } else x)
  | _ => (shape i).srcs

/-- The A fragment of a GMMA that the format word gives is misaligned or reaches beyond the n registers (R259). -/
def fragBad (i : Instr) (n : Nat) (t : Thread) : Bool :=
  match i with
  | .gmma f => !t.isEmpty f.c.toNat &&
      (f.a.toNat % fragLen (t.reg f.c.toNat) != 0 || decide (n < f.a.toNat + fragLen (t.reg f.c.toNat)))
  | _ => false

/-- Check 6 of R159 with R12 and R220: a source that blocks, a destination that is empty or a pending handle keeps the thread waiting, an
empty source with FE set traps 0x03, a marked source raises its deferred error. -/
def sourceCheck (i : Instr) (t : Thread) : Check :=
  let srcs := srcsOf i t
  let fe := feOf i
  let blocked := srcs.any (fun x => !x.traps fe && x.regs.any t.isEmpty)
  let busy := (shape i).dsts.any (fun d => ((List.range d.2).map (d.1 + ·)).any t.isEmpty)
  let pending := (handlesOf i).any (fun h => (t.hdl h).st == .pending)
  if blocked || busy || pending then .wait
  else match firstReg srcs t.isEmpty with
    | some (f, r) => .trap 0x03 (regTval f r)
    | none => match firstReg srcs (fun r => t.markOf r != 0) with
      | some (f, r) => .trap (if t.markOf r = 1 then 0x0F else 0x10) (regTval f r)
      | none => .pass

/-- Checks 4 to 6 of R159 for one thread. -/
def laneCheck (i : Instr) (word : DWord) (u n : Nat) (t : Thread) : Check :=
  if !fits i u n || fragBad i n t then .trap 0x01 word
  else if t.prv < levelOf i then .trap 0x02 word
  else sourceCheck i t

/-- The word places an entry in a band's copy queue (R256). -/
def placesCopy (i : Instr) (u : Nat) : Bool := isShader u && (isCopy i || (match i with | .bvhr _ => true | _ => false))

/-- The word keeps a performing thread from being ready (R12, R256): a source, a destination, a handle, or a full copy queue. -/
def State.wordWaits (s : State) (i : Instr) (w : DWord) (tid : Nat) : Bool :=
  let u := unitOf tid
  let b := s.band (bandOf tid)
  match laneCheck i w u b.nregs (s.thread tid) with
  | .wait => true
  | .pass => placesCopy i u && decide (32 ≤ b.cq.entries.length)
  | _ => false

/-- Check 2 of R159. -/
def maskSelectOk (ms : BitVec 4) (u : Nat) : Bool := ms.toNat ≤ 12 && (isShader u || ms == 12)

/-- A fetched word keeps a thread from being ready: it is legal and predicated on the thread, which would wait (R12, R16). A word that
fails check 2 never waits. -/
def State.fetchedWaits (s : State) (w : DWord) (tid : Nat) : Bool :=
  match decode w with
  | .error _ => false
  | .ok i =>
    match msOf i with
    | none => false
    | some ms => maskSelectOk ms (unitOf tid) && (ms == 12 || hasLane ((s.band (bandOf tid)).mask ms.toNat) (laneOf tid)) && s.wordWaits i w tid

/-- The thread stops as a check says. -/
def State.stop (s : State) (tid : Nat) (c : Check) : State :=
  match c with
  | .pass => s
  | .wait => s
  | .trap cause tval => s.raise tid cause tval
  | .storeError cause tval => (s.onThread tid (fun t => { t with serr := none })).raise tid cause tval

/-! ## Bundles (R14) -/

/-- The most common value of a list, the lowest among equals (R14). -/
def mostCommon (xs : List Nat) : Option Nat :=
  xs.foldl (fun best x =>
    match best with
    | none => some x
    | some b => let cb := xs.count b; let cx := xs.count x
                if cx > cb || (cx == cb && x < b) then some x else some b) none

/-- The bundle keeps, of some lanes, those at the most common next program counter (R14). -/
def State.keepAmong (s : State) (bid : Nat) (lanes : List Nat) : State :=
  let alive := lanes.filter (fun l => (s.thread (32 * bid + l)).free)
  let pcs := alive.map (fun l => (s.thread (32 * bid + l)).pc.toNat)
  match mostCommon pcs with
  | none => s.onBand bid (fun b => { b with bundle := [] })
  | some pc => s.onBand bid (fun b =>
      { b with bundle := alive.filter (fun l => (s.thread (32 * bid + l)).pc.toNat == pc) })

/-- The bundle after a word: of the lanes that went on, and of those that took an engine fault in its place. -/
def State.keepBundle (s : State) (bid : Nat) (lanes : List Nat) : State := s.keepAmong bid (lanes ++ s.cur.trapped)

/-! ## The frame of an instruction word -/

/-- A lane performs the word (R16). -/
def performs (s : State) (ms : BitVec 4) (l : Nat) : Bool := ms == 12 || hasLane ((s.band s.cur.bid).mask ms.toNat) l

/-- All members of the bundle take a trap. -/
def State.stopAll (s : State) (cause : Nat) (tval : DWord) : State :=
  let is := s.cur
  (forEach is.lanes s (fun s l => s.raise (32 * is.bid + l) cause tval)).keepBundle is.bid is.lanes

/-- The verdict of every performing lane: checks 4 to 6, then those of the entry (check 7). -/
def verdict (i : Instr) (s : State) (own : State → Nat → Check) (l : Nat) : Check :=
  let is := s.cur
  let tid := 32 * is.bid + l
  (laneCheck i is.word is.u (s.band is.bid).nregs (s.thread tid)).andThen (own s tid)

/-- Runs a word for the bundle that issues (R159, R161): lanes that do not perform move on, lanes whose checks fail
stop, and the others perform the word together through `eff`, their pc already past it. -/
def perform (i : Instr) (s : State) (own : State → Nat → Check) (eff : State → List Nat → State) : State :=
  let is := s.cur
  match msOf i with
  | none => s
  | some ms =>
    if !maskSelectOk ms is.u then s.stopAll 0x01 is.word
    else
      let act := is.lanes.filter (performs s ms)
      let idle := is.lanes.filter (fun l => !performs s ms l)
      let go := act.filter (fun l => verdict i s own l == .pass)
      let moved := forEach (idle ++ go) s (fun s l => s.onThread (32 * is.bid + l) Thread.advance)
      let stopped := forEach act moved (fun x l => x.stop (32 * is.bid + l) (verdict i s own l))
      let done := if go.isEmpty then stopped else eff stopped (go.map (32 * is.bid + ·))
      done.keepBundle is.bid (is.lanes.filter (fun l => verdict i s own l != .wait || !performs s ms l))

/-- One lane's turn in a word that runs lane after lane: the state so far, and the lanes that went on. -/
def laneTurn (i : Instr) (s : State) (ms : BitVec 4) (own : State → Nat → Check) (eff : State → Nat → State)
    (acc : State × List Nat) (l : Nat) : State × List Nat :=
  let x := acc.1
  let tid := 32 * s.cur.bid + l
  if performs s ms l then
    match verdict i { x with cur := s.cur } own l with
    | .pass => (eff (x.onThread tid Thread.advance) tid, acc.2 ++ [l])
    | .wait => acc
    | c => (x.stop tid c, acc.2 ++ [l])
  else (x.onThread tid Thread.advance, acc.2 ++ [l])

/-- Runs a word lane after lane: each lane's checks see what the lanes before it did (queues and tokens that fill up). -/
def performEach (i : Instr) (s : State) (own : State → Nat → Check) (eff : State → Nat → State) : State :=
  let is := s.cur
  match msOf i with
  | none => s
  | some ms =>
    if !maskSelectOk ms is.u then s.stopAll 0x01 is.word
    else
      let r := is.lanes.foldl (laneTurn i s ms own eff) (s, [])
      r.1.keepBundle is.bid r.2

/-- No check of the entry's own. -/
def noCheck (_ : State) (_ : Nat) : Check := .pass

/-- Each performing thread changes its own record only. -/
def eachThread (f : State → Nat → Thread → Thread) (s : State) (tids : List Nat) : State :=
  forEach tids s (fun x tid => x.onThread tid (f s tid))

/-- The next state of a word whose lanes each compute from their own record. -/
def lanewise (i : Instr) (s : State) (own : State → Nat → Check) (f : State → Nat → Thread → Thread) :
    Host.Outcome State Fault Refusal :=
  .next (perform i s own (eachThread f))

/-- The late result of an instruction (R175): the destination is emptied at issue and filled on delivery. -/
def State.deliverLate (s : State) (tid r : Nat) (ws : List Word) : State :=
  let (id, s) := s.fresh1
  let s := s.onThread tid (fun t => t.emptyRegs r ws.length)
  { s with lates := s.lates ++ [{ id := id, tid := tid, words := ((List.range ws.length).map (r + ·)).zip ws }] }

/-- Each performing thread's result arrives late (R175). -/
def latewise (i : Instr) (s : State) (own : State → Nat → Check) (d : Nat) (f : State → Nat → Thread → List Word) :
    Host.Outcome State Fault Refusal :=
  .next (perform i s own (fun x tids => forEach tids x (fun y tid => y.deliverLate tid d (f x tid (x.thread tid)))))

/-- The two words of a 64-bit value, low first. -/
def words64 (x : DWord) : List Word := [x.extractLsb' 0 32, x.extractLsb' 32 32]

/-- The thread stays at its instruction and waits there. -/
def State.waitHere (s : State) (tid : Nat) (w : Wait) : State :=
  s.onThread tid (fun t => { t with pc := s.cur.pc, wait := w })

/-- The same, where an image of the thread needs the word of the wait (R253). -/
def State.waitWord (s : State) (tid : Nat) (w : Wait) : State :=
  s.onThread tid (fun t => { t with pc := s.cur.pc, wait := w, wword := s.cur.word })

end Sys2Proof.Machine
end

