-- ==== Sys2Proof/Machine/Flags.lean ====
section
/-!
DEFINITION. Conditions, saturation and mask bits: what the compare, branch and select instructions compute in place
of flags (05 R153; 06 R177, R182, R183; 03 R82).
-/

namespace Sys2Proof.Machine

/-- Signed integer types of 32 and 64 bits: TY 6 and 7 (R151). -/
def isSigned (ty : BitVec 4) : Bool := ty == 6 || ty == 7 || ty == 4 || ty == 5

/-- Bits of an integer type (R151). -/
def intBits (ty : BitVec 4) : Nat :=
  match ty.toNat % 4 with
  | 0 => 8
  | 1 => 16
  | 2 => 32
  | _ => 64

/-- The raw bits of an operand of type TY: a register, or a pair for the 64-bit types (R174). -/
def rawOf (t : Thread) (ty : BitVec 4) (r : Nat) : Nat :=
  if width ty = 2 then (t.reg64 r).toNat else (t.reg r).toNat

/-- The low n bits of a natural number as a signed value (R172). -/
def toSigned (n x : Nat) : Int := if x % 2 ^ n < 2 ^ (n - 1) then (x % 2 ^ n : Nat) else ((x % 2 ^ n : Nat) : Int) - 2 ^ n

/-- Val(f) of R174: the exact value of an operand. -/
def valOf (t : Thread) (ty : BitVec 4) (r : Nat) : Int :=
  if isSigned ty then toSigned (intBits ty) (rawOf t ty r) else (rawOf t ty r : Nat)

/-- MinOf and MaxOf of a type (R81, R174). -/
def minOf (ty : BitVec 4) : Int := if isSigned ty then -(2 ^ (intBits ty - 1)) else 0
/-- See minOf. -/
def maxOf (ty : BitVec 4) : Int := if isSigned ty then 2 ^ (intBits ty - 1) - 1 else 2 ^ intBits ty - 1

/-- Clamps to the range of the type (R82). -/
def clampTo (ty : BitVec 4) (x : Int) : Int := max (min x (maxOf ty)) (minOf ty)

/-- An exact integer reduced to n bits (R172). -/
def wrapBits (n : Nat) (x : Int) : Nat := (x % (2 ^ n : Nat)).toNat

/-- Writes Dest(D) of R174. -/
def Thread.setDest (t : Thread) (ty : BitVec 4) (d x : Nat) : Thread :=
  if width ty = 2 then t.setReg64 d (BitVec.ofNat 64 x) else t.setReg d (BitVec.ofNat 32 x)

/-- The words of Dest(D). -/
def destWords (ty : BitVec 4) (x : Nat) : List Word :=
  if width ty = 2 then words64 (BitVec.ofNat 64 x) else [BitVec.ofNat 32 x]

/-- The integer conditions of R182. -/
def intCond (code : Nat) (a b : Int) : Bool :=
  match code with
  | 0 => a == b
  | 1 => a != b
  | 2 => decide (a < b)
  | 3 => decide (a ≤ b)
  | 4 => decide (b < a)
  | _ => decide (b ≤ a)

/-- The branch conditions of R153 on a 32-bit value. -/
def branchCond (code : Nat) (x : Word) : Bool :=
  match code with
  | 0 => true
  | 1 => x == 0
  | 2 => x != 0
  | 3 => decide (x.toInt < 0)
  | 4 => decide (0 ≤ x.toInt)
  | 5 => decide (0 < x.toInt)
  | _ => decide (x.toInt ≤ 0)

/-- How a compare writes its mask bit (R183): set, and, or. -/
def combineBit (code : Nat) (old cond : Bool) : Bool :=
  match code with
  | 0 => cond
  | 1 => old && cond
  | _ => old || cond

/-- Writes lane l of a mask word. -/
def setLane (w : Word) (l : Nat) (b : Bool) : Word :=
  if b then w ||| ((1 : Word) <<< l) else w &&& ~~~((1 : Word) <<< l)

/-- Writes the own bits of performing threads in mask d of the issuing band (R183). -/
def State.setOwnBits (s : State) (d : Nat) (bits : List (Nat × Bool)) : State :=
  s.onBand s.cur.bid (fun b => b.setMask d (bits.foldl (fun w p => setLane w (laneOf p.1) p.2) (b.mask d)))

/-- A mask-writing compare (R183): every performing thread's own bit of m[D] together. -/
def compareMask (d code : Nat) (cond : State → Nat → Thread → Bool) (s : State) (tids : List Nat) : State :=
  s.setOwnBits d (tids.map (fun t =>
    (t, combineBit code (hasLane ((s.band s.cur.bid).mask d) (laneOf t)) (cond s t (s.thread t)))))

/-- A uniform register takes the value of the lowest-numbered performing thread (R176). -/
def writeUniform (n : Nat) (f : State → Nat → Word) (s : State) (tids : List Nat) : State :=
  if tids.isEmpty then s
  else let w := f s (lowest 0 tids); s.onBand s.cur.bid (fun b => { b with s := sset 0 b.s n w })

end Sys2Proof.Machine
end

