-- ==== Sys2Proof/Machine/Alu.lean ====
section
/-!
DEFINITION. Integer arithmetic, logic, comparison, moves and integer conversions (06 R177-R190).
-/

namespace Sys2Proof.Machine

/-- Reduces an exact result to Dest(D), after saturation when SAT is set (R82, R177). -/
def intResult (ty : BitVec 4) (sat : Bool) (x : Int) : Nat :=
  wrapBits (intBits ty) (if sat then clampTo ty x else x)

/-- The integer forms of R177: an exact function of Val(A), Val(B), Val(C). -/
def intOp (f : RFmt) (g : Int → Int → Int → Int) (_ : State) (_ : Nat) (t : Thread) : Thread :=
  t.setDest f.ty f.d.toNat (intResult f.ty (f.sat == 1)
    (g (valOf t f.ty f.a.toNat) (valOf t f.ty f.b.toNat) (valOf t f.ty f.c.toNat)))

/-- ADD (R177). -/
def execAdd (f : RFmt) (s : State) : Host.Outcome State Fault Refusal :=
  lanewise (.add f) s noCheck (intOp f (fun a b _ => a + b))
/-- SUB (R177). -/
def execSub (f : RFmt) (s : State) : Host.Outcome State Fault Refusal :=
  lanewise (.sub f) s noCheck (intOp f (fun a b _ => a - b))
/-- MUL (R177). -/
def execMul (f : RFmt) (s : State) : Host.Outcome State Fault Refusal :=
  lanewise (.mul f) s noCheck (intOp f (fun a b _ => a * b))
/-- MULH (R177): floor(a * b / 2^n). -/
def execMulh (f : RFmt) (s : State) : Host.Outcome State Fault Refusal :=
  lanewise (.mulh f) s noCheck (intOp f (fun a b _ => Int.fdiv (a * b) (2 ^ intBits f.ty)))
/-- MAD (R177). -/
def execMad (f : RFmt) (s : State) : Host.Outcome State Fault Refusal :=
  lanewise (.mad f) s noCheck (intOp f (fun a b c => a * b + c))
/-- MIN (R177). -/
def execMin (f : RFmt) (s : State) : Host.Outcome State Fault Refusal :=
  lanewise (.min f) s noCheck (intOp f (fun a b _ => min a b))
/-- MAX (R177). -/
def execMax (f : RFmt) (s : State) : Host.Outcome State Fault Refusal :=
  lanewise (.max f) s noCheck (intOp f (fun a b _ => max a b))
/-- ABSD (R177): abs(a - b). -/
def execAbsd (f : RFmt) (s : State) : Host.Outcome State Fault Refusal :=
  lanewise (.absd f) s noCheck (intOp f (fun a b _ => ((a - b).natAbs : Int)))
/-- CLAMP (R177): min(max(a, b), c). -/
def execClamp (f : RFmt) (s : State) : Host.Outcome State Fault Refusal :=
  lanewise (.clamp f) s noCheck (intOp f (fun a b c => min (max a b) c))

/-- Operand A of an I-format form: a register, or a pair with FN 1 (R178). -/
def immSrc (f : IFmt) (t : Thread) : Nat := if f.fn == 1 then (t.reg64 f.a.toNat).toNat else (t.reg f.a.toNat).toNat
/-- The bits of an I-format form (R178). -/
def immBits (f : IFmt) : Nat := if f.fn == 1 then 64 else 32
/-- The sign-extended immediate (R178). -/
def immVal (f : IFmt) : Int := f.imm.toInt
/-- The immediate as n bits. -/
def immNat (f : IFmt) : Nat := wrapBits (immBits f) (immVal f)

/-- The I-format forms of R178: a function of the operand and the immediate. -/
def immFn (f : IFmt) (g : Nat → Nat) (_ : State) (_ : Nat) (t : Thread) : Thread :=
  let x := g (immSrc f t) % 2 ^ immBits f
  if f.fn == 1 then t.setReg64 f.d.toNat (BitVec.ofNat 64 x) else t.setReg f.d.toNat (BitVec.ofNat 32 x)

/-- a >> j with copies of bit n - 1 in (R178, R179). -/
def sarNat (n a j : Nat) : Nat := wrapBits n (toSigned n a / 2 ^ (if n ≤ j then n else j))

/-- ADDI (R178). -/
def execAddi (f : IFmt) (s : State) : Host.Outcome State Fault Refusal :=
  lanewise (.addi f) s noCheck (immFn f (fun a => a + immNat f))
/-- ANDI (R178). -/
def execAndi (f : IFmt) (s : State) : Host.Outcome State Fault Refusal :=
  lanewise (.andi f) s noCheck (immFn f (fun a => a &&& immNat f))
/-- ORI (R178). -/
def execOri (f : IFmt) (s : State) : Host.Outcome State Fault Refusal :=
  lanewise (.ori f) s noCheck (immFn f (fun a => a ||| immNat f))
/-- XORI (R178). -/
def execXori (f : IFmt) (s : State) : Host.Outcome State Fault Refusal :=
  lanewise (.xori f) s noCheck (immFn f (fun a => a ^^^ immNat f))
/-- SHLI (R178). -/
def execShli (f : IFmt) (s : State) : Host.Outcome State Fault Refusal :=
  lanewise (.shli f) s noCheck (immFn f (fun a => a * 2 ^ f.imm.toNat))
/-- SHRI (R178). -/
def execShri (f : IFmt) (s : State) : Host.Outcome State Fault Refusal :=
  lanewise (.shri f) s noCheck (immFn f (fun a => a / 2 ^ f.imm.toNat))
/-- SARI (R178). -/
def execSari (f : IFmt) (s : State) : Host.Outcome State Fault Refusal :=
  lanewise (.sari f) s noCheck (immFn f (fun a => sarNat (immBits f) a f.imm.toNat))

/-- Forms on raw bits: a function of a, b and the width n. -/
def bitOp (f : RFmt) (g : Nat → Nat → Nat → Nat) (_ : State) (_ : Nat) (t : Thread) : Thread :=
  let n := intBits f.ty
  t.setDest f.ty f.d.toNat (g n (rawOf t f.ty f.a.toNat) (rawOf t f.ty f.b.toNat) % 2 ^ n)

/-- Shift forms: the amount is g[B], a single register (R179). -/
def shiftOp (f : RFmt) (g : Nat → Nat → Nat → Nat) (_ : State) (_ : Nat) (t : Thread) : Thread :=
  let n := intBits f.ty
  t.setDest f.ty f.d.toNat (g n (rawOf t f.ty f.a.toNat) (t.reg f.b.toNat).toNat % 2 ^ n)

/-- AND (R179). -/
def execAnd (f : RFmt) (s : State) : Host.Outcome State Fault Refusal :=
  lanewise (.and f) s noCheck (bitOp f (fun _ a b => a &&& b))
/-- OR (R179). -/
def execOr (f : RFmt) (s : State) : Host.Outcome State Fault Refusal :=
  lanewise (.or f) s noCheck (bitOp f (fun _ a b => a ||| b))
/-- XOR (R179). -/
def execXor (f : RFmt) (s : State) : Host.Outcome State Fault Refusal :=
  lanewise (.xor f) s noCheck (bitOp f (fun _ a b => a ^^^ b))
/-- NOT (R179). -/
def execNot (f : RFmt) (s : State) : Host.Outcome State Fault Refusal :=
  lanewise (.not f) s noCheck (bitOp f (fun n a _ => 2 ^ n - 1 - a))
/-- SHL (R179): 0 when j is n or more. -/
def execShl (f : RFmt) (s : State) : Host.Outcome State Fault Refusal :=
  lanewise (.shl f) s noCheck (shiftOp f (fun n a j => if n ≤ j then 0 else a * 2 ^ j))
/-- SHR (R179): 0 when j is n or more. -/
def execShr (f : RFmt) (s : State) : Host.Outcome State Fault Refusal :=
  lanewise (.shr f) s noCheck (shiftOp f (fun n a j => if n ≤ j then 0 else a / 2 ^ j))
/-- SAR (R179): all sign bits when j is n or more. -/
def execSar (f : RFmt) (s : State) : Host.Outcome State Fault Refusal :=
  lanewise (.sar f) s noCheck (shiftOp f (fun n a j => sarNat n a j))
/-- ROT (R179): left by j mod n. -/
def execRot (f : RFmt) (s : State) : Host.Outcome State Fault Refusal :=
  lanewise (.rot f) s noCheck (shiftOp f (fun n a j => a * 2 ^ (j % n) % 2 ^ n + a / 2 ^ (n - j % n)))

/-- Bit-field extraction (R180): bits p+l-1..p of a, bits from n on being the extension of a under its type. -/
def bfeNat (f : RFmt) (t : Thread) : Nat :=
  let n := intBits f.ty
  let w := (t.reg f.b.toNat).toNat
  let p := bitsOf w 7 0
  let l := bitsOf w 15 8
  let field := wrapBits l (valOf t f.ty f.a.toNat / 2 ^ p)
  if l = 0 then 0 else if isSigned f.ty then wrapBits n (toSigned l field) else field % 2 ^ n

/-- BFE (R180). -/
def execBfe (f : RFmt) (s : State) : Host.Outcome State Fault Refusal :=
  lanewise (.bfe f) s noCheck (fun _ _ t => t.setDest f.ty f.d.toNat (bfeNat f t))

/-- Bit-field insertion (R180). -/
def bfiNat (f : RFmt) (t : Thread) : Nat :=
  let n := intBits f.ty
  let w := (t.reg f.b.toNat).toNat
  let p := bitsOf w 7 0
  let l := bitsOf w 15 8
  let mask := (2 ^ l - 1) * 2 ^ p % 2 ^ n
  let c := rawOf t f.ty f.c.toNat
  (c &&& (2 ^ n - 1 - mask)) ||| (rawOf t f.ty f.a.toNat * 2 ^ p &&& mask)

/-- BFI (R180). -/
def execBfi (f : RFmt) (s : State) : Host.Outcome State Fault Refusal :=
  lanewise (.bfi f) s noCheck (fun _ _ t => t.setDest f.ty f.d.toNat (bfiNat f t))

/-- The number of ones in the low n bits. -/
def popNat (n x : Nat) : Nat := ((List.range n).filter (fun i => x.testBit i)).length
/-- The zeros above the highest one of n bits; n when there is none (R181). -/
def clzNat (n x : Nat) : Nat := if x = 0 then n else n - 1 - Nat.log2 x
/-- Bit i becomes bit n - 1 - i (R181). -/
def revNat (n x : Nat) : Nat :=
  (List.range n).foldl (fun acc i => if x.testBit i then acc + 2 ^ (n - 1 - i) else acc) 0

/-- POPC (R181). -/
def execPopc (f : RFmt) (s : State) : Host.Outcome State Fault Refusal :=
  lanewise (.popc f) s noCheck (fun _ _ t =>
    t.setReg f.d.toNat (BitVec.ofNat 32 (popNat (intBits f.ty) (rawOf t f.ty f.a.toNat))))
/-- CLZ (R181). -/
def execClz (f : RFmt) (s : State) : Host.Outcome State Fault Refusal :=
  lanewise (.clz f) s noCheck (fun _ _ t =>
    t.setReg f.d.toNat (BitVec.ofNat 32 (clzNat (intBits f.ty) (rawOf t f.ty f.a.toNat))))
/-- BREV (R181). -/
def execBrev (f : RFmt) (s : State) : Host.Outcome State Fault Refusal :=
  lanewise (.brev f) s noCheck (bitOp f (fun n a _ => revNat n a))
/-- SEL (R184). -/
def execSel (f : RFmt) (s : State) : Host.Outcome State Fault Refusal :=
  lanewise (.sel f) s noCheck (fun _ _ t =>
    t.setDest f.ty f.d.toNat (if t.reg f.c.toNat != 0 then rawOf t f.ty f.a.toNat else rawOf t f.ty f.b.toNat))

/-- The condition of CMP and SETC (R182). -/
def cmpCond (f : RFmt) (_ : State) (_ : Nat) (t : Thread) : Bool :=
  intCond (bitsOf f.fn.toNat 2 0) (valOf t f.ty f.a.toNat) (valOf t f.ty f.b.toNat)

/-- CMP (R183). -/
def execCmp (f : RFmt) (s : State) : Host.Outcome State Fault Refusal :=
  .next (perform (.cmp f) s noCheck (compareMask f.d.toNat (bitsOf f.fn.toNat 5 4) (cmpCond f)))

/-- CMPI's condition (R183): FN bit 3 makes the comparison unsigned. -/
def cmpiCond (f : IFmt) (_ : State) (_ : Nat) (t : Thread) : Bool :=
  let a := t.reg f.a.toNat
  let b : Word := f.imm.signExtend 32
  if f.fn.getLsbD 3 then intCond (bitsOf f.fn.toNat 2 0) (a.toNat : Int) (b.toNat : Int)
  else intCond (bitsOf f.fn.toNat 2 0) a.toInt b.toInt

/-- CMPI (R183). -/
def execCmpi (f : IFmt) (s : State) : Host.Outcome State Fault Refusal :=
  .next (perform (.cmpi f) s noCheck (compareMask f.d.toNat (bitsOf f.fn.toNat 5 4) (cmpiCond f)))
/-- SETC (R184). -/
def execSetc (f : RFmt) (s : State) : Host.Outcome State Fault Refusal :=
  lanewise (.setc f) s noCheck (fun x tid t => t.setReg f.d.toNat (if cmpCond f x tid t then 1 else 0))

/-- MOV's effect by FN (R185). -/
def movEff (f : RFmt) (s : State) (tids : List Nat) : State :=
  if f.fn == 0 then
    eachThread (fun _ _ t => t.setDest f.ty f.d.toNat (rawOf t f.ty f.a.toNat)) s tids
  else if f.fn == 1 then
    eachThread (fun x _ t => t.setReg f.d.toNat ((x.band x.cur.bid).sreg f.a.toNat)) s tids
  else if f.fn == 2 then writeUniform f.d.toNat (fun x t => (x.thread t).reg f.a.toNat) s tids
  else if f.fn == 3 then writeUniform f.d.toNat (fun x _ => (x.band x.cur.bid).sreg f.a.toNat) s tids
  else eachThread (fun x _ t => t.setReg f.d.toNat (x.readMask x.cur f.a.toNat)) s tids

/-- MOV (R185). -/
def execMov (f : RFmt) (s : State) : Host.Outcome State Fault Refusal :=
  .next (perform (.mov f) s noCheck (movEff f))

/-- MOVI's effect by FN (R186). -/
def moviEff (f : LFmt) (s : State) (tids : List Nat) : State :=
  if f.fn == 0 then eachThread (fun _ _ t => t.setReg f.d.toNat f.imm) s tids
  else if f.fn == 1 then writeUniform f.d.toNat (fun _ _ => f.imm) s tids
  else eachThread (fun _ _ t => t.setReg64 f.d.toNat (f.imm.signExtend 64)) s tids

/-- MOVI (R186). -/
def execMovi (f : LFmt) (s : State) : Host.Outcome State Fault Refusal :=
  .next (perform (.movi f) s noCheck (moviEff f))

/-- MOVH's effect by FN (R186). -/
def movhEff (f : LFmt) (s : State) (tids : List Nat) : State :=
  if f.fn == 0 then eachThread (fun _ _ t => t.setReg (f.d.toNat + 1) f.imm) s tids
  else writeUniform (f.d.toNat + 1) (fun _ _ => f.imm) s tids

/-- MOVH (R186). -/
def execMovh (f : LFmt) (s : State) : Host.Outcome State Fault Refusal :=
  .next (perform (.movh f) s noCheck (movhEff f))

/-- LEA (R187). -/
def execLea (f : RFmt) (s : State) : Host.Outcome State Fault Refusal :=
  lanewise (.lea f) s noCheck (fun _ _ t =>
    let e : DWord := if f.mod.getLsbD 3 then (t.reg f.b.toNat).signExtend 64 else (t.reg f.b.toNat).setWidth 64
    t.setReg64 f.d.toNat (t.reg64 f.a.toNat + (e <<< bitsOf f.mod.toNat 2 0)))

/-- The quotient and remainder of R188: truncated toward zero; MinOf / -1 overflows to MinOf, or MaxOf with SAT. -/
def idivResult (f : RFmt) (a b : Int) : Nat :=
  let n := intBits f.ty
  if f.fn == 0 then
    if isSigned f.ty && a == minOf f.ty && b == -1 then wrapBits n (if f.sat == 1 then maxOf f.ty else minOf f.ty)
    else wrapBits n (Int.tdiv a b)
  else if b == -1 then 0 else wrapBits n (Int.tmod a b)

/-- IDIV (R188): a zero divisor traps 0x0C at issue; the result is delivered late. -/
def execIdiv (f : RFmt) (s : State) : Host.Outcome State Fault Refusal :=
  latewise (.idiv f) s
    (fun x tid => if valOf (x.thread tid) f.ty f.b.toNat == 0 then .trap 0x0C 0 else .pass) f.d.toNat
    (fun _ _ t => destWords f.ty (idivResult f (valOf t f.ty f.a.toNat) (valOf t f.ty f.b.toNat)))

/-- The value of a source of any of the 15 types, as an integer code (R151, R189). -/
def intSrc (t : Thread) (ty : BitVec 4) (r : Nat) : Int :=
  let n := intBits ty
  let x := (if n = 64 then (t.reg64 r).toNat else (t.reg r).toNat) % 2 ^ n
  if isSigned ty then toSigned n x else (x : Int)

/-- An integer result of any integer type, extended to its registers (R189, R195). -/
def intDest (ty : BitVec 4) (x : Int) : Nat :=
  let n := intBits ty
  let v := wrapBits n x
  if n < 32 && isSigned ty then wrapBits 32 (toSigned n v) else v

/-- CVTI (R189). -/
def execCvti (f : RFmt) (s : State) : Host.Outcome State Fault Refusal :=
  lanewise (.cvti f) s noCheck (fun _ _ t =>
    let x := intSrc t (srcTy f) f.a.toNat
    t.setDest f.ty f.d.toNat (intDest f.ty (if f.sat == 1 then clampTo f.ty x else x)))

/-- One result byte of BSWZ (R190). -/
def bswzByte (f : RFmt) (src c i : Nat) : Nat :=
  let q := bitsOf c (3 * i + 2) (3 * i)
  let b := src / 256 ^ q % 256
  if f.mod.getLsbD i then 0 else if f.mod.getLsbD (4 + i) then (if 128 ≤ b then 255 else 0) else b

/-- BSWZ (R190). -/
def execBswz (f : RFmt) (s : State) : Host.Outcome State Fault Refusal :=
  lanewise (.bswz f) s noCheck (fun _ _ t =>
    let src := (t.reg f.b.toNat).toNat * 2 ^ 32 + (t.reg f.a.toNat).toNat
    let c := (t.reg f.c.toNat).toNat
    t.setReg f.d.toNat (BitVec.ofNat 32
      (bswzByte f src c 0 + 256 * bswzByte f src c 1 + 65536 * bswzByte f src c 2 + 16777216 * bswzByte f src c 3)))

end Sys2Proof.Machine
end

