-- ==== Sys2Proof/Machine/Numerics.lean ====
section
/-!
DEFINITION. Number formats and arithmetic (03 R83-R105): exact values of codes, one rounding function for every format
and mode, exact sums and products, and the correctly rounded functions of R96 in integer arithmetic.
-/

namespace Sys2Proof.Machine

/-- A floating format (R83, R86): exponent bits, fraction bits, bias. -/
structure Fmt where
  eb : Nat
  mb : Nat
  bias : Nat
  deriving DecidableEq, Repr

/-- FP32. -/
def fp32 : Fmt := ⟨8, 23, 127⟩
/-- FP16. -/
def fp16 : Fmt := ⟨5, 10, 15⟩
/-- BF16. -/
def bf16 : Fmt := ⟨8, 7, 127⟩
/-- E4M3. -/
def e4m3 : Fmt := ⟨4, 3, 7⟩
/-- E5M2. -/
def e5m2 : Fmt := ⟨5, 2, 15⟩
/-- E2M1. -/
def e2m1 : Fmt := ⟨2, 1, 1⟩

/-- Bits of a code. -/
def Fmt.bits (f : Fmt) : Nat := 1 + f.eb + f.mb
/-- The magnitude code of an infinity; the largest magnitude plus one where the format has none (R83, R86). -/
def Fmt.infCode (f : Fmt) : Nat := if f = e4m3 then 0x7F else if f = e2m1 then 8 else (2 ^ f.eb - 1) * 2 ^ f.mb
/-- The magnitude code of the largest finite value (R83, R86). -/
def Fmt.maxCode (f : Fmt) : Nat := if f = e4m3 then 0x7E else if f = e2m1 then 7 else (2 ^ f.eb - 1) * 2 ^ f.mb - 1
/-- The canonical NaN (R84); E2M1 has none and takes +0 (R92). -/
def Fmt.nanCode (f : Fmt) : Nat :=
  if f = e4m3 then 0x7F else if f = e2m1 then 0 else if f = e5m2 then 0x7E
  else (2 ^ f.eb - 1) * 2 ^ f.mb + 2 ^ (f.mb - 1)
/-- The exponent of the last place of a subnormal. -/
def Fmt.emin (f : Fmt) : Int := 1 - (f.bias : Int) - f.mb

/-- The floating format of a type code 8 to 13 (R151). -/
def fmtOf (ty : BitVec 4) : Fmt :=
  match ty.toNat with
  | 8 => fp32
  | 9 => fp16
  | 10 => bf16
  | 11 => e4m3
  | 12 => e5m2
  | _ => e2m1

/-- A value: NaN, an infinity, or (-1)^neg * m * 2^e; `st` says that the exact magnitude lies strictly between m and m + 1
units. -/
inductive Num where
  | nan
  | inf (neg : Bool)
  | fin (neg : Bool) (m : Nat) (e : Int) (st : Bool)
  deriving DecidableEq, Repr

/-- The value of a code (R83, R86, R87). -/
def Fmt.decode (f : Fmt) (code : Nat) : Num :=
  let c := code % 2 ^ f.bits
  let neg := c.testBit (f.eb + f.mb)
  let mag := c % 2 ^ (f.eb + f.mb)
  let ex := mag / 2 ^ f.mb
  let fr := mag % 2 ^ f.mb
  if f = e4m3 then
    if mag = 0x7F then .nan
    else if ex = 0 then .fin neg fr f.emin false else .fin neg (2 ^ f.mb + fr) (f.emin + (ex - 1 : Nat)) false
  else if f = e2m1 then
    if ex = 0 then .fin neg fr f.emin false else .fin neg (2 ^ f.mb + fr) (f.emin + (ex - 1 : Nat)) false
  else if ex = 2 ^ f.eb - 1 then (if fr = 0 then .inf neg else .nan)
  else if ex = 0 then .fin neg fr f.emin false
  else .fin neg (2 ^ f.mb + fr) (f.emin + (ex - 1 : Nat)) false

/-- m * 2^k, rounded down when k is negative. -/
def scale (m : Nat) (k : Int) : Nat := if 0 ≤ k then m * 2 ^ k.toNat else m / 2 ^ (-k).toNat

/-- Rounds up by one unit (R90): mode, sign, odd last bit, remainder against half (0 none, 1 below, 2 tie, 3 above). -/
def roundsUp (rm : Nat) (neg odd : Bool) (rem : Nat) : Bool :=
  match rm with
  | 0 => rem == 3 || (rem == 2 && odd)
  | 1 => false
  | 2 => neg && rem != 0
  | _ => !neg && rem != 0

/-- The whole units of 2^q in m * 2^e and what remains, against half a unit. -/
def splitAt (m : Nat) (e q : Int) (st : Bool) : Nat × Nat :=
  if q ≤ e then (m * 2 ^ (e - q).toNat, if st then 1 else 0)
  else
    let k := (q - e).toNat
    let r := m % 2 ^ k
    let half := 2 ^ (k - 1)
    (m / 2 ^ k, if r = 0 then (if st then 1 else 0) else if r < half then 1 else if r = half then (if st then 3 else 2) else 3)

/-- Puts a sign on a magnitude code. -/
def Fmt.signed (f : Fmt) (neg : Bool) (mag : Nat) : Nat := if neg then mag + 2 ^ (f.eb + f.mb) else mag

/-- The overflowing result (R91, R92). -/
def Fmt.overflow (f : Fmt) (rm : Nat) (sat neg : Bool) : Nat :=
  let toInf := rm == 0 || (rm == 2 && neg) || (rm == 3 && !neg)
  if sat || !toInf then f.signed neg f.maxCode
  else if f = e4m3 then f.nanCode else f.signed neg f.infCode

/-- Rounds a value into a format (R91, R92); with `ftz`, a nonzero magnitude below 2^-126 becomes a zero of its sign (R95). -/
def Fmt.round (f : Fmt) (rm : Nat) (sat ftz : Bool) (x : Num) : Nat :=
  match x with
  | .nan => f.nanCode
  | .inf neg => if sat then f.signed neg f.maxCode else if f = e4m3 then f.nanCode else f.signed neg f.infCode
  | .fin neg m e st =>
    if m = 0 ∧ !st then f.signed neg 0
    else
      let top := (Nat.log2 m : Int) + e
      if ftz && decide (top < -126) then f.signed neg 0
      else
        let q := if m = 0 then f.emin else max (top - f.mb) f.emin
        let (n, rem) := splitAt m e q st
        let n := if roundsUp rm neg (n % 2 == 1) rem then n + 1 else n
        let code := (q - f.emin).toNat * 2 ^ f.mb + n
        if f.maxCode < code then f.overflow rm sat neg else f.signed neg code

/-- The negate and absolute-value modifiers (R84, R191): absolute value first, on the sign bit alone. -/
def modify (bits code : Nat) (neg abs : Bool) : Nat :=
  let c := if abs then code % 2 ^ (bits - 1) else code % 2 ^ bits
  if neg then (c + 2 ^ (bits - 1)) % 2 ^ bits else c

/-- A subnormal source is a zero of its sign under FTZ (R95). -/
def Fmt.flush (f : Fmt) (ftz : Bool) (code : Nat) : Nat :=
  if ftz && code / 2 ^ f.mb % 2 ^ f.eb == 0 then code / 2 ^ (f.eb + f.mb) * 2 ^ (f.eb + f.mb) else code

/-- Sign of a value. -/
def Num.neg : Num → Bool
  | .nan => false
  | .inf n => n
  | .fin n _ _ _ => n
/-- A zero. -/
def Num.isZero : Num → Bool
  | .fin _ 0 _ false => true
  | _ => false
/-- A NaN. -/
def Num.isNan : Num → Bool
  | .nan => true
  | _ => false
/-- An infinity. -/
def Num.isInf : Num → Bool
  | .inf _ => true
  | _ => false
/-- The other sign. -/
def Num.negate : Num → Num
  | .nan => .nan
  | .inf n => .inf (!n)
  | .fin n m e st => .fin (!n) m e st

/-- An exact product (R97, R98): infinity times zero is NaN. -/
def Num.mul (a b : Num) : Num :=
  match a, b with
  | .fin n m e _, .fin k p q _ => .fin (n != k) (m * p) (e + q) false
  | _, _ => if a.isNan || b.isNan || a.isZero || b.isZero then .nan else .inf (a.neg != b.neg)

/-- The exponent of a finite value. -/
def Num.expo : Num → Int
  | .fin _ _ e _ => e
  | _ => 0

/-- A finite value in units of 2^e. -/
def Num.units (x : Num) (e : Int) : Int :=
  match x with
  | .fin n m k _ => if n then -((m * 2 ^ (k - e).toNat : Nat) : Int) else ((m * 2 ^ (k - e).toNat : Nat) : Int)
  | _ => 0

/-- An exact sum (R91, R98): the sign of a zero sum is that of its terms where they agree, else negative only toward -inf. -/
def sumNums (rm : Nat) (xs : List Num) : Num :=
  if xs.any Num.isNan then .nan
  else if xs.any (fun x => x.isInf && x.neg) && xs.any (fun x => x.isInf && !x.neg) then .nan
  else match xs.find? Num.isInf with
    | some x => x
    | none =>
      let e : Int := xs.foldl (fun (m : Int) x => min m x.expo) ((xs.map Num.expo).headD 0)
      let t : Int := xs.foldl (fun (acc : Int) x => acc + x.units e) 0
      if t = 0 then
        if xs.all (fun x => x.isZero && x.neg) then .fin true 0 0 false
        else if xs.all (fun x => x.isZero && !x.neg) then .fin false 0 0 false
        else .fin (rm == 2) 0 0 false
      else .fin (decide (t < 0)) t.natAbs e false

/-- Compares two numbers that are no NaNs: less, equal, greater as -1, 0, 1; -0 equals +0. -/
def Num.cmp (a b : Num) : Int :=
  let rank := fun (x : Num) => match x with | .inf n => if n then (-1 : Int) else 1 | _ => 0
  if rank a != rank b then (if rank a < rank b then -1 else 1)
  else if rank a != 0 then 0
  else
    let e := min a.expo b.expo
    let x := a.units e
    let y := b.units e
    if x < y then -1 else if x = y then 0 else 1

/-! ## Functions of one value (R96) -/

/-- The integer square root by bits, from 2^k down. -/
def isqrtFrom : Nat → Nat → Nat → Nat
  | 0, n, r => if (r + 1) * (r + 1) ≤ n then r + 1 else r
  | k + 1, n, r => isqrtFrom k n (if (r + 2 ^ (k + 1)) * (r + 2 ^ (k + 1)) ≤ n then r + 2 ^ (k + 1) else r)
/-- The integer square root. -/
def isqrt (n : Nat) : Nat := isqrtFrom (Nat.log2 n / 2 + 1) n 0

/-- 1 / x with enough bits to round once. -/
def Num.recip (x : Num) : Num :=
  match x with
  | .nan => .nan
  | .inf n => .fin n 0 0 false
  | .fin n m e _ =>
    if m = 0 then .inf n
    else
      let k := Nat.log2 m + 64
      .fin n (2 ^ k / m) (-(k : Int) - e) (2 ^ k % m != 0)

/-- Square root. -/
def Num.sqrt (x : Num) : Num :=
  match x with
  | .nan => .nan
  | .inf n => if n then .nan else .inf false
  | .fin n m e _ =>
    if m = 0 then .fin n 0 0 false
    else if n then .nan
    else
      let k : Nat := if e % 2 = 0 then 128 else 129
      let y := m * 2 ^ k
      let r := isqrt y
      .fin false r ((e - k) / 2) (r * r != y)

/-- 1 / sqrt(x). -/
def Num.rsqrt (x : Num) : Num :=
  match x with
  | .nan => .nan
  | .inf n => if n then .nan else .fin false 0 0 false
  | .fin n m e _ =>
    if m = 0 then .inf n
    else if n then .nan
    else
      let k : Nat := 2 * Nat.log2 m + (if e % 2 = 0 then 256 else 257)
      let y := 2 ^ k / m
      let r := isqrt y
      .fin false r ((-(k : Int) - e) / 2) (2 ^ k % m != 0 || r * r != y)

/-- Fraction bits of the fixed-point functions. -/
def fixBits : Nat := 640
/-- ln 2 in units of 2^-640, rounded down. -/
def ln2Fix : Nat := 0xb17217f7d1cf79abc9e3b39803f2f6af40f343267298b62d8a0d175b8baafa2be7b876206debac98559552fb4afa1b10ed2eae35c138214427573b291169b8253e96ca16224ae8c51acbda11317c387e
/-- Half of pi in units of 2^-640, rounded down. -/
def halfPiFix : Nat := 0x1921fb54442d18469898cc51701b839a252049c1114cf98e804177d4c76273644a29410f31c6809bbdf2a33679a748636605614dbe4be286e9fc26adadaa3848bc90b6aecc4bcfd8de89885d34c6fdad6

/-- exp of a fixed-point x below 1, in units of 2^-640: the power series. -/
def expFix (x : Nat) : Nat :=
  ((List.range 130).foldl (fun (acc : Nat × Nat) k => let t := acc.2 * x / ((k + 1) * 2 ^ fixBits); (acc.1 + t, t))
    (2 ^ fixBits, 2 ^ fixBits)).1

/-- ln of t in [1, 2), both in units of 2^-640: twice the inverse hyperbolic tangent of (t - 1) / (t + 1). -/
def lnFix (t : Nat) : Nat :=
  let z := (t - 2 ^ fixBits) * 2 ^ fixBits / (t + 2 ^ fixBits)
  let z2 := z * z / 2 ^ fixBits
  2 * ((List.range 220).foldl (fun (acc : Nat × Nat) k => (acc.1 + acc.2 / (2 * k + 1), acc.2 * z2 / 2 ^ fixBits)) (0, z)).1

/-- An alternating series sum of x^(2k+p) / (2k+p)!, from its first term. -/
def altSeries (first x p : Nat) : Nat :=
  let x2 := x * x / 2 ^ fixBits
  ((List.range 80).foldl (fun (acc : Int × Nat) k =>
    ((if k % 2 = 0 then acc.1 + (acc.2 : Int) else acc.1 - (acc.2 : Int)),
     acc.2 * x2 / ((2 * k + p + 1) * (2 * k + p + 2) * 2 ^ fixBits))) ((0 : Int), first)).1.toNat

/-- sin and cos of a fixed-point x below half of pi. -/
def sinFix (x : Nat) : Nat := altSeries x x 1
/-- See sinFix. -/
def cosFix (x : Nat) : Nat := altSeries (2 ^ fixBits) x 0

/-- A finite magnitude in units of 2^-640. -/
def toFix (m : Nat) (e : Int) : Nat := scale m (e + fixBits)

/-- 2^x (R96): exact for integers, else by the series. -/
def Num.exp2 (x : Num) : Num :=
  match x with
  | .nan => .nan
  | .inf n => if n then .fin false 0 0 false else .inf false
  | .fin n m e _ =>
    let a := toFix m e
    let big := 2 ^ (fixBits + 10)
    if big ≤ a then (if n then .fin false 1 (-1024) false else .fin false 1 1024 false)
    else
      let k := a / 2 ^ fixBits
      let f := a % 2 ^ fixBits
      if f = 0 then .fin false 1 (if n then -(k : Int) else k) false
      else
        let frac := if n then 2 ^ fixBits - f else f
        let ip : Int := if n then -(k : Int) - 1 else k
        .fin false (expFix (frac * ln2Fix / 2 ^ fixBits)) (ip - fixBits) true

/-- log2 x (R96): exact for powers of two. -/
def Num.log2 (x : Num) : Num :=
  match x with
  | .nan => .nan
  | .inf n => if n then .nan else .inf false
  | .fin n m e _ =>
    if m = 0 then .inf true
    else if n then .nan
    else
      let l := Nat.log2 m
      let ip : Int := (l : Int) + e
      if m = 2 ^ l then (if ip = 0 then .fin false 0 0 false else .fin (decide (ip < 0)) ip.natAbs 0 false)
      else
        let t := scale m ((fixBits : Int) - l)
        let v : Int := ip * (2 ^ fixBits : Nat) + ((lnFix t * 2 ^ fixBits / ln2Fix : Nat) : Int)
        .fin (decide (v < 0)) v.natAbs (-(fixBits : Int)) true

/-- sin x (cosine = false) or cos x (R96): the argument is reduced by half of pi in exact integers. -/
def Num.trig (cosine : Bool) (x : Num) : Num :=
  match x with
  | .nan => .nan
  | .inf _ => .nan
  | .fin n m e _ =>
    if m = 0 then (if cosine then .fin false 1 0 false else .fin n 0 0 false)
    else
      let a := toFix m e
      let q := a / halfPiFix
      let r := a % halfPiFix
      let quad := (if cosine then q + 1 else q) % 4
      let v := if quad % 2 = 0 then sinFix r else cosFix r
      .fin ((decide (2 ≤ quad)) != (n && !cosine)) v (-(fixBits : Int)) true

/-- tanh x (R96). -/
def Num.tanh (x : Num) : Num :=
  match x with
  | .nan => .nan
  | .inf n => .fin n 1 0 false
  | .fin n m e _ =>
    if m = 0 then .fin n 0 0 false
    else
      let a := toFix m e
      if 32 * 2 ^ fixBits ≤ a then .fin n (2 ^ fixBits - 1) (-(fixBits : Int)) true
      else
        let y := 2 * a
        let k := y / ln2Fix
        let ex := expFix (y % ln2Fix) * 2 ^ k
        .fin n ((ex - 2 ^ fixBits) * 2 ^ fixBits / (ex + 2 ^ fixBits)) (-(fixBits : Int)) true

/-- The integral value of x in a rounding mode, with the sign of x (R192). -/
def Num.toIntegral (rm : Nat) (x : Num) : Num :=
  match x with
  | .fin n m e st =>
    let (v, rem) := splitAt m e 0 st
    .fin n (if roundsUp rm n (v % 2 == 1) rem then v + 1 else v) 0 false
  | y => y

/-- The integer of an integral value. -/
def Num.toInt (x : Num) : Int :=
  match x with
  | .fin n m e _ => if n then -(scale m e : Int) else (scale m e : Int)
  | _ => 0

/-- floor(log2 of the magnitude) of a nonzero finite value. -/
def Num.ilog (x : Num) : Int :=
  match x with
  | .fin _ m e _ => (Nat.log2 m : Int) + e
  | _ => 0

/-- An integer as a value. -/
def ofInt (x : Int) : Num := .fin (decide (x < 0)) x.natAbs 0 false

/-- An E8M0 code as a value (R88). -/
def e8m0Num (c : Nat) : Num := if c % 256 = 255 then .nan else .fin false 1 ((c % 256 : Nat) - 127) false

/-- The E8M0 code of a value (R195). -/
def e8m0Code (x : Num) : Nat :=
  match x with
  | .nan => 0xFF
  | .inf _ => 0xFF
  | .fin _ m _ _ => if m = 0 then 0 else (max 0 (min 254 (x.ilog + 127))).toNat

/-- Multiplies a value by 2^k. -/
def Num.shift (x : Num) (k : Int) : Num :=
  match x with
  | .fin n m e st => .fin n m (e + k) st
  | y => y

/-! ## Block sums (R97-R101) -/

/-- One FP32 addition, to nearest even, subnormals kept (R97 step 5). -/
def fadd32 (a b : Nat) : Nat := fp32.round 0 false false (sumNums 0 [fp32.decode a, fp32.decode b])

/-- One k-step's contribution (R97 steps 1-4, R98): exact products, one exact sum, one rounding, the scales. -/
def blockSum (prods : List Num) (scales : Option (Nat × Nat)) : Nat :=
  let bad := match scales with | some (a, b) => a == 255 || b == 255 | none => false
  if bad then fp32.nanCode
  else
    let s := sumNums 0 prods
    let s := if s.isZero then .fin false 0 0 false else s
    let f := fp32.round 0 false false s
    match scales with
    | none => f
    | some (a, b) => fp32.round 0 false false ((fp32.decode f).shift ((a : Int) + b - 254))

/-- The value of one element of an MX format or of a 16-bit format, by the code used in formats: 0 E4M3, 1 E5M2,
2 E2M1, 3 INT8, 4 BF16, 5 FP16 (R86, R89). -/
def elemNum (kind code : Nat) : Num :=
  match kind with
  | 0 => e4m3.decode code
  | 1 => e5m2.decode code
  | 2 => e2m1.decode code
  | 3 => (ofInt (toSigned 8 code)).shift (-6)
  | 4 => bf16.decode code
  | _ => fp16.decode code

/-- The conversion of up to 32 FP32 values into one MX block (R94): the scale and the element codes; kind as in elemNum. -/
def toBlock (kind : Nat) (xs : List Num) : Nat × List Nat :=
  if xs.any (fun x => x.isNan || x.isInf) then (255, xs.map (fun _ => 0))
  else
    let logs := (xs.filter (fun x => !x.isZero)).map Num.ilog
    match logs with
    | [] => (127, xs.map (fun _ => 0))
    | l :: ls =>
      let m := ls.foldl max l
      let emax : Int := match kind with | 0 => 8 | 1 => 15 | 2 => 2 | _ => 0
      let x := max (-127) (min 127 (m - emax))
      let el := fun (v : Num) =>
        match kind with
        | 0 => e4m3.round 0 true false (v.shift (-x))
        | 1 => e5m2.round 0 true false (v.shift (-x))
        | 2 => e2m1.round 0 true false (v.shift (-x))
        | _ => wrapBits 8 (max (-128) (min 127 ((v.shift (6 - x)).toIntegral 0).toInt))
      ((x + 127).toNat, xs.map el)

/-! ## 2:4 selection (R104, R105) -/

/-- Magnitude order of R104: NaN above every number, zeros equal. -/
def magLess (a b : Num) : Bool :=
  if a.isNan then false
  else if b.isNan then true
  else
    let abs := fun (x : Num) => if x.neg then x.negate else x
    (abs a).cmp (abs b) == -1

/-- The first index among some whose magnitude no other of them exceeds (R104). -/
def argMax (xs : List Num) (idx : List Nat) : Nat :=
  idx.foldl (fun best i => if magLess ((xs[best]?).getD .nan) ((xs[i]?).getD .nan) then i else best) (idx.headD 0)

/-- The two indices kept of a group of four, rising (R104). -/
def keepTwo (xs : List Num) : Nat × Nat :=
  let a := argMax xs [0, 1, 2, 3]
  let b := argMax xs ([0, 1, 2, 3].filter (· != a))
  (Nat.min a b, Nat.max a b)

end Sys2Proof.Machine
end

