-- ==== Sys2Proof/Machine/Requests.lean ====
section
/-!
DEFINITION. Memory requests (04 R106-R142, 07 R218-R238): the operand of an access, its checks, the request it puts in
flight, which requests another one waits for (R120), and what a request does at its memory point.
-/

namespace Sys2Proof.Machine

/-! ## Operands (R218) -/

/-- The access size of an M-format word (R152). -/
def sizeOf (f : MFmt) : Nat := 2 ^ f.sz.toNat

/-- The immediate of an operand: SignExtend(OFF16) * size, or 0 where the entry gives OFF16 another use. -/
def immOf (f : MFmt) (imm : Bool) : DWord :=
  if imm then f.off.signExtend 64 * BitVec.ofNat 64 (sizeOf f) else 0

/-- The 32-bit address of an operand outside the global space. -/
def spaceAddr (t : Thread) (f : MFmt) (imm : Bool) : Nat :=
  (t.reg f.a.toNat + (if f.b == 63 then 0 else t.reg f.b.toNat) + (immOf f imm).setWidth 32).toNat

/-- The offset of a global operand within its handle. -/
def globalOff (t : Thread) (f : MFmt) (imm : Bool) : DWord :=
  (if f.b == 63 then 0 else t.reg64 f.b.toNat) + immOf f imm

/-- The page of a handle holds the n bytes from a virtual address on. -/
def inPage (h : Handle) (ea n : Nat) : Bool :=
  let lo := pageBase h.leaf h.base.toNat
  lo ≤ ea && ea + n ≤ lo + pageBytes h.leaf.size

/-- One thread's access: its place, byte addresses, virtual address for TVAL, the dies of a replicated page, whether the
L1 may serve it, the TLB entry of its handle (R350), the cause of an error reply known at issue, and whether the cluster space names it. -/
structure Access where
  place : Place := .phys
  addrs : List Nat := []
  va : Nat := 0
  reps : List Nat := []
  cached : Bool := false
  asid : Nat := 0
  tlb : Nat := 0
  err : Option Nat := none
  net : Bool := false
  deriving DecidableEq, Repr

/-- Bytes of a global page behind a handle, seen from a unit (R111, R140). -/
def State.globalBytes (s : State) (h : Handle) (u ea n : Nat) : Access :=
  let pa := h.leaf.near u ea
  { place := .phys, addrs := runOf ((s.extend pa).getD pa) n, va := ea,
    reps := if h.leaf.reps.isEmpty then [] else h.leaf.dies, cached := h.leaf.c && !isMgmt u, asid := h.asid, tlb := h.tlb,
    err := if (s.extend pa).isSome then none else some 0x0F }

/-- The live team of the same launch at a position of a cluster, when one is resident there (R109); of a cluster group
the group's own (R242). Where several are, the specification does not say which (log 11). -/
def State.teamAt (s : State) (k pos : Nat) : Option Nat :=
  let t := s.team k
  match t.place with
  | .resident u =>
    let v := u / 8 * 8 + pos
    if v = u then some k
    else
      let g := (s.launch t.lid).desc.cgroup
      let cands := (s.teams.filter (fun p => p.2.place == .resident v && p.2.lid == t.lid &&
        (g ≤ 1 || p.2.index / g == t.index / g))).map (·.1)
      cands[Config.clusterTeam cands % cands.length]?
  | _ => none

/-- What answers a request to the core region of a die that is not online: an error reply, whoever sent it (R414, R223, R428). -/
def State.offError (s : State) (d : Nat) : Option Nat := if (s.die d).st == .online then none else some 0x0F

/-- The staging partition of a slice that holds an offset (R391). -/
def State.partition (s : State) (d sl off : Nat) : Option Partition :=
  (sget [] s.parts (64 * d + sl)).find? (fun p => p.off ≤ off && off < p.off + p.size)

/-- Bytes outside the global space that lie within their bound (R107-R110): none beyond it. -/
def State.spaceBytes (s : State) (tid sp addr n : Nat) : Option Access :=
  let k := s.teamOf tid
  match sp with
  | 1 => if addr + n ≤ (s.team k).alloc then some { place := .scratch (s.team k).aid, addrs := runOf addr n, va := addr } else none
  | 2 =>
    if addr / 2 ^ 24 ≠ 0 then none
    else match s.teamAt k (bitsOf addr 23 21) with
      | none => none
      | some j =>
        if addr % 2 ^ 21 + n ≤ (s.team j).alloc then
          some { place := .scratch (s.team j).aid, addrs := runOf (addr % 2 ^ 21) n, va := addr,
                 err := s.offError (dieOf (unitOf tid)), net := true }
        else none
  | 3 =>
    let d := bitsOf addr 30 28
    let sl := bitsOf addr 27 22
    let off := addr % 2 ^ 22
    if addr / 2 ^ 31 ≠ 0 then none
    else if (s.offError d).isSome then some { place := .staging d sl, addrs := runOf off n, va := addr, err := s.offError d }
    else match s.partition d sl off with
      | some p => if off + n ≤ p.off + p.size ∨ (s.partition d sl (off + n - 1)).isSome then
          some { place := .staging d sl, addrs := runOf off n, va := addr } else none
      | none => none
  | _ => none

/-- The bytes of a private access (R108), all within the private size. -/
def State.privBytes (s : State) (tid addr n : Nat) : Access :=
  let xs := (runOf addr n).map (fun a =>
    let va := s.privVa tid a
    match s.privLeaf tid a with
    | some l => (s.extend (l.near (unitOf tid) va)).getD 0
    | none => 0)
  { place := .phys, addrs := xs, va := addr, cached := !isMgmt (unitOf tid), asid := s.asidOf tid }

/-- Every word of a private range has a mapping with a permission. -/
def State.privOk (s : State) (tid addr n : Nat) (w : Bool) : Bool :=
  (runOf addr n).all (fun a => match s.privLeaf tid a with
    | some l => (if w then l.w else l.r) && (s.extend (l.near (unitOf tid) (s.privVa tid a))).isSome
    | none => false)

/-- The access of an M-format word for a thread, once its checks pass. -/
def State.access (s : State) (tid : Nat) (f : MFmt) (imm : Bool) : Access :=
  let t := s.thread tid
  let n := sizeOf f
  if f.sp == 4 then
    let h := t.hdl f.a.toNat
    s.globalBytes h (unitOf tid) (h.base + globalOff t f imm).toNat n
  else if f.sp == 0 then s.privBytes tid (spaceAddr t f imm) n
  else (s.spaceBytes tid f.sp.toNat (spaceAddr t f imm) n).getD {}

/-- Check 1 of R219: what a handle's state does to an access through it (R213). -/
def handleCheck (h : Handle) (idx : Nat) : Check :=
  match h.st with
  | .invalid => .trap 0x05 (BitVec.ofNat 64 idx)
  | .pending => .wait
  | .valid => .pass
  | .faulted => .trap 0x07 h.base
  | .revoked => .trap 0x06 h.base

/-- Checks 2 to 5 of R219 on a global range. -/
def globalCheck (h : Handle) (ea : DWord) (n : Nat) (r w noReps : Bool) : Check :=
  firstTrap [(ea.toNat % n != 0, 0x04, ea), (!inPage h ea.toNat n, 0x05, ea),
    ((r && !h.leaf.r) || (w && !h.leaf.w), 0x08, ea), (noReps && !h.leaf.reps.isEmpty, 0x09, ea)]

/-- The checks of R219 for a thread. -/
def State.memCheck (s : State) (tid : Nat) (f : MFmt) (imm r w noReps : Bool) : Check :=
  let t := s.thread tid
  let n := sizeOf f
  if f.sp == 4 then
    let h := t.hdl f.a.toNat
    (handleCheck h f.a.toNat).andThen (globalCheck h (h.base + globalOff t f imm) n r w noReps)
  else
    let a := spaceAddr t f imm
    let v := BitVec.ofNat 64 a
    if f.sp == 0 then
      firstTrap [(a % n != 0, 0x04, v), (!decide (a + n ≤ (s.band (bandOf tid)).psize), 0x05, v),
        (r && !s.privOk tid a n false, 0x08, v), (w && !s.privOk tid a n true, 0x08, v)]
    else firstTrap [(a % n != 0, 0x04, v), ((s.spaceBytes tid f.sp.toNat a n).isNone, 0x05, v)]

/-- An access acquires, releases (R119). -/
def acqOf (f : MFmt) : Bool := f.ord.getLsbD 0
/-- See acqOf. -/
def relOf (f : MFmt) : Bool := f.ord.getLsbD 1

/-- The deferred store error that falls due at a word on some streams (R221). -/
def State.storeError (s : State) (tid : Nat) (covers : Nat → Bool) : Check :=
  match (s.thread tid).serr with
  | some e => if covers e.st then .storeError e.cause (BitVec.ofNat 64 e.addr) else .pass
  | none => .pass

/-- The deferred store error of a release on the word's stream. -/
def State.releaseError (s : State) (tid : Nat) (f : MFmt) : Check :=
  if relOf f then s.storeError tid (· == f.st.toNat) else .pass

/-! ## Requests in flight -/

/-- The end of the network that an address of a place lies at (R116): a home slice or the fallback home agent, a unit, a slice; none for
another package, whose traffic leaves through the optical die (log 81). -/
def State.endAt (s : State) (pl : Place) (a : Nat) : Option Nat :=
  match pl with
  | .phys => if 2 ^ 60 ≤ a then none else if s.atAgent a then some settEnd else some (sliceEnd (homeDie a) (homeSlice a))
  | .staging d sl => some (sliceEnd d sl)
  | .scratch aid => match s.teamWith aid with
    | some k => match (s.team k).place with
      | .resident u => some u
      | _ => none
    | none => none

/-- The reads or writes of an engine of an end pass straight through to the ends of some addresses and back (R408, R410, R412; log 81). -/
def State.reaches (s : State) (e : Nat) (pl : Place) (addrs : List Nat) : Bool :=
  (distinct (addrs.filterMap (s.endAt pl))).all (s.roundTrip e)

/-- A request's packet goes from an end to a memory point of it (R408); `die` names a multicast's replica. -/
def State.sendReq (s : State) (r : Req) (src die : Nat) : State :=
  match s.endAt r.place (r.point die) with
  | some e => s.sendPacket .req r.id src e
  | none => s

/-- Puts a request in flight, last in the issue order. -/
def State.addReq (s : State) (r : Req) : State :=
  let tid := (r.parts.head?.map (·.tid)).getD 0
  let r := { r with id := s.fresh, seq := s.fresh, asid := s.asidOf tid, team := s.teamOf tid }
  ({ s with fresh := s.fresh + 1, reqs := s.reqs ++ [r] }).sendReq r r.u 0

/-- Changes a request. -/
def State.onReq (s : State) (id : Nat) (f : Req → Req) : State :=
  { s with reqs := s.reqs.map (fun r => if r.id = id then f r else r) }

/-- A request. -/
def State.req? (s : State) (id : Nat) : Option Req := s.reqs.find? (fun r => r.id == id)

/-- The bytes of a thread's part that are still to be performed. -/
def Req.bytesOf (r : Req) (tid : Nat) : List Nat :=
  let own := (r.parts.filter (fun p => p.tid == tid)).flatMap (·.addrs)
  match r.kind with
  | .multi reps => reps.flatMap (fun d => own.map (onStackOf · d))
  | _ => own

/-- Every byte that a request reaches: a multicast's at each of its replicas. -/
def Req.everyByte (q : Req) : List Nat :=
  let own := q.parts.flatMap (·.addrs)
  if q.dies.isEmpty then own else q.dies.flatMap (fun d => own.map (onStackOf · d))

/-- A store of global memory touches a line. -/
def Req.storesLine (q : Req) (line : Nat) : Bool := q.isStore && q.place == .phys && q.everyByte.any (fun a => lineOf a == line)

/-- An earlier request q of a thread holds back its later request r (R118, R120, R122). -/
def Req.before (q r : Req) (tid : Nat) : Bool :=
  let mine := r.bytesOf tid
  let bytes := !q.performed && q.place == r.place && (q.bytesOf tid).any (fun a => mine.contains a)
  let rel := r.rel && q.st == r.st && q.holds r.scope
  let acq := q.acq && q.st == r.st && !q.performed
  let ldv := match q.kind with
    | .ldv _ _ => !q.performed && r.place == .phys && mine.any (fun a => lineOf a == lineOf q.first)
    | _ => false
  bytes || rel || acq || ldv

/-- A load that missed waits for the core's earlier unacknowledged stores to its lines (R112). -/
def State.behindStores (s : State) (r : Req) : Bool :=
  r.l1 && s.reqs.any (fun q => q.seq < r.seq && q.u == r.u && r.parts.any (fun o => o.addrs.any (fun b => q.storesLine (lineOf b))))

/-- An L1 hit has given a thread of the request the bytes of another thread's store that is not yet performed: the thread's later accesses to
bytes of that store follow it in coherence order (R118). -/
def State.behindSeen (s : State) (r : Req) : Bool :=
  r.place == .phys && r.parts.any (fun p => (s.thread p.tid).seen.any (fun x => decide (x.2 < r.seq) &&
    s.reqs.any (fun q => q.id == x.1 && !q.performed && (r.bytesOf p.tid).any (fun a => q.everyByte.contains a))))

/-- A request may not be performed yet. -/
def State.blocked (s : State) (r : Req) : Bool :=
  s.behindStores r || s.behindSeen r ||
  s.reqs.any (fun q => q.seq < r.seq && r.parts.any (fun p => q.of p.tid && q.before r p.tid))

/-- Every earlier access of a thread on some streams meets R122 at a scope. -/
def State.meets (s : State) (tid : Nat) (covers : Nat → Bool) (scope : Nat) : Bool :=
  s.reqs.all (fun q => !(q.of tid && covers q.st && q.holds scope))

/-- Every earlier read of a thread on some streams has been performed, those of its atomics among them (R120, R126). -/
def State.readsDone (s : State) (tid : Nat) (covers : Nat → Bool) : Bool :=
  s.reqs.all (fun q => !(q.of tid && covers q.st && q.reads && !q.performed))

/-! ## L1 (R112, R113, R117) -/

/-- The L1 of a unit holds all of some bytes. -/
def State.l1Has (s : State) (u : Nat) (addrs : List Nat) : Bool :=
  addrs.all (fun a => (find? a (s.core u).l1).isSome)

/-- The 16-byte sectors of some bytes, as addresses. -/
def sectorsOf (addrs : List Nat) : List Nat := distinct (addrs.map (· / 16))

/-- Lines that the L1 of a shader core (128 KiB), or a tile's data cache (16 KiB), holds (R112, R43). -/
def l1Lines (u : Nat) : Nat := if isShader u then 1024 else 128

/-- An L1 that holds more lines than it has room for gives up the lowest ones but those just filled: which ones leave is not
architected (log 24). -/
def Core.l1Trim (c : Core) (u : Nat) (keep : List Nat) : Core :=
  let lines := distinct (c.l1.map (fun p => lineOf p.1))
  let out := (lines.filter (fun l => !keep.contains l)).take (lines.length - l1Lines u)
  { c with l1 := c.l1.filter (fun p => !out.contains (lineOf p.1)) }

/-- Fills the sectors of some bytes into a unit's L1. -/
def State.l1Fill (s : State) (u : Nat) (addrs : List Nat) : State :=
  let s := forEach (sectorsOf addrs) s (fun s k =>
    forEach (runOf (16 * k) 16) s (fun s a => s.onCore u (fun c => { c with l1 := sput a (Memory.read s.mem a) c.l1 })))
  s.onCore u (fun c => c.l1Trim u (distinct (addrs.map lineOf)))

/-- A store updates the bytes that the L1 of its core holds (R112). -/
def State.l1Store (s : State) (u : Nat) (bs : List (Nat × Byte)) : State :=
  forEach bs s (fun s p => s.onCore u (fun c => { c with l1 := smod p.1 (fun _ => p.2) c.l1 }))

/-- The L1 copy of a line is invalidated. -/
def State.l1DropLine (s : State) (u line : Nat) : State :=
  s.onCore u (fun c => { c with l1 := c.l1.filter (fun p => lineOf p.1 != line) })

/-- The L1 copies of the lines of some bytes are invalidated. -/
def State.dropLines (s : State) (u : Nat) (addrs : List Nat) : State :=
  forEach (distinct (addrs.map lineOf)) s (fun s l => s.l1DropLine u l)

/-! ## Issuing accesses -/

/-- The registers that a result of n bytes goes to, from D on (R150, R152). -/
def destsOf (d n : Nat) : List (Nat × Nat) := (List.range (if n ≤ 4 then 1 else n / 4)).map (fun i => (d + i, i))

/-- The little-endian words of some bytes. -/
def wordOf (bs : List Byte) (i : Nat) : Word := BitVec.ofNat 32 (fromBytes ((bs.drop (4 * i)).take 4))

/-- The walks of the pages of a private range read their table entries at their home slices (R108, R390, R405). -/
def State.privWalks (s : State) (tid a n : Nat) : State :=
  forEach (distinct ((runOf a n).map (fun x => s.privVa tid x / 65536))) s (fun s p =>
    s.walkFill (dataWho (unitOf tid)) (s.asidOf tid) (65536 * p))

/-- Counts a thread's access through a handle (R350); a private one walks its page (R108). -/
def State.countUse (s : State) (tid : Nat) (sp : Nat) (x : Access) : State :=
  if sp = 4 then s.heat (unitOf tid) x.tlb else if sp = 0 then s.privWalks tid x.va x.addrs.length else s

/-- The stores of other threads of a unit, not yet performed, whose bytes an L1 hit returns (R112, R118). -/
def State.seenStores (s : State) (tid : Nat) (addrs : List Nat) : List Nat :=
  (s.reqs.filter (fun q => q.u == unitOf tid && q.isStore && !q.performed && !q.of tid && q.place == .phys &&
    q.everyByte.any (fun a => addrs.contains a))).map (·.id)

/-- A thread has read the bytes of some stores that are not yet performed; those that have left the list of requests are forgotten. -/
def State.noteSeen (s : State) (tid : Nat) (ids : List Nat) : State :=
  let now := s.fresh
  s.onThread tid (fun t => { t with seen := t.seen.filter (fun x => s.reqs.any (fun q => q.id == x.1)) ++ ids.map (fun i => (i, now)) })

/-- A load of a thread: the destination empties, and the L1 serves it at once or a request goes to the memory point
(R112, R220, R223). -/
def State.issueLoad (s : State) (tid : Nat) (f : MFmt) (imm : Bool) (kind : ReqKind) (dests : List (Nat × Nat))
    (data : List Byte) : State :=
  let x := s.access tid f imm
  let u := unitOf tid
  let l1 := x.cached && kind == .load && !acqOf f
  let s := s.countUse tid f.sp.toNat x
  let s := s.onThread tid (fun t => dests.foldl (fun t d => t.emptyRegs d.1 1) t)
  let r : Req := { id := 0, seq := s.fresh, u := u, place := x.place, kind := kind,
                   parts := [{ tid := tid, va := x.va, addrs := x.addrs, data := data, dests := dests }],
                   st := f.st.toNat, acq := acqOf f, rel := relOf f, scope := f.sc.toNat, l1 := l1, err := x.err, net := x.net }
  let held := s.reqs.any (fun q => q.of tid && q.before r tid)
  if l1 && x.err.isNone && !held && s.l1Has u x.addrs then
    let bs := x.addrs.map (fun a => (find? a (s.core u).l1).getD 0)
    let s := s.noteSeen tid (s.seenStores tid x.addrs)
    { s with fresh := s.fresh + 1, lates := s.lates ++ [{ id := s.fresh, tid := tid, words := dests.map (fun d => (d.1, wordOf bs d.2)) }] }
  else s.addReq r

/-- Puts the write requests of a bundle in flight, parts in lane order: one per line of global and private memory (R133),
one per thread and aligned 16 bytes elsewhere (R115); `net` says that the cluster space names them. -/
def State.issueLines (s : State) (u st : Nat) (rel : Bool) (scope : Nat) (net : Bool) (kind : List Nat → ReqKind)
    (parts : List (Place × List Nat × Option Nat × ReqPart)) : State :=
  let key := fun (p : Place) (t a : Nat) => (p, match p with | .phys => lineOf a | _ => 2 ^ 32 * t + a / 16)
  let cells := parts.flatMap (fun p => p.2.2.2.addrs.map (fun a => key p.1 p.2.2.2.tid a))
  let keys := cells.foldl (fun acc k => if acc.contains k then acc else acc ++ [k]) []
  forEach keys s (fun s k =>
    let mine := parts.filterMap (fun p =>
      let cs := (p.2.2.2.addrs.zip p.2.2.2.data).filter (fun c => key p.1 p.2.2.2.tid c.1 == k)
      if cs.isEmpty then none
      else some (p.2.1, p.2.2.1, { p.2.2.2 with addrs := cs.map (·.1), data := cs.map (·.2) }))
    match mine with
    | [] => s
    | (reps, err, _) :: _ =>
      s.addReq { id := 0, seq := 0, u := u, place := k.1, kind := kind reps, parts := mine.map (·.2.2), st := st,
                 rel := rel, scope := scope, err := err, net := net, dies := match kind reps with | .multi ds => ds | _ => [] })

/-- The low n bytes of the data registers from D on. -/
def dataBytes (t : Thread) (d n : Nat) : List Byte :=
  ((List.range (if n ≤ 4 then 1 else n / 4)).flatMap (fun i => toBytes 4 (t.reg (d + i)).toNat)).take n

/-- A store of the performing threads (R222, R223): complete for the threads, one request per line in flight; the core's L1
copies take the bytes. -/
def State.issueStore (s : State) (f : MFmt) (multi : Bool) (tids : List Nat) : State :=
  let u := s.cur.u
  let xs := tids.map (fun t => (t, s.access t f true))
  let s := forEach xs s (fun s p => s.countUse p.1 f.sp.toNat p.2)
  let parts := xs.map (fun p =>
    let data := dataBytes (s.thread p.1) f.d.toNat (sizeOf f)
    let addrs := match multi, p.2.reps with
      | true, d :: _ => p.2.addrs.map (onStackOf · d)
      | _, _ => p.2.addrs
    (p.2.place, p.2.reps, p.2.err, ({ tid := p.1, va := p.2.va, addrs := addrs, data := data } : ReqPart)))
  let s := s.issueLines u f.st.toNat (relOf f) f.sc.toNat (f.sp == 2) (fun reps => if multi && !reps.isEmpty then .multi reps else .store) parts
  if f.sp == 4 || f.sp == 0 then
    forEach xs s (fun s p => s.l1Store u (p.2.addrs.zip (dataBytes (s.thread p.1) f.d.toNat (sizeOf f))))
  else s

/-! ## At the memory point -/

/-- The cause of an error reply to a request (R414, R422, R439, R440): a target on a die that is not online, but for a unit's own
scratchpad in scratch space (log 40), a fenced slice's staging, a package that cannot be reached. -/
def State.replyError (s : State) (r : Req) : Option Nat :=
  match r.err with
  | some c => some c
  | none =>
    match r.place with
    | .phys => if s.farOff (r.point 0) then some 0x0F else none
    | .scratch aid => match s.teamWith aid with
      | some k => match (s.team k).place with
        | .resident u => if u = r.u ∧ !r.net then none else s.offError (dieOf u)
        | _ => none
      | none => none
    | .staging d sl => if (s.die d).synslc.getLsbD sl then some 0x0F else s.offError d

/-- SYNDSE with one more error reply sent, or deferred store error dropped: each half counts on its own (R424). -/
def countHalf (x : DWord) (high : Bool) : DWord :=
  if high then (x.extractLsb' 32 32 + 1) ++ x.extractLsb' 0 32 else x.extractLsb' 32 32 ++ (x.extractLsb' 0 32 + 1)

/-- A die has sent an error reply (R424). -/
def State.countSent (s : State) (d : Nat) : State := s.onDie d (fun x => { x with syndse := countHalf x.syndse true })

/-- The die that sends an error reply for its slices or scratchpads counts it (R424). -/
def State.countReply (s : State) (r : Req) : State :=
  match r.place with
  | .staging d _ => s.countSent d
  | .scratch aid => match s.teamWith aid with
    | some k => match (s.team k).place with
      | .resident u => s.countSent (dieOf u)
      | _ => s
    | none => s
  | .phys => s

/-- A memory point's answer to a request goes back to its unit (R408). -/
def State.answer (s : State) (r : Req) : State :=
  match s.endAt r.place (match r.kind with | .vset _ _ => r.point 0 | _ => r.first) with
  | some e => s.sendPacket .rsp r.id e r.u
  | none => s

/-- A result on its way to the registers of its thread; none where no register takes it. -/
def State.reply (s : State) (r : Req) (p : ReqPart) (ws : Nat → Word) (mark : Nat) : State :=
  if p.dests.isEmpty then s
  else
    let l : Late := { id := r.id, tid := p.tid, words := p.dests.map (fun d => (d.1, ws d.2)), mark := mark }
    ({ s with lates := s.lates ++ [l] }).answer r

/-- An integer of n bits read as signed. -/
def signedOf (n x : Nat) : Int := toSigned n x

/-- The new value of an atomic (R228), none where it writes nothing. -/
def AtomOp.new (op : AtomOp) (old : Nat) : Option Nat :=
  let n := 8 * op.size
  let v := op.v.toNat % 2 ^ n
  match op.code with
  | 0 => some ((old + v) % 2 ^ n)
  | 1 => some (if signedOf n v < signedOf n old then v else old)
  | 2 => some (if signedOf n old < signedOf n v then v else old)
  | 3 => some (Nat.min old v)
  | 4 => some (Nat.max old v)
  | 5 => some (old &&& v)
  | 6 => some (old ||| v)
  | 7 => some (old ^^^ v)
  | 8 => some v
  | 9 => if old = op.cmp.toNat % 2 ^ n then some v else none
  | _ => some (fadd32 old v)

/-- An atomic at its memory point: the old bytes, and the state after it (R125, R133). -/
def State.atomAt (s : State) (w : Who) (pl : Place) (addrs : List Nat) (op : AtomOp) : List Byte × State :=
  let old := addrs.map (s.readByte pl)
  match op.new (fromBytes old) with
  | some v => (old, s.writeAt w pl (addrs.zip (toBytes op.size v)))
  | none => (old, s)

/-- The entry of an LDV joins its thread's version set (R135). -/
def Thread.record (t : Thread) (e : VEntry) : Thread :=
  if t.vset.any (fun x => x.line == e.line) then t
  else if t.vset.length < 8 then { t with vset := t.vset ++ [e] }
  else { t with vover := true }

/-- What VSET returns (R226): the first changed entry, or that the set had overflowed. -/
def vsetWord (entry result : Nat) : Word := BitVec.ofNat 32 (16 * entry + result)

/-- The request leaves the list: it needs no acknowledgement. -/
def State.finish (s : State) (id : Nat) : State := { s with reqs := s.reqs.filter (fun r => r.id != id) }

/-- The request is performed; its acknowledgement goes back. -/
def State.done (s : State) (r : Req) (err : Option Nat) : State :=
  (s.onReq r.id (fun r => { r with performed := true, posted := true, err := err })).answer r

/-- An acquire at team scope or wider invalidates the L1 of its core (R113, R123). -/
def State.acquireDrop (s : State) (r : Req) : State := if r.acq && 2 ≤ r.scope then s.dropL1 r.u else s

/-- Rotates a list: the order in which racing lanes of one request reach their bytes. -/
def rotate (n : Nat) {α : Type} (xs : List α) : List α := xs.drop (n % (xs.length + 1)) ++ xs.take (n % (xs.length + 1))

/-- A read of global memory past the L1 has been performed: an older copy of its lines in its core's L1 may serve no later read of the
thread (R118). -/
def State.freshen (s : State) (r : Req) (addrs : List Nat) : State := if r.place == .phys then s.dropLines r.u addrs else s

/-- A unit holds a store that is not yet performed on one of some lines: its L1 takes no copy of them now (R112, R117). -/
def State.ownStores (s : State) (u : Nat) (lines : List Nat) : Bool :=
  s.reqs.any (fun q => q.u == u && !q.performed && lines.any q.storesLine)

/-- A load is performed (R116): its bytes are read and, where the L1 allocates, filled. -/
def State.performLoad (s : State) (r : Req) (p : ReqPart) : State :=
  let s := s.fillFor (dataWho r.u) r.place p.addrs
  let bad := s.readsPoison r.place p.addrs
  let bs := p.addrs.map (s.readByte r.place)
  let own := s.ownStores r.u (distinct (p.addrs.map lineOf))
  let s := if r.l1 && !bad && !own then s.l1Fill r.u p.addrs else s.freshen r p.addrs
  (s.reply r p (wordOf bs) (if bad then 2 else 0)).finish r.id

/-- An atomic is performed. -/
def State.performAtom (s : State) (r : Req) (p : ReqPart) (op : AtomOp) (ret : Bool) : State :=
  let s := (s.fillFor (dataWho r.u) r.place p.addrs).freshen r p.addrs
  let bad := s.readsPoison r.place p.addrs
  let (old, s') := if bad then (p.addrs.map (s.readByte r.place),
      if r.place == .phys then s.bump (lineOf r.first) else s) else s.atomAt (dataWho r.u) r.place p.addrs op
  if ret then (s'.reply r p (wordOf old) (if bad then 2 else 0)).finish r.id else s'.done r none

/-- An LDV is performed (R135, R225): bytes and version in one step; a line whose version was lost delivers 0x10 (R394). -/
def State.performLdv (s : State) (r : Req) (p : ReqPart) (asid va : Nat) : State :=
  let s := (s.fillFor (dataWho r.u) .phys p.addrs).freshen r p.addrs
  let line := lineOf r.first
  let bad := s.readsPoison .phys p.addrs || sget false s.lost line
  let bs := p.addrs.map (s.readByte .phys)
  let e : VEntry := ⟨line, s.version line, asid, va⟩
  let s := s.onThread p.tid (fun t => if t.exited then t else t.record e)
  (s.reply r p (wordOf bs) (if bad then 2 else 0)).finish r.id

/-- A CASV is performed (R138, R227). -/
def State.performCasv (s : State) (r : Req) (p : ReqPart) (expected : Version) : State :=
  let s := (s.fillFor (dataWho r.u) .phys p.addrs).freshen r p.addrs
  let line := lineOf r.first
  let v := s.version line
  if sget false s.lost line then (s.reply r p (fun _ => 0) 2).finish r.id
  else if v = expected then
    let s := s.writeAt (dataWho r.u) .phys (p.addrs.zip p.data)
    let x : DWord := (1 : DWord) <<< 63 ||| (v + 1).setWidth 64
    (s.reply r p (fun i => (words64 x).getD i 0) 0).finish r.id
  else (s.reply r p (fun i => (words64 (v.setWidth 64)).getD i 0) 0).finish r.id

/-- One validation of a VSET, or its end (R136, R226): the line comes to its home first, so that damage of its codeword is found (R394, R400). -/
def State.performVset (s : State) (r : Req) (p : ReqPart) (next : Nat) (es : List VEntry) : State :=
  let past := fun (w : Word) (s : State) => (s.reply r p (fun _ => w) 0).finish r.id
  match es[next]? with
  | none => past 0 s
  | some e =>
    let s := if decide (128 * e.line < 2 ^ 60) then s.touch e.line [] (dataWho r.u) else s
    if s.version e.line != e.ver || sget false s.lost e.line then past (vsetWord next 1) s
    else if next + 1 < es.length then
      let r' := { r with kind := .vset (next + 1) es }
      (s.onReq r.id (fun q => { q with kind := .vset (next + 1) es })).sendReq r' r.u 0
    else past 0 s

/-- A read of an event word for a waiting thread (R238): the thread goes on once the value satisfies it. -/
def State.readEvent (s : State) (r : Req) (p : ReqPart) : State :=
  let s := (s.fillFor (dataWho r.u) r.place p.addrs).freshen r p.addrs
  let bad := s.readsPoison r.place p.addrs
  let w := wordOf (p.addrs.map (s.readByte r.place)) 0
  let go := fun (f : Thread → Thread) =>
    ((s.acquireDrop r).onThread p.tid (fun t => f { t.advance with wait := .none })).finish r.id
  match (s.thread p.tid).wait with
  | .evwait id want d =>
    if id != r.id then s.finish r.id
    else if bad then go (fun t => { t with mark := sset 0 t.mark d 2 })
    else if (w - want).toNat < 2 ^ 31 then go (fun t => t.setReg d w)
    else s.onReq r.id (fun q => { q with performed := true })
  | _ => s.finish r.id

/-- A store is performed: its lanes reach their bytes in an order that the event names. -/
def State.performStore (s : State) (r : Req) (turn : Nat) : State :=
  (s.writeAt (dataWho r.u) r.place ((rotate turn r.parts).flatMap (fun p => p.addrs.zip p.data))).done r none

/-- A multicast store is performed at one replica: the primary's home first, the others in its sequence (R141, R224). -/
def State.performMulti (s : State) (r : Req) (reps : List Nat) (die turn : Nat) : State :=
  let line := lineOf r.first
  let first := r.order = 0
  let d := if first then reps.headD 0 else die
  let earlier := s.reqs.any (fun q => q.id != r.id && q.order != 0 && q.order < r.order && lineOf q.first == line &&
    (match q.kind with | .multi ds => ds.contains d | _ => false))
  if !reps.contains d || (!first && earlier) then s
  else
    let cells := ((rotate turn r.parts).flatMap (fun p => p.addrs.zip p.data)).map (fun c => (onStackOf c.1 d, c.2))
    let s := s.writeAt (dataWho r.u) .phys cells
    let rest := reps.filter (· != d)
    let s := s.onReq r.id (fun q => { q with kind := .multi rest, order := if first then s.fresh else q.order })
    let s := if first then
        let r' := { r with kind := .multi rest, order := s.fresh }
        let home := (s.endAt .phys (onStackOf r.first d)).getD settEnd
        forEach rest { s with fresh := s.fresh + 1 } (fun s e => s.sendReq r' home e)
      else s
    if rest.isEmpty then s.done r none else s

/-- An error answers a request: a write's acknowledgement carries it, results are marked, a waiting event word goes on (R220, R221). -/
def State.failReq (s : State) (r : Req) (cause : Nat) : State :=
  if r.isStore then s.done r (some cause)
  else
    let s := match r.kind with
      | .evwait => forEach r.parts s (fun s p => match (s.thread p.tid).wait with
        | .evwait id _ d => if id != r.id then s else s.onThread p.tid (fun t =>
            { t.advance with wait := .none, mark := sset 0 t.mark d (if cause = 0x0F then 1 else 2) })
        | _ => s)
      | _ => forEach r.parts s (fun s p => s.reply r p (fun _ => 0) (if cause = 0x0F then 1 else 2))
    s.finish r.id

/-- The die at a memory point answers a request with an error and counts the reply (R220, R221, R424). -/
def State.performError (s : State) (r : Req) (cause : Nat) : State := (s.countReply r).failReq r cause

/-- A request is performed at its memory point (R116). -/
def State.performReq (s : State) (r : Req) (die turn : Nat) : State :=
  match s.replyError r with
  | some c => s.performError r c
  | none =>
    let s := s.acquireDrop r
    match r.parts with
    | [] => s.finish r.id
    | p :: _ =>
      match r.kind with
      | .load => s.performLoad r p
      | .refill => s.performLoad r p
      | .store => s.performStore r turn
      | .atom op ret => s.performAtom r p op ret
      | .ldv asid va => s.performLdv r p asid va
      | .casv e _ => s.performCasv r p e
      | .vset next es => s.performVset r p next es
      | .evwait => s.readEvent r p
      | .multi reps => s.performMulti r reps die turn

/-- The packet that a request is performed with has reached its memory point: its own, or a multicast's at a replica. -/
def State.hasArrived (s : State) (r : Req) (die : Nat) : Bool :=
  match r.kind with
  | .multi _ => if r.order = 0 then !s.carries .req r.id else
      !s.onWay .req r.id ((s.endAt .phys (r.point die)).getD settEnd)
  | _ => !s.carries .req r.id

/-- Answers a write's acknowledgement (R124, R221): an error is recorded, or counted where one stands already. -/
def State.acknowledge (s : State) (r : Req) : State :=
  let s := match r.err with
    | none => s
    | some c => forEach (r.parts.map (fun (p : ReqPart) => (p.tid, p.va))) s (fun s p =>
        match (s.thread p.1).serr with
        | none => s.onThread p.1 (fun t => { t with serr := some ⟨r.st, c, p.2⟩ })
        | some _ => s.onDie (dieOf (unitOf p.1)) (fun d => { d with syndse := countHalf d.syndse false }))
  s.finish r.id

end Sys2Proof.Machine
end

