-- ==== Sys2Proof/Machine/Host.lean ====
section
/-!
DEFINITION. The Ethernet port and the optical fabric (19 R432-R439, R446): RDMA on memory regions, flow control, management messages, requests
of other packages, and fibres. The port works once the boot chain has opened it (R440).
-/

namespace Sys2Proof.Machine

/-! ## Messages out -/

/-- Sends something to the outside. -/
def State.send (s : State) (o : Out) : State := { s with outs := s.outs ++ [o] }

/-- Runs an event of the port once it is open. -/
def portEvent (s : State) (f : State → State) : Host.Outcome State Fault Refusal := if s.boot.stage == .up then .next (f s) else .next s

/-! ## Queue pairs and regions (R432, R433) -/

/-- A queue pair. -/
def State.qpair (s : State) (q : Nat) : QPair := (find? q s.qpairs).getD {}

/-- Changes a queue pair. -/
def State.onQpair (s : State) (q : Nat) (f : QPair → QPair) : State := { s with qpairs := smod q f s.qpairs }

/-- Runs an operation of a connected queue pair that is not in the error state; others are not received. -/
def onOpen (s : State) (f : State → State) : Host.Outcome State Fault Refusal :=
  portEvent s (fun s => if (s.qpair s.ev.qp).connected && !(s.qpair s.ev.qp).error then f s else s)

/-- A packet of RDMA data is within the MTU of 4096 bytes; a longer one is not received (R432). -/
def onPacket (s : State) (f : State → State) : Host.Outcome State Fault Refusal :=
  onOpen s (fun s => if s.ev.data.length ≤ 4096 then f s else s)

/-- A remote access error: the queue pair enters the error state, and nothing of the access is performed (R433). -/
def State.rdmaFail (s : State) : State := (s.onQpair s.ev.qp (fun q => { q with error := true })).send (.rdmaError s.ev.qp)

/-- The port's leaf for an address: of its translation cache, else of the tables (R435). -/
def State.portLeaf (s : State) (asid va : Nat) : Option Leaf :=
  match s.portTlb.find? (fun e => e.asid == asid && e.va == pageBase e.leaf va) with
  | some e => some e.leaf
  | none => s.walk asid va

/-- The translation joins the port's cache. -/
def State.portKeep (s : State) (asid va : Nat) : State :=
  if s.portTlb.any (fun e => e.asid == asid && e.va == pageBase e.leaf va) then s
  else match s.walk asid va with
    | some l => { s with portTlb := s.portTlb ++ [{ asid := asid, va := pageBase l va, leaf := l, hot := 0 }] }
    | none => s

/-- The extended addresses of an access of n bytes through the region that a key names, with the permission it needs (R433); none is a
remote access error. -/
def State.rdmaAddrs (s : State) (key va n : Nat) (region : MemRegion → Bool) (leaf : Leaf → Bool) : Option (Nat × List Nat) :=
  match s.regions.find? (fun r => r.key == key) with
  | none => none
  | some r =>
    if !region r || va < r.base || r.base + r.len < va + n then none
    else ((runOf va n).mapM (fun a => match s.portLeaf r.asid a with
      | some l => if leaf l then s.extend (l.map a) else none
      | none => none)).bind (fun as =>
        if as.any s.farOff then none else some (r.asid, as))

/-- Runs an access through a region, or fails. -/
def State.throughRegion (s : State) (n : Nat) (region : MemRegion → Bool) (leaf : Leaf → Bool) (f : State → List Nat → State) : State :=
  match s.rdmaAddrs s.ev.key s.ev.va n region leaf with
  | none => s.rdmaFail
  | some (asid, as) => f ((runOf s.ev.va n).foldl (fun s a => if a % 65536 = 0 ∨ a = s.ev.va then s.portKeep asid a else s) s) as

/-! ## Inbound operations (R434) -/

/-- An RDMA WRITE packet: one write of each line, whose versions rise by one (R434). -/
def State.rdmaWritten (s : State) (more : State → State) : State :=
  let data := s.ev.data
  s.throughRegion data.length (·.w) (·.w) (fun s as => (more (s.writeAt settWho .phys (as.zip data))).send (.rdmaAck s.ev.qp))

/-- RDMA_WRITE (R434): a packet of queue pair `qp` writes `data` at `va` of region `key`. -/
def execRdmaWrite (s : State) : Host.Outcome State Fault Refusal := onPacket s (fun s => s.rdmaWritten id)

/-- RDMA_WRITE_WITH_IMMEDIATE (R434): as WRITE, and a release of its queue pair's earlier operations, which the port has performed in
order; the immediate goes to the firmware. -/
def execRdmaWriteWithImmediate (s : State) : Host.Outcome State Fault Refusal :=
  onPacket s (fun s => s.rdmaWritten (fun s => { s with inbox := s.inbox ++ [.immediate s.ev.qp (s.ev.v.setWidth 32)] }))

/-- RDMA_READ (R434): `len` bytes; no version changes. -/
def execRdmaRead (s : State) : Host.Outcome State Fault Refusal :=
  onOpen s (fun s => s.throughRegion s.ev.len (·.r) (·.r) (fun s as =>
    let s := s.fillFor settWho .phys as
    s.send (.rdmaData s.ev.qp (as.map (s.readByte .phys)))))

/-- RDMA_SEND (R432): the payload goes to the firmware. -/
def execRdmaSend (s : State) : Host.Outcome State Fault Refusal :=
  onPacket s (fun s => { s with inbox := s.inbox ++ [Inbound.send s.ev.qp s.ev.data] }.send (.rdmaAck s.ev.qp))

/-- An 8-byte atomic at some addresses, as ATOM performs it (R434, R133, R423). -/
def State.portAtom (s : State) (as : List Nat) (op : AtomOp) : DWord × State :=
  let s := s.fillFor settWho .phys as
  if s.readsPoison .phys as then (BitVec.ofNat 64 (fromBytes (as.map (s.readByte .phys))), s.bump (lineOf (as.headD 0)))
  else
    let r := s.atomAt settWho .phys as op
    (BitVec.ofNat 64 (fromBytes r.1), r.2)

/-- An RDMA atomic: it needs the region's atomic permission, and R and W of the leaf; a misaligned one fails (log 31). -/
def State.rdmaAtom (s : State) (op : AtomOp) : State :=
  if s.ev.va % 8 ≠ 0 then s.rdmaFail
  else s.throughRegion 8 (·.atomic) (fun l => l.r && l.w) (fun s as =>
    let r := s.portAtom as op
    r.2.send (.rdmaAtomic s.ev.qp r.1))

/-- RDMA_FETCH_ADD (R434). -/
def execRdmaFetchAdd (s : State) : Host.Outcome State Fault Refusal := onOpen s (fun s => s.rdmaAtom ⟨0, s.ev.v, 0, 8⟩)
/-- RDMA_COMPARE_SWAP (R434): `cmp` is the expected value. -/
def execRdmaCompareSwap (s : State) : Host.Outcome State Fault Refusal := onOpen s (fun s => s.rdmaAtom ⟨9, s.ev.v, s.ev.cmp, 8⟩)

/-! ## Connections and flow (R432) -/

/-- CONNECTION_MANAGEMENT (R432): a message on QP1 opens or closes queue pair `qp`; at most 4096 exist. -/
def execConnectionManagement (s : State) : Host.Outcome State Fault Refusal :=
  portEvent s (fun s => match s.ev.cm with
    | .connect => if (find? s.ev.qp s.qpairs).isSome || s.qpairs.length < 4096 then { s with qpairs := sput s.ev.qp { connected := true } s.qpairs } else s
    | .disconnect => { s with qpairs := serase s.ev.qp s.qpairs })

/-- PRIORITY_FLOW_CONTROL (R432): priority `prio` is paused for `len` quanta, 0 ending the pause. -/
def execPriorityFlowControl (s : State) : Host.Outcome State Fault Refusal :=
  portEvent s (fun s => if 8 ≤ s.ev.prio then s else { s with paused := sset 0 s.paused s.ev.prio s.ev.len })

/-- ECN_MARK (R432): the port lowers the sending rate of queue pair `qp`. -/
def execEcnMark (s : State) : Host.Outcome State Fault Refusal :=
  portEvent s (fun s => s.onQpair s.ev.qp (fun q => { q with slow := q.slow + 1 }))

/-- The management channel takes a message: from an address on the allow-list, or in a secured session (R432, R444). -/
def State.mgmtOpen (s : State) : Bool := s.boot.allow.contains s.ev.src || (s.ev.secured && s.spdm.session)

/-- MANAGEMENT_MESSAGE (R432): a message from address `src` reaches the firmware. -/
def execManagementMessage (s : State) : Host.Outcome State Fault Refusal :=
  portEvent s (fun s => if s.mgmtOpen then { s with inbox := s.inbox ++ [.mgmt s.ev.src s.ev.data] } else s)

/-- HOST_TIME_MESSAGE (R446): a host sends the time `v`; the device keeps none of its own and runs nothing on it. -/
def execHostTimeMessage (s : State) : Host.Outcome State Fault Refusal :=
  portEvent s (fun s => if s.mgmtOpen then { s with hostTime := s.ev.v.toNat } else s)

/-! ## Requests of other packages (R438) -/

/-- An export entry covers an access of another package. -/
def Window64.covers (e : Window64) (src pa n : Nat) (r w : Bool) : Bool :=
  e.v && (e.any || e.pkg == src) && decide (e.base ≤ pa) && decide (pa + n ≤ e.base + e.size) && (!r || e.r) && (!w || e.w)

/-- Some export entry covers the access (R438), which lies in local memory. -/
def State.exported (s : State) (pa n : Nat) (r w : Bool) : Bool :=
  isLocal pa && isLocal (pa + n - 1) && s.exports.any (fun p => p.2.covers s.ev.src pa n r w)

/-- A request that no entry covers is answered with an error (R438). -/
def State.whenExported (s : State) (pa n : Nat) (r w : Bool) (f : State → State) : State :=
  if s.exported pa n r w then f s else s.send (.fabricError s.ev.src)

/-- Data for another package, or the news that it is poisoned. -/
def State.fabricAnswer (s : State) (pa n : Nat) (o : State → Out) : State :=
  let s := s.fillFor settWho .phys (runOf pa n)
  if s.readsPoison .phys (runOf pa n) then s.send (.fabricPoison s.ev.src) else s.send (o s)

/-- A fabric request is performed at its memory point (R438, R133, R135, R138, R394). -/
def State.fabricPerform (s : State) : State :=
  let src := s.ev.src
  match s.ev.fabric with
  | .read pa n => s.whenExported pa n true false (fun s => s.fabricAnswer pa n (fun s => .fabricData src (s.readN .phys pa n)))
  | .write pa data => s.whenExported pa data.length false true (fun s => (s.writeAt settWho .phys (cellsAt pa data)).send (.fabricAck src))
  | .atomic pa op n v c => s.whenExported pa n true true (fun s =>
      let as := runOf pa n
      let s := s.fillFor settWho .phys as
      if s.readsPoison .phys as then (s.bump (lineOf pa)).send (.fabricPoison src)
      else
        let r := s.atomAt settWho .phys as ⟨op, v, c, n⟩
        r.2.send (.fabricData src r.1))
  | .ldv pa n => s.whenExported pa n true true (fun s =>
      if sget false s.lost (lineOf pa) then s.send (.fabricPoison src)
      else s.fabricAnswer pa n (fun s => .fabricVersion src (s.readN .phys pa n) (s.version (lineOf pa))))
  | .casv pa n expected v => s.whenExported pa n true true (fun s =>
      let s := s.fillFor settWho .phys (runOf pa n)
      let old := s.version (lineOf pa)
      if sget false s.lost (lineOf pa) then s.send (.fabricPoison src)
      else if old = expected then
        (s.writeAt settWho .phys (cellsAt pa (toBytes n v.toNat))).send (.fabricVersion src [1] (old + 1))
      else s.send (.fabricVersion src [0] old))
  | .version pa => s.whenExported pa 1 true false (fun s =>
      if sget false s.lost (lineOf pa) then s.send (.fabricPoison src) else s.send (.fabricVersion src [] (s.version (lineOf pa))))

/-- FABRIC_REQUEST (R438): a request of package `src`; the fabric is disabled until FABID is valid (R440). -/
def execFabricRequest (s : State) : Host.Outcome State Fault Refusal :=
  portEvent s (fun s => if s.fabid.getLsbD 15 then s.fabricPerform else s)

/-! ## Fibres (R439) -/

/-- OPTICAL_FLIT_REPLAY (R439): a flit of fibre `fibre` is replayed. -/
def execOpticalFlitReplay (s : State) : Host.Outcome State Fault Refusal :=
  .next { s with fibreReplays := sset 0 s.fibreReplays s.ev.fibre (sget 0 s.fibreReplays s.ev.fibre + 1) }

/-- The packages that no working fibre of their route reaches (R439). -/
def State.cutOff (s : State) : List Nat := (s.routes.filter (fun p => p.2.all (fun f => s.deadFibres.contains f))).map (·.1)

/-- FIBRE_FAILURE (R439): fibre `fibre` fails; a package whose set holds no working fibre is unreachable. -/
def execFibreFailure (s : State) : Host.Outcome State Fault Refusal :=
  let s := { s with deadFibres := distinct (s.deadFibres ++ [s.ev.fibre]) }
  .next { s with unreachable := distinct (s.unreachable ++ s.cutOff) }

end Sys2Proof.Machine
end

