-- ==== Sys2Proof/Machine/EngineFault.lean ====
section
/-!
DEFINITION. Engine faults that fall due at a thread (13 R316; 02 R76, R79; 08 R256).
-/

namespace Sys2Proof.Machine

/-- A fault or an engine reset stands for the thread. -/
def State.engineDue (s : State) (tid : Nat) : Bool :=
  (s.firstFault tid).isSome || (isTile (unitOf tid) && (s.tile (unitOf tid)).resetTrap)

/-- A wait that a due engine fault abandons (R316): one that has changed no state outside the thread. -/
def abandons (u : Nat) : Wait → Bool
  | .none => true
  | .regroup => true
  | .waitm _ _ => true
  | .sleep _ => true
  | .barrier _ _ _ _ _ _ _ => isTile u
  | .wpred => true
  | .twait _ _ => true
  | .tokens _ _ => true
  | .rnga _ _ => true
  | .evwait _ _ _ => true
  | .fxw _ => true
  | .invw _ _ => true
  | _ => false

/-- A tile thread's arrival at a barrier that it abandons is withdrawn (R316), with the record of a BARA that made it: a retry arrives
again. -/
def State.withdraw (s : State) (tid : Nat) : State :=
  match (s.thread tid).wait with
  | .barrier kind bar _ _ _ _ _ =>
    let rid := s.rid tid
    (s.onBar kind (s.teamOf tid) bar (fun b => { b with arrived := b.arrived.filter (· != rid) })).onThread tid
      (fun t => { t with bara := t.bara.filter (fun p => p.1 != bar) })
  | _ => s

/-- The handler waits for something the held fault keeps from happening (R316): a token whose producer stands in a queue
in Fault. -/
def State.neverEnds (s : State) (tid : Nat) : Bool :=
  let stuck := fun n => (queuesOf tid).any (fun q => (s.queue q).faulted && (s.queue q).entries.any (fun e => e.tok == some n))
  match (s.thread tid).wait with
  | .twait n _ => stuck n
  | .tokens ts _ => ts.any (fun p => stuck p.1)
  | .fxw n => stuck n
  | _ => false

/-- The thread takes its first due engine fault (R316), which is then reported unless it is a double trap (R315, R256), unless it is held while a handler runs; a held fault that a wait of
the handler could never outlast is a double trap (R315); `stuck` says that its next word waits so for queue space. -/
def State.takeEngineFault (s : State) (tid : Nat) (stuck : Bool) : State :=
  let t := s.thread tid
  let u := unitOf tid
  if t.exited || t.parked.isSome || !abandons u t.wait || !s.engineDue tid then s
  else if t.inh && !stuck && !s.neverEnds tid then s
  else
    let s := s.withdraw tid
    match s.firstFault tid with
    | some (q, e) =>
      let f := e.faultOf
      let s := if s.mayTrap tid then s.onQueue q (fun x => { x with reported := true }) else s
      s.raiseEngine tid (queueCode q) f.1 f.2 e.word e.addr e.dno e.upc
    | none =>
      let s := s.onTile u (fun x => { x with resetTrap := false })
      s.raiseEngine tid 3 0x18 (BitVec.ofNat 64 (locOf u)) 0 0 0 0

/-- Some threads of a band take their due engine faults; they leave the bundle together by the rule of R14 (R314). -/
def State.takeFaults (s : State) (bid : Nat) (lanes : List Nat) (stuck : Bool) : State :=
  (forEach lanes s (fun s l => s.takeEngineFault (32 * bid + l) stuck)).keepAmong bid (s.band bid).bundle

/-- A fault is due and may be taken now: before the thread's next instruction (R316). -/
def State.mustTake (s : State) (tid : Nat) : Bool :=
  let t := s.thread tid
  !t.exited && t.parked.isNone && t.wait == .none && !t.inh && s.engineDue tid

end Sys2Proof.Machine
end

