-- ==== Sys2Proof/Machine/FloatOps.lean ====
section
/-!
DEFINITION. The per-thread floating instructions (06 R191-R198).
-/

namespace Sys2Proof.Machine

/-- A modified source of format t (R191, R95): bits 2i and 2i + 1 of MOD negate it and take its absolute value. -/
def fsrc (t : Fmt) (ftz : Bool) (mod : BitVec 9) (i code : Nat) : Nat :=
  modify t.bits (t.flush (ftz && t.eb == 8) (code % 2 ^ t.bits)) (mod.getLsbD (2 * i)) (mod.getLsbD (2 * i + 1))

/-- The value of a modified source. -/
def fval (t : Fmt) (ftz : Bool) (mod : BitVec 9) (i code : Nat) : Num := t.decode (fsrc t ftz mod i code)

/-- The result word of an FP32 form on the values of A, B and C (R192). -/
def fword (f : RFmt) (g : Num → Num → Num → Num) (s : State) (tid : Nat) (t : Thread) : Word :=
  let z := s.ftz tid
  let v := fun i (r : BitVec 6) => fval fp32 z f.mod i (t.reg r.toNat).toNat
  BitVec.ofNat 32 (fp32.round f.rm.toNat false z (g (v 0 f.a) (v 1 f.b) (v 2 f.c)))

/-- An FP32 form that completes at issue (R192, R175). -/
def fop (f : RFmt) (g : Num → Num → Num → Num) (s : State) (tid : Nat) (t : Thread) : Thread := t.setReg f.d.toNat (fword f g s tid t)

/-- An FP32 form of one source that delivers late (R192, R175). -/
def flate (i : Instr) (f : RFmt) (g : Num → Num) (s : State) : Host.Outcome State Fault Refusal :=
  latewise i s noCheck f.d.toNat (fun x tid t => [fword f (fun a _ _ => g a) x tid t])

/-- FADD (R192). -/
def execFadd (f : RFmt) (s : State) : Host.Outcome State Fault Refusal :=
  lanewise (.fadd f) s noCheck (fop f (fun a b _ => sumNums f.rm.toNat [a, b]))
/-- FSUB (R192). -/
def execFsub (f : RFmt) (s : State) : Host.Outcome State Fault Refusal :=
  lanewise (.fsub f) s noCheck (fop f (fun a b _ => sumNums f.rm.toNat [a, b.negate]))
/-- FMUL (R192). -/
def execFmul (f : RFmt) (s : State) : Host.Outcome State Fault Refusal :=
  lanewise (.fmul f) s noCheck (fop f (fun a b _ => a.mul b))
/-- FFMA (R192). -/
def execFfma (f : RFmt) (s : State) : Host.Outcome State Fault Refusal :=
  lanewise (.ffma f) s noCheck (fop f (fun a b c => sumNums f.rm.toNat [a.mul b, c]))
/-- FRND (R192). -/
def execFrnd (f : RFmt) (s : State) : Host.Outcome State Fault Refusal :=
  lanewise (.frnd f) s noCheck (fop f (fun a _ _ => a.toIntegral f.rm.toNat))
/-- FRCP (R192). -/
def execFrcp (f : RFmt) (s : State) : Host.Outcome State Fault Refusal :=
  flate (.frcp f) f (fun a => a.recip) s
/-- FRSQ (R192). -/
def execFrsq (f : RFmt) (s : State) : Host.Outcome State Fault Refusal :=
  flate (.frsq f) f (fun a => a.rsqrt) s
/-- FSQRT (R192). -/
def execFsqrt (f : RFmt) (s : State) : Host.Outcome State Fault Refusal :=
  flate (.fsqrt f) f (fun a => a.sqrt) s
/-- FEX2 (R192). -/
def execFex2 (f : RFmt) (s : State) : Host.Outcome State Fault Refusal :=
  flate (.fex2 f) f (fun a => a.exp2) s
/-- FLG2 (R192). -/
def execFlg2 (f : RFmt) (s : State) : Host.Outcome State Fault Refusal :=
  flate (.flg2 f) f (fun a => a.log2) s
/-- FSIN (R192). -/
def execFsin (f : RFmt) (s : State) : Host.Outcome State Fault Refusal :=
  flate (.fsin f) f (fun a => a.trig false) s
/-- FCOS (R192). -/
def execFcos (f : RFmt) (s : State) : Host.Outcome State Fault Refusal :=
  flate (.fcos f) f (fun a => a.trig true) s
/-- FTANH (R192). -/
def execFtanh (f : RFmt) (s : State) : Host.Outcome State Fault Refusal :=
  flate (.ftanh f) f (fun a => a.tanh) s

/-- The lesser (or greater) of two codes of a format (R193): a NaN yields the other source, -0 lies below +0. -/
def pickCode (t : Fmt) (greater : Bool) (a b : Nat) : Nat :=
  let x := t.decode a
  let y := t.decode b
  if x.isNan then (if y.isNan then t.nanCode else b)
  else if y.isNan then a
  else
    let c := x.cmp y
    let less := c == -1 || (c == 0 && x.neg && !y.neg)
    if less != greater then a else b

/-- FMIN and FMAX (R193). -/
def fpick (f : RFmt) (greater : Bool) (s : State) (tid : Nat) (t : Thread) : Thread :=
  let z := s.ftz tid
  t.setReg f.d.toNat (BitVec.ofNat 32
    (pickCode fp32 greater (fsrc fp32 z f.mod 0 (t.reg f.a.toNat).toNat) (fsrc fp32 z f.mod 1 (t.reg f.b.toNat).toNat)))

/-- FMIN (R193). -/
def execFmin (f : RFmt) (s : State) : Host.Outcome State Fault Refusal := lanewise (.fmin f) s noCheck (fpick f false)
/-- FMAX (R193). -/
def execFmax (f : RFmt) (s : State) : Host.Outcome State Fault Refusal := lanewise (.fmax f) s noCheck (fpick f true)

/-- The conditions of R194. -/
def floatCond (code : Nat) (a b : Num) : Bool :=
  let un := a.isNan || b.isNan
  let c := a.cmp b
  match code with
  | 0 => !un && c == 0
  | 1 => un || c != 0
  | 2 => !un && c == -1
  | 3 => !un && c != 1
  | 4 => !un && c == 1
  | 5 => !un && c != -1
  | 6 => !un
  | _ => un

/-- FCMP's condition (R194). -/
def fcmpCond (f : RFmt) (s : State) (tid : Nat) (t : Thread) : Bool :=
  let z := s.ftz tid
  floatCond (bitsOf f.fn.toNat 2 0) (fval fp32 z f.mod 0 (t.reg f.a.toNat).toNat) (fval fp32 z f.mod 1 (t.reg f.b.toNat).toNat)

/-- FCMP (R194). -/
def execFcmp (f : RFmt) (s : State) : Host.Outcome State Fault Refusal :=
  .next (perform (.fcmp f) s noCheck
    (if f.fn.getLsbD 3 then compareMask f.d.toNat (bitsOf f.fn.toNat 5 4) (fcmpCond f)
     else eachThread (fun x tid t => t.setReg f.d.toNat (if fcmpCond f x tid t then 1 else 0))))

/-- FTZ acts on FP32 and BF16 alone (R95). -/
def flushes (ty : BitVec 4) : Bool := ty == 8 || ty == 10

/-- The source value of FCVT (R195). -/
def cvtSrc (t : Thread) (ftz : Bool) (ty : BitVec 4) (r : Nat) : Num :=
  if ty.toNat < 8 then ofInt (intSrc t ty r)
  else if ty == 14 then e8m0Num (t.reg r).toNat
  else fval (fmtOf ty) ftz 0 0 (t.reg r).toNat

/-- A floating value as an integer type (R93): rounded, then clamped; a NaN is 0. -/
def numToInt (ty : BitVec 4) (rm : Nat) (x : Num) : Int :=
  match x with
  | .nan => 0
  | .inf n => if n then minOf ty else maxOf ty
  | _ => clampTo ty (x.toIntegral rm).toInt

/-- The result code of FCVT (R92, R93, R195). -/
def cvtDest (f : RFmt) (ftz : Bool) (x : Num) : Nat :=
  if f.ty.toNat < 8 then intDest f.ty (numToInt f.ty f.rm.toNat x)
  else if f.ty == 14 then e8m0Code x
  else (fmtOf f.ty).round f.rm.toNat (f.sat == 1) (ftz && flushes f.ty) x

/-- FCVT (R195). -/
def execFcvt (f : RFmt) (s : State) : Host.Outcome State Fault Refusal :=
  lanewise (.fcvt f) s noCheck (fun x tid t =>
    t.setDest f.ty f.d.toNat (cvtDest f (x.ftz tid) (cvtSrc t (x.ftz tid) (srcTy f) f.a.toNat)))

/-- The class bit of a code (R196). -/
def classBit (t : Fmt) (code : Nat) : Nat :=
  let c := code % 2 ^ t.bits
  let neg := c.testBit (t.bits - 1)
  match t.decode c with
  | .nan => if c.testBit (t.mb - 1) then 9 else 8
  | .inf n => if n then 0 else 7
  | .fin _ m _ _ =>
    if m = 0 then (if neg then 3 else 4)
    else if c / 2 ^ t.mb % 2 ^ t.eb = 0 then (if neg then 2 else 5)
    else if neg then 1 else 6

/-- FCLASS (R196). -/
def execFclass (f : RFmt) (s : State) : Host.Outcome State Fault Refusal :=
  lanewise (.fclass f) s noCheck (fun _ _ t =>
    t.setReg f.d.toNat (BitVec.ofNat 32 (2 ^ classBit (fmtOf f.ty) (t.reg f.a.toNat).toNat)))

/-- Half h of a register. -/
def halfOf (w : Word) (h : Nat) : Nat := w.toNat / 65536 ^ h % 65536

/-- A packed form (R197): each half of D from the same halves of the sources, on codes. -/
def packed (f : RFmt) (g : Fmt → Bool → Nat → Nat → Nat → Nat) (s : State) (tid : Nat) (t : Thread) : Thread :=
  let fm := fmtOf f.ty
  let z := s.ftz tid && flushes f.ty
  let src := fun i (r : BitVec 6) h => fsrc fm z f.mod i (halfOf (t.reg r.toNat) h)
  let half := fun h => g fm z (src 0 f.a h) (src 1 f.b h) (src 2 f.c h)
  t.setReg f.d.toNat (BitVec.ofNat 32 (half 0 + 65536 * half 1))

/-- A packed form that rounds an exact value. -/
def packedRound (f : RFmt) (g : Num → Num → Num → Num) : State → Nat → Thread → Thread :=
  packed f (fun fm z a b c => fm.round f.rm.toNat false z (g (fm.decode a) (fm.decode b) (fm.decode c)))

/-- PKADD (R197). -/
def execPkadd (f : RFmt) (s : State) : Host.Outcome State Fault Refusal :=
  lanewise (.pkadd f) s noCheck (packedRound f (fun a b _ => sumNums f.rm.toNat [a, b]))
/-- PKMUL (R197). -/
def execPkmul (f : RFmt) (s : State) : Host.Outcome State Fault Refusal :=
  lanewise (.pkmul f) s noCheck (packedRound f (fun a b _ => a.mul b))
/-- PKFMA (R197). -/
def execPkfma (f : RFmt) (s : State) : Host.Outcome State Fault Refusal :=
  lanewise (.pkfma f) s noCheck (packedRound f (fun a b c => sumNums f.rm.toNat [a.mul b, c]))
/-- PKMIN (R197). -/
def execPkmin (f : RFmt) (s : State) : Host.Outcome State Fault Refusal :=
  lanewise (.pkmin f) s noCheck (packed f (fun fm _ a b _ => pickCode fm false a b))
/-- PKMAX (R197). -/
def execPkmax (f : RFmt) (s : State) : Host.Outcome State Fault Refusal :=
  lanewise (.pkmax f) s noCheck (packed f (fun fm _ a b _ => pickCode fm true a b))

/-- Byte i of a word, signed if asked (R198). -/
def byteVal (w : Word) (i : Nat) (signed : Bool) : Int :=
  let b := w.toNat / 256 ^ i % 256
  if signed then toSigned 8 b else (b : Int)

/-- The exact sum of IDP4 (R198). -/
def idp4Sum (f : RFmt) (t : Thread) : Int :=
  let a := t.reg f.a.toNat
  let b := t.reg f.b.toNat
  (List.range 4).foldl (fun (acc : Int) i => acc + byteVal a i (f.mod.getLsbD 0) * byteVal b i (f.mod.getLsbD 1))
    (valOf t f.ty f.c.toNat)

/-- IDP4 (R198). -/
def execIdp4 (f : RFmt) (s : State) : Host.Outcome State Fault Refusal :=
  lanewise (.idp4 f) s noCheck (fun _ _ t => t.setDest f.ty f.d.toNat (intResult f.ty (f.sat == 1) (idp4Sum f t)))

/-- The exact sum of FDP2 (R198). -/
def fdp2Sum (f : RFmt) (z : Bool) (t : Thread) : Num :=
  let fm := fmtOf (srcTy f)
  let v := fun (r : BitVec 6) h => fm.decode (fm.flush (z && flushes (srcTy f)) (halfOf (t.reg r.toNat) h))
  let c := fp32.decode (fp32.flush z (t.reg f.c.toNat).toNat)
  sumNums f.rm.toNat [(v f.a 0).mul (v f.b 0), (v f.a 1).mul (v f.b 1), c]

/-- FDP2 (R198). -/
def execFdp2 (f : RFmt) (s : State) : Host.Outcome State Fault Refusal :=
  lanewise (.fdp2 f) s noCheck (fun x tid t =>
    t.setReg f.d.toNat (BitVec.ofNat 32 (fp32.round f.rm.toNat false (x.ftz tid) (fdp2Sum f (x.ftz tid) t))))

end Sys2Proof.Machine
end

