-- ==== Sys2Proof/Machine/Queues.lean ====
section
/-!
DEFINITION. Dispatch into engine queues and band copy queues (02 R44-R52, R56; 08 R254-R256): the queue of an instruction,
the operand slots it names, the checks that every dispatch makes, and the entry it leaves.
-/

namespace Sys2Proof.Machine

/-! ## Queues (R44, R256) -/

/-- The queue of an engine instruction of a thread (R44): copies go to CQ on a tile and to the band's copy queue elsewhere. -/
def queueFor (tid : Nat) (e : EngineQ) : QRef :=
  if isTile (unitOf tid) then .tile (unitOf tid) e else .band (bandOf tid)

/-- The next dispatch number of a queue's tile or band (R46). -/
def State.nextDno (s : State) (q : QRef) : Nat :=
  match q with
  | .tile u _ => (s.tile u).nextDno
  | .band b => (s.band b).nextDno

/-- The dispatch number is used. -/
def State.countDno (s : State) (q : QRef) : State :=
  match q with
  | .tile u _ => s.onTile u (fun t => { t with nextDno := t.nextDno + 1 })
  | .band b => s.onBand b (fun x => { x with nextDno := x.nextDno + 1 })

/-- The code of an engine queue in TQCFG (R272). -/
def eqCode : EngineQ → Nat
  | .lq => 0
  | .aq => 1
  | .sq => 2
  | .mq => 3
  | .cq => 4

/-- The five queues. -/
def engineQs : List EngineQ := [.lq, .aq, .sq, .mq, .cq]

/-- The lag of a queue (R46). -/
def State.lag (s : State) (q : QRef) : Nat :=
  match (s.queue q).entries with
  | [] => 0
  | e :: _ => s.nextDno q - e.dno

/-- The slip limit of a queue of a tile: 160 unless TQCFG set another (R47). -/
def Tile.slipOf (t : Tile) (e : EngineQ) : Nat := sget 160 t.slip (eqCode e)

/-- The thread waits before a dispatch (R46, R256): its queue holds 32 entries, or a lag has reached its slip limit. -/
def State.dispatchStalls (s : State) (q : QRef) : Bool :=
  32 ≤ (s.queue q).entries.length ||
  (match q with
   | .tile u _ => engineQs.any (fun e => (s.tile u).slipOf e ≤ s.lag (.tile u e))
   | .band _ => false)

/-- The produced token of a dispatch (R52): trap 0x14 where it is bound elsewhere; a wait at 255 outstanding producers. -/
def State.tokenCheck (s : State) (tid : Nat) (q : QRef) (d : BitVec 6) : Check :=
  if d == 63 then .pass
  else
    let n := d.toNat
    let here := ((s.queue q).entries.filter (fun e => e.tok == some n)).length
    let out := (s.token tid n).outstanding
    if here < out then .trap 0x14 (BitVec.ofNat 64 n) else if 255 ≤ out then .wait else .pass

/-- What every dispatch checks after its entry's own causes: room, then the token. -/
def State.roomCheck (s : State) (tid : Nat) (q : QRef) (d : BitVec 6) : Check :=
  if s.dispatchStalls q then .wait else s.tokenCheck tid q d

/-! ## Operand slots (R56) -/

/-- Slot n of a tile is claimed. -/
def Tile.claimed (t : Tile) (n : Nat) : Bool := sget false t.claims n

/-- The slots that an entry names: those of OLD, MMA and MMAS, and the destination of a TCPY with `.slot`. -/
def slotsNamed (i : Instr) (regs : List Word) : List Nat :=
  match i with
  | .old f => [f.a.toNat]
  | .mma f => [f.b.toNat, f.c.toNat]
  | .mmas f => [f.b.toNat, f.c.toNat]
  | .tcpy f => if f.efn.getLsbD 7 then [(regs.getD 2 0).toNat] else []
  | _ => []

/-- Trap 0x15 for the first unclaimed slot named. -/
def slotCheck (t : Tile) (names : List Nat) : Check :=
  match names.find? (fun n => !t.claimed n) with
  | some n => .trap 0x15 (BitVec.ofNat 64 n)
  | none => .pass

/-! ## Entries (R45) -/

/-- The n general registers from r on. -/
def Thread.capture (t : Thread) (r n : Nat) : List Word := (List.range n).map (fun i => t.reg (r + i))

/-- The wait targets of a word: the issued counts of the tokens it names (R51, R154). -/
def State.targets (s : State) (tid : Nat) (ws : List (BitVec 5)) : List (Nat × BitVec 16) :=
  (ws.filter (· != 31)).map (fun w => (w.toNat, (s.token tid w.toNat).issued))

/-- Places an entry at the tail of a queue (R45, R46, R51): targets are taken before the produced token's issued count rises. -/
def State.enqueue (s : State) (tid : Nat) (q : QRef) (i : Instr) (f : EFmt) (regs : List Word) (hdls : List Handle)
    (aids : List Nat) : State :=
  let e : Entry :=
    { instr := i, word := s.cur.word, addr := s.cur.pc, tid := tid, dno := s.nextDno q,
      waits := s.targets tid [f.w0, f.w1, f.w2], tok := if f.d == 63 then none else some f.d.toNat,
      regs := regs, hdls := hdls, aids := aids }
  let s := (s.countDno q).onQueue q (fun x => { x with entries := x.entries ++ [e] })
  if f.d == 63 then s else s.onToken tid f.d.toNat (fun k => { k with issued := k.issued + 1 })

/-- A dispatched word: its own checks, room and token, then its entry. -/
def dispatchWord (i : Instr) (f : EFmt) (e : EngineQ) (own : State → Nat → Check)
    (args : State → Nat → List Word × List Handle × List Nat) (s : State) : Host.Outcome State Fault Refusal :=
  .next (performEach i s
    (fun x t => (own x t).andThen (x.roomCheck t (queueFor t e) f.d))
    (fun x t => let a := args x t; x.enqueue t (queueFor t e) i f a.1 a.2.1 a.2.2))

/-- Changes one entry of a queue. -/
def State.onEntry (s : State) (q : QRef) (dno : Nat) (g : Entry → Entry) : State :=
  s.onQueue q (fun x => { x with entries := x.entries.map (fun e => if e.dno = dno then g e else e) })

/-- The team whose queue it is. -/
def State.queueTeam (s : State) (q : QRef) : Nat :=
  match q with
  | .tile u _ => (s.band (64 * u)).team
  | .band b => (s.band b).team

/-- The unit of a queue. -/
def unitOfQueue : QRef → Nat
  | .tile u _ => u
  | .band b => unitOfBand b

/-- The oldest entry completes (R49): it leaves, its token's done count rises, and a tile's barrier that waited for its
engines may complete (R245). -/
def State.completeHead (s : State) (q : QRef) : State :=
  match (s.queue q).entries with
  | [] => s
  | e :: _ =>
    let k := s.queueTeam q
    let s := (s.onQueue q (fun x => { x with entries := x.entries.drop 1 })).produce q e
    match q with
    | .tile _ _ => s.evalBarriers k
    | .band _ => s

end Sys2Proof.Machine
end

