-- ==== Sys2Proof/Machine/Vector.lean ====
section
/-!
DEFINITION. What the vector engine computes (08 R278-R280; 02 R61, R80): lane results of the AQ instructions, conversions, and
the NaN results that its trap sees.
-/

namespace Sys2Proof.Machine

/-- Lane i of vector register v. -/
def Tile.lane (t : Tile) (v i : Nat) : Word := sget 0 t.v (64 * v + i)
/-- The 64 lanes of a vector register. -/
def Tile.vreg (t : Tile) (v : Nat) : List Word := (List.range 64).map (t.lane v)
/-- Writes lane i of vector register v and clears its poison (R423). -/
def Tile.setLane (t : Tile) (v i : Nat) (w : Word) : Tile :=
  { t with v := sset 0 t.v (64 * v + i) w, vPoison := sset false t.vPoison (64 * v + i) false }
/-- Writes a vector register. -/
def Tile.setVreg (t : Tile) (v : Nat) (ws : List Word) : Tile :=
  ((List.range ws.length).zip ws).foldl (fun t p => t.setLane v p.1 p.2) t

/-- The integer type of EFN bits 1:0 in the codes of R151: .i32 is 6, .b32 is 2. -/
def vecTy (ty : Nat) : BitVec 4 := if ty = 1 then 6 else 2
/-- A lane as an integer of the type. -/
def laneInt (ty : Nat) (w : Word) : Int := if ty = 1 then w.toInt else (w.toNat : Int)
/-- An FP32 lane. -/
def laneNum (w : Word) : Num := fp32.decode w.toNat
/-- A value rounded to FP32, saturating or not (R92, R280). -/
def laneOut (sat : Bool) (x : Num) : Word := BitVec.ofNat 32 (fp32.round 0 sat false x)
/-- A value rounded to FP32 (R279). -/
def toLane (x : Num) : Word := laneOut false x

/-- VADD, VSUB, VMUL of two lanes (R279). -/
def vArith (efn : BitVec 10) (g : Int → Int → Int) (h : Num → Num → Num) (b c : Word) : Word :=
  let ty := bitsOf efn.toNat 1 0
  if ty = 0 then toLane (h (laneNum b) (laneNum c))
  else BitVec.ofNat 32 (intResult (vecTy ty) (efn.getLsbD 2) (g (laneInt ty b) (laneInt ty c)))

/-- VMIN and VMAX of two lanes. -/
def vPick (ty : Nat) (greater : Bool) (b c : Word) : Word :=
  if ty = 0 then BitVec.ofNat 32 (pickCode fp32 greater b.toNat c.toNat)
  else if (decide (laneInt ty b < laneInt ty c)) != greater then b else c

/-- VCMP of two lanes. -/
def vCond (efn : BitVec 10) (b c : Word) : Word :=
  let ty := bitsOf efn.toNat 1 0
  let code := bitsOf efn.toNat 4 2
  if (if ty = 0 then floatCond code (laneNum b) (laneNum c) else intCond code (laneInt ty b) (laneInt ty c)) then 1 else 0

/-- b * 2^c with one rounding; an exponent beyond 1024 either way rounds as 1024 does. -/
def vScale (b c : Word) : Word := toLane ((laneNum b).shift (max (-1024) (min 1024 c.toInt)))

/-- One level of the reduction tree: lane i takes lane i and lane i + s. -/
def vFold (op : Word → Word → Word) (s : Nat) (xs : List Word) : List Word :=
  (List.range s).map (fun i => op (xs.getD i 0) (xs.getD (i + s) 0))

/-- VRED's reduction (R279). -/
def vReduce (efn : BitVec 10) (xs : List Word) : Word :=
  let ty := bitsOf efn.toNat 1 0
  let op := match bitsOf efn.toNat 3 2 with
    | 0 => fun b c => if ty = 0 then toLane (sumNums 0 [laneNum b, laneNum c]) else b + c
    | 1 => vPick ty true
    | _ => vPick ty false
  (([32, 16, 8, 4, 2, 1].foldl (fun ys s => vFold op s ys) xs).headD 0)

/-! ## Conversions (R280) -/

/-- The element kind of an MX code 4-7, in the numbering of `elemNum`. -/
def mxKind (code : Nat) : Nat := code - 4
/-- Bits of an element of the kind. -/
def mxBits (kind : Nat) : Nat := if kind = 2 then 4 else 8

/-- Packs codes of n bits into words, lower index in lower bits. -/
def packWords (n : Nat) (xs : List Nat) : List Word :=
  let per := 32 / n
  (List.range (xs.length / per)).map (fun i =>
    BitVec.ofNat 32 ((List.range per).foldl (fun acc j => acc + (xs.getD (per * i + j) 0) % 2 ^ n * 2 ^ (n * j)) 0))

/-- Code i of n bits in packed words. -/
def unpackWord (n : Nat) (xs : List Word) (i : Nat) : Nat :=
  let per := 32 / n
  (xs.getD (i / per) 0).toNat / 2 ^ (n * (i % per)) % 2 ^ n

/-- The format of codes 2 and 3. -/
def halfFmt (code : Nat) : Fmt := if code = 2 then bf16 else fp16

/-- FP32 to INT32 (R93). -/
def vToInt (w : Word) : Word :=
  let x := laneNum w
  BitVec.ofInt 32 (match x with
    | .nan => 0
    | .inf n => if n then minOf 6 else maxOf 6
    | _ => clampTo 6 (x.toIntegral 0).toInt)

/-- The result of VCVT on 64 source lanes. -/
def vConvert (efn : BitVec 10) (xs : List Word) : List Word :=
  let dst := bitsOf efn.toNat 3 0
  let src := bitsOf efn.toNat 7 4
  let sat := efn.getLsbD 8
  let fill := fun (ws : List Word) => ws ++ List.replicate (64 - ws.length) 0
  if src = 0 then
    if dst = 1 then xs.map vToInt
    else if dst ≤ 3 then
      fill (packWords 16 (xs.map (fun w => (halfFmt dst).round 0 sat false (laneNum w))))
    else
      let k := mxKind dst
      let a := toBlock k ((xs.take 32).map laneNum)
      let b := toBlock k ((xs.drop 32).map laneNum)
      let body := packWords (mxBits k) (a.2 ++ b.2)
      fill (body ++ List.replicate (16 - body.length) 0 ++ [BitVec.ofNat 32 (a.1 + 256 * b.1)])
  else if src = 1 then xs.map (fun w => laneOut sat (ofInt w.toInt))
  else if src ≤ 3 then (List.range 64).map (fun i => laneOut sat ((halfFmt src).decode (unpackWord 16 xs i)))
  else
    let k := mxKind src
    let scales := (xs.getD 16 0).toNat
    (List.range 64).map (fun i =>
      let e : Nat := scales / 256 ^ (i / 32) % 256
      if e = 255 then BitVec.ofNat 32 fp32.nanCode
      else laneOut sat ((elemNum k (unpackWord (mxBits k) xs i)).shift ((e : Int) - 127)))

/-- The lane holds a NaN of the result code of a VCVT (R80): an FP32 lane, half of a pair, an MX element or scale. -/
def cvtNan (dst i : Nat) (w : Word) : Bool :=
  if dst = 0 then (laneNum w).isNan
  else if dst = 1 then false
  else if dst ≤ 3 then ((halfFmt dst).decode (w.toNat % 65536)).isNan || ((halfFmt dst).decode (w.toNat / 65536)).isNan
  else if i = 16 then w.toNat % 256 == 255 || w.toNat / 256 % 256 == 255
  else i < 16 && mxKind dst ≤ 1 &&
    (List.range 4).any (fun j => (elemNum (mxKind dst) (w.toNat / 256 ^ j % 256)).isNan)

/-! ## AQ instructions (R279) -/

/-- The new lanes of v[A]. -/
def vResult (i : Instr) (regs : List Word) (t : Tile) : Option (Nat × List Word) :=
  let un := fun (f : EFmt) (g : Word → Word) => some (f.a.toNat, (t.vreg f.b.toNat).map g)
  let bin := fun (f : EFmt) (g : Word → Word → Word) =>
    some (f.a.toNat, List.zipWith g (t.vreg f.b.toNat) (t.vreg f.c.toNat))
  let num := fun (g : Num → Num) (w : Word) => toLane (g (laneNum w))
  match i with
  | .vadd f => bin f (vArith f.efn (· + ·) (fun x y => sumNums 0 [x, y]))
  | .vsub f => bin f (vArith f.efn (· - ·) (fun x y => sumNums 0 [x, y.negate]))
  | .vmul f => bin f (vArith f.efn (· * ·) Num.mul)
  | .vfma f => some (f.a.toNat, (List.range 64).map (fun l =>
      toLane (sumNums 0 [(laneNum (t.lane f.b.toNat l)).mul (laneNum (t.lane f.c.toNat l)), laneNum (t.lane f.a.toNat l)])))
  | .vmin f => bin f (vPick (bitsOf f.efn.toNat 1 0) false)
  | .vmax f => bin f (vPick (bitsOf f.efn.toNat 1 0) true)
  | .vexp f => un f (num Num.exp2)
  | .vrcp f => un f (num Num.recip)
  | .vrsq f => un f (num Num.rsqrt)
  | .vtanh f => un f (num Num.tanh)
  | .vcvt f => some (f.a.toNat, vConvert f.efn (t.vreg f.b.toNat))
  | .vred f => some (f.a.toNat, List.replicate 64 (vReduce f.efn (t.vreg f.b.toNat)))
  | .vbcst f => some (f.a.toNat, List.replicate 64 (t.lane f.b.toNat (bitsOf f.efn.toNat 7 2)))
  | .vperm f => some (f.a.toNat, (t.vreg f.c.toNat).map (fun c => t.lane f.b.toNat (c.toNat % 64)))
  | .vsel f => some (f.a.toNat, (List.range 64).map (fun l =>
      if t.lane f.c.toNat l != 0 then t.lane f.b.toNat l else t.lane f.a.toNat l))
  | .vcmp f => bin f (vCond f.efn)
  | .vmov f => some (f.a.toNat, if f.efn == 4 then List.replicate 64 (regs.headD 0) else t.vreg f.b.toNat)
  | .vscl f => bin f vScale
  | _ => none

/-- The result type whose NaNs the trap sees: 0 an FP32 result, 2-7 a VCVT code; none for results that never trap (R80). -/
def nanCodeOf : Instr → Option Nat
  | .vadd f => if bitsOf f.efn.toNat 1 0 = 0 then some 0 else none
  | .vsub f => if bitsOf f.efn.toNat 1 0 = 0 then some 0 else none
  | .vmul f => if bitsOf f.efn.toNat 1 0 = 0 then some 0 else none
  | .vmin f => if bitsOf f.efn.toNat 1 0 = 0 then some 0 else none
  | .vmax f => if bitsOf f.efn.toNat 1 0 = 0 then some 0 else none
  | .vred f => if bitsOf f.efn.toNat 1 0 = 0 then some 0 else none
  | .vfma _ => some 0
  | .vexp _ => some 0
  | .vrcp _ => some 0
  | .vrsq _ => some 0
  | .vtanh _ => some 0
  | .vscl _ => some 0
  | .vcvt f => some (bitsOf f.efn.toNat 3 0)
  | _ => none

/-- The lanes of vector registers that an entry reads: (register, lane). -/
def vReads (i : Instr) (t : Tile) : List (Nat × Nat) :=
  let all := fun (v : BitVec 6) => (List.range 64).map (fun l => (v.toNat, l))
  match i with
  | .vadd f => all f.b ++ all f.c
  | .vsub f => all f.b ++ all f.c
  | .vmul f => all f.b ++ all f.c
  | .vfma f => all f.b ++ all f.c ++ all f.a
  | .vmin f => all f.b ++ all f.c
  | .vmax f => all f.b ++ all f.c
  | .vexp f => all f.b
  | .vrcp f => all f.b
  | .vrsq f => all f.b
  | .vtanh f => all f.b
  | .vcvt f => all f.b
  | .vred f => all f.b
  | .vbcst f => [(f.b.toNat, bitsOf f.efn.toNat 7 2)]
  | .vperm f => all f.c ++ (t.vreg f.c.toNat).map (fun c => (f.b.toNat, c.toNat % 64))
  | .vsel f => all f.c ++ all f.b ++ all f.a
  | .vcmp f => all f.b ++ all f.c
  | .vmov f => if f.efn == 4 then [] else all f.b
  | .vscl f => all f.b ++ all f.c
  | .vst f => (List.range (if f.efn == 0 then 64 else f.efn.toNat)).map (fun l => (f.a.toNat, l))
  | _ => []

/-- The location fields of a NaN report (R80). -/
def nanPlace (u : Nat) : Nat := dieOf u * 2 ^ 48 + u / 8 % 32 * 2 ^ 43 + u % 8 * 2 ^ 40

/-- The NaN that stops an AQ entry whose enable is set: its report (R80). -/
def vNan (u : Nat) (e : Entry) (t : Tile) : Option DWord :=
  match nanCodeOf e.instr, vResult e.instr e.regs t with
  | some code, some (a, ws) =>
    if !e.nan then none
    else ((List.range 64).find? (fun l => cvtNan code l (ws.getD l 0))).map (fun l =>
      BitVec.ofNat 64 (2 ^ 62 + a * 2 ^ 56 + nanPlace u + l))
  | _, _ => none

end Sys2Proof.Machine
end

