-- ==== Sys2Proof/Machine/Matrix.lean ====
section
/-!
DEFINITION. Operand slots and the matrix engine (02 R55-R60; 03 R97-R100; 08 R273-R277): slot rows, one k-step of MMA and MMAS,
the rows of OLD and MDRN, and what stops them.
-/

namespace Sys2Proof.Machine

/-- Bytes of a slot (R55). -/
def slotSize : Nat := 16896
/-- Byte `off` of slot o. -/
def Tile.slotByte (t : Tile) (o off : Nat) : Byte := sget 0 t.slots (slotSize * o + off)
/-- The 4-byte element that holds byte `off` of slot o is poisoned (R423). -/
def Tile.slotBad (t : Tile) (o off : Nat) : Bool := sget false t.slotPoison ((slotSize * o + off) / 4)
/-- Writes bytes of a slot; elements that are covered whole lose their poison (R423). -/
def Tile.putSlot (t : Tile) (o : Nat) (bs : List (Nat × Byte)) : Tile :=
  let slots := bs.foldl (fun m p => sset 0 m (slotSize * o + p.1) p.2) t.slots
  let whole := (distinct (bs.map (fun p => p.1 / 4))).filter (fun k => (List.range 4).all (fun i => bs.any (fun p => p.1 == 4 * k + i)))
  { t with slots := slots, slotPoison := whole.foldl (fun m k => sset false m (slotSize * o / 4 + k) false) t.slotPoison }
/-- Poisons the elements that hold some bytes of a slot. -/
def Tile.poisonSlot (t : Tile) (o : Nat) (offs : List Nat) : Tile :=
  { t with slotPoison := offs.foldl (fun m x => sset false m ((slotSize * o + x) / 4) true) t.slotPoison }

/-- Element (i, j) of accumulator a. -/
def Tile.accAt (t : Tile) (a i j : Nat) : Word := sget 0 t.acc (4096 * a + 64 * i + j)
/-- Writes an accumulator element and clears its poison. -/
def Tile.setAcc (t : Tile) (a i j : Nat) (w : Word) : Tile :=
  { t with acc := sset 0 t.acc (4096 * a + 64 * i + j) w, accPoison := sset false t.accPoison (4096 * a + 64 * i + j) false }

/-! ## K-steps (R55, R97-R99) -/

/-- Formats of an MMA word (R274). -/
def mmaFa (f : EFmt) : Nat := bitsOf f.efn.toNat 5 3
/-- K-steps of an MMA word. -/
def mmaSteps (f : EFmt) : Nat := bitsOf f.efn.toNat 2 0 + 1
/-- The bits of element q of a run of elements that starts at byte `off` of slot o. -/
def Tile.elemAt (t : Tile) (o off fmt q : Nat) : Nat :=
  if fmt = 2 then (t.slotByte o (off + q / 2)).toNat / 16 ^ (q % 2) % 16
  else if fmt = 4 then (t.slotByte o (off + 2 * q)).toNat + 256 * (t.slotByte o (off + 2 * q + 1)).toNat
  else (t.slotByte o (off + q)).toNat

/-- The elements of k-step j of row i. -/
def Tile.stepRow (t : Tile) (o fmt i j : Nat) : List Num :=
  (List.range (if fmt = 4 then 16 else 32)).map (fun q => elemNum fmt (t.elemAt o (256 * i + stepBytes fmt * j) fmt q))

/-- The kept values of k-step j of a compressed row with their positions along K (R55, R99, R275): a kept value that a later one
of its group overwrites contributes nothing. -/
def Tile.keptRow (t : Tile) (o fmt i j : Nat) : List (Nat × Num) :=
  let kept := fun n => elemNum fmt (t.elemAt o (256 * i + stepBytes fmt / 2 * j) fmt n)
  (List.range 8).flatMap (fun g =>
    let nib := (t.slotByte o (256 * i + 128 + 4 * j + g / 2)).toNat / 16 ^ (g % 2) % 16
    let a := (4 * g + nib % 4, kept (2 * g))
    let b := (4 * g + nib / 4, kept (2 * g + 1))
    if a.1 = b.1 then [b] else [a, b])

/-- The scale of k-step j of row i. -/
def Tile.scaleAt (t : Tile) (o i j : Nat) : Nat := (t.slotByte o (16384 + 8 * i + j)).toNat

/-- The contribution of k-step j to element (i, c) (R97 steps 1-4). -/
def Tile.contribution (t : Tile) (f : EFmt) (sparse : Bool) (j i c : Nat) : Nat :=
  let oa := f.b.toNat
  let ob := f.c.toNat
  let y := t.stepRow ob (mmaFb f) c j
  let prods :=
    if sparse then (t.keptRow oa (mmaFa f) i j).map (fun p => p.2.mul (y.getD p.1 (.fin false 0 0 false)))
    else List.zipWith Num.mul (t.stepRow oa (mmaFa f) i j) y
  blockSum prods (if mmaFa f = 4 then none else some (t.scaleAt oa i j, t.scaleAt ob c j))

/-- The new accumulator elements of a k-step, row-major (R97 step 5). -/
def Tile.stepResult (t : Tile) (f : EFmt) (sparse : Bool) (j : Nat) : List (Nat × Nat × Word) :=
  (List.range 64).flatMap (fun i => (List.range 64).map (fun c =>
    (i, c, BitVec.ofNat 32 (fadd32 (t.accAt f.a.toNat i c).toNat (t.contribution f sparse j i c)))))

/-- The slot bytes that a k-step reads: of B, all rows; of a compressed A its kept values and metadata. -/
def stepReads (f : EFmt) (sparse : Bool) (j : Nat) : List (Nat × Nat) :=
  let rowOf := fun (o fmt : Nat) (half : Bool) (i : Nat) =>
    let n := if half then stepBytes fmt / 2 else stepBytes fmt
    (runOf (256 * i + n * j) n ++ (if half then runOf (256 * i + 128 + 4 * j) 4 else []) ++
      (if fmt = 4 then [] else [16384 + 8 * i + j])).map (fun x => (o, x))
  (List.range 64).flatMap (fun i => rowOf f.b.toNat (mmaFa f) sparse i ++ rowOf f.c.toNat (mmaFb f) false i)

/-- Sets a fill mark. -/
def Tile.setMark (t : Tile) (o n : Nat) : Tile := { t with marks := sset 0 t.marks o n }

/-- The report of a NaN that the matrix engine would write (R80). -/
def stepNan (u : Nat) (e : Entry) (f : EFmt) (j : Nat) (new : List (Nat × Nat × Word)) : Option DWord :=
  if !e.nan then none
  else (new.find? (fun x => (laneNum x.2.2).isNan)).map (fun x =>
    BitVec.ofNat 64 (f.a.toNat * 2 ^ 56 + nanPlace u + j * 2 ^ 32 + x.1 * 2 ^ 16 + x.2.1))

/-- What stops k-step j: a streaming fill mark that nothing will raise, poison, a NaN (R274, R423, R80). -/
def Tile.stepFault (t : Tile) (u : Nat) (e : Entry) (f : EFmt) (sparse : Bool) (j : Nat) : Option (Nat × DWord) :=
  let bad := (stepReads f sparse j).find? (fun x => t.slotBad x.1 x.2)
  let acc := (List.range 4096).any (fun k => sget false t.accPoison (4096 * f.a.toNat + k))
  if f.efn.getLsbD 9 && decide (t.mark f.c.toNat < needMark f j) then some (0x15, BitVec.ofNat 64 f.c.toNat)
  else match bad with
    | some x => some (0x10, Config.operandAddr (slotSize * x.1 + x.2))
    | none =>
      if acc then some (0x10, BitVec.ofNat 64 f.a.toNat)
      else (stepNan u e f j (t.stepResult f sparse j)).map (fun v => (0x0B, v))

/-- K-step j is added to every element of the accumulator (R58, R97). -/
def Tile.doStep (t : Tile) (f : EFmt) (sparse : Bool) (j : Nat) : Tile :=
  (t.stepResult f sparse j).foldl (fun x p => x.setAcc f.a.toNat p.1 p.2.1 p.2.2) t

/-! ## Rows of OLD and MDRN (R273, R277) -/

/-- The allocation of a tile's team. -/
def State.tileAid (s : State) (u : Nat) : Nat := (s.team (s.band (64 * u)).team).aid

/-- The scratchpad bytes that row i of an OLD takes, with their slot offsets: elements, then scales. -/
def oldRow (f : EFmt) (regs : List Word) (i : Nat) : List (Nat × Nat) :=
  let b := (regs.getD 0 0).toNat
  let c := (regs.getD 1 0).toNat
  (List.range 256).map (fun j => (256 * i + j, b + i * c + j)) ++
  (if f.efn.getLsbD 0 then [] else (List.range 8).map (fun j => (16384 + 8 * i + j, b + 64 * c + 8 * i + j)))

/-- Bytes of an element that MDRN writes. -/
def drainSize (f : EFmt) : Nat := if bitsOf f.efn.toNat 1 0 = 0 then 4 else 2

/-- The bytes of row i that MDRN writes (R277). -/
def drainRow (t : Tile) (f : EFmt) (i : Nat) : List Byte :=
  let fmt := match bitsOf f.efn.toNat 1 0 with | 0 => fp32 | 1 => bf16 | _ => fp16
  (List.range 64).flatMap (fun j =>
    toBytes (drainSize f) (fmt.round 0 (f.efn.getLsbD 2) false (laneNum (t.accAt f.a.toNat i j))))

/-- A read of scratchpad bytes meets poison: trap 0x10 with the element's address. -/
def State.scratchFault (s : State) (aid : Nat) (addrs : List Nat) : Option (Nat × DWord) :=
  (addrs.find? (fun a => s.poisoned (.scratch aid) a)).map (fun a => (0x10, BitVec.ofNat 64 (a / 4 * 4)))

end Sys2Proof.Machine
end

