-- ==== Sys2Proof/Machine/LoadStore.lean ====
section
/-!
DEFINITION. Loads, stores, versions, atomics, handles, fences and events in memory (07 R213-R238), and the events that
move requests: the memory point, acknowledgements and late results.
-/

namespace Sys2Proof.Machine

/-! ## Loads and stores (R222-R224) -/

/-- A load's checks (R219). -/
def loadCheck (f : MFmt) (s : State) (tid : Nat) : Check := s.memCheck tid f true true false false

/-- A store's checks: a deferred store error of its stream, for a release (R221), then R219. -/
def storeCheck (f : MFmt) (s : State) (tid : Nat) : Check :=
  (s.releaseError tid f).andThen (s.memCheck tid f true false true false)

/-- A load word (R222). -/
def loadWord (i : Instr) (f : MFmt) (s : State) : Host.Outcome State Fault Refusal :=
  .next (perform i s (loadCheck f) (fun x tids =>
    forEach tids x (fun y t => y.issueLoad t f true .load (destsOf f.d.toNat (sizeOf f)) [])))

/-- A store word (R222). -/
def storeWord (i : Instr) (f : MFmt) (multi : Bool) (s : State) : Host.Outcome State Fault Refusal :=
  .next (perform i s (storeCheck f) (fun x tids => x.issueStore f multi tids))

/-- LDL (R222). -/
def execLdl (f : MFmt) (s : State) : Host.Outcome State Fault Refusal := loadWord (.ldl f) f s
/-- STL (R222). -/
def execStl (f : MFmt) (s : State) : Host.Outcome State Fault Refusal := storeWord (.stl f) f false s
/-- LDS (R222). -/
def execLds (f : MFmt) (s : State) : Host.Outcome State Fault Refusal := loadWord (.lds f) f s
/-- STS (R222). -/
def execSts (f : MFmt) (s : State) : Host.Outcome State Fault Refusal := storeWord (.sts f) f false s
/-- LDC (R222). -/
def execLdc (f : MFmt) (s : State) : Host.Outcome State Fault Refusal := loadWord (.ldc f) f s
/-- STC (R222). -/
def execStc (f : MFmt) (s : State) : Host.Outcome State Fault Refusal := storeWord (.stc f) f false s
/-- LDP (R222). -/
def execLdp (f : MFmt) (s : State) : Host.Outcome State Fault Refusal := loadWord (.ldp f) f s
/-- STP (R222). -/
def execStp (f : MFmt) (s : State) : Host.Outcome State Fault Refusal := storeWord (.stp f) f false s
/-- LDG (R222). -/
def execLdg (f : MFmt) (s : State) : Host.Outcome State Fault Refusal := loadWord (.ldg f) f s
/-- STG (R222). -/
def execStg (f : MFmt) (s : State) : Host.Outcome State Fault Refusal := storeWord (.stg f) f false s
/-- MCST (R224). -/
def execMcst (f : MFmt) (s : State) : Host.Outcome State Fault Refusal := storeWord (.mcst f) f true s

/-! ## Versions (R225-R227) -/

/-- LDV (R225). -/
def execLdv (f : MFmt) (s : State) : Host.Outcome State Fault Refusal :=
  .next (perform (.ldv f) s (fun x t => x.memCheck t f true true false true) (fun x tids =>
    forEach tids x (fun y t =>
      let a := y.access t f true
      (y.dropLines y.cur.u a.addrs).issueLoad t f true (.ldv a.asid a.va) (destsOf f.d.toNat (sizeOf f)) [])))

/-- The entry's line has become replicated: its page, walked now, has a replica set (R142, R226). -/
def State.replicated (s : State) (e : VEntry) : Bool :=
  match s.walk e.asid e.va with
  | some l => !l.reps.isEmpty
  | none => false

/-- VSET's checks (R136, R226): it waits for the thread's LDVs, then traps 0x09 for a replicated line, also where the set has
overflowed (log 90). -/
def vsetCheck (s : State) (tid : Nat) : Check :=
  let waits := s.reqs.any (fun q => q.of tid && !q.performed && (match q.kind with | .ldv _ _ => true | _ => false))
  if waits then .wait
  else match (s.thread tid).vset.find? s.replicated with
    | some e => .trap 0x09 (BitVec.ofNat 64 (128 * e.line))
    | none => .pass

/-- VSET of a thread: the set is taken and cleared, and its validations follow (R136). -/
def State.issueVset (s : State) (d tid : Nat) : State :=
  let t := s.thread tid
  let s := forEach t.vset s (fun s e => s.l1DropLine (unitOf tid) e.line)
  let s := s.onThread tid (fun t => { t.emptyRegs d 1 with vset := [], vover := false })
  if t.vover || t.vset.isEmpty then
    { s with fresh := s.fresh + 1, lates := s.lates ++ [{ id := s.fresh, tid := tid, words := [(d, if t.vover then 2 else 0)] }] }
  else s.addReq { id := 0, seq := 0, u := unitOf tid, place := .phys, kind := .vset 0 t.vset,
                  parts := [{ tid := tid, addrs := [], dests := [(d, 0)] }], st := 16 }

/-- VSET (R226). -/
def execVset (f : RFmt) (s : State) : Host.Outcome State Fault Refusal :=
  .next (perform (.vset f) s vsetCheck (fun x tids => forEach tids x (fun y t => y.issueVset f.d.toNat t)))

/-- The checks of CASV and the atomics: a release's deferred error, then reading and writing (R219). -/
def rmwCheck (f : MFmt) (noReps : Bool) (s : State) (tid : Nat) : Check :=
  (s.releaseError tid f).andThen (s.memCheck tid f false true true noReps)

/-- CASV (R227). -/
def execCasv (f : MFmt) (s : State) : Host.Outcome State Fault Refusal :=
  .next (perform (.casv f) s (rmwCheck f true) (fun x tids =>
    forEach tids x (fun y t =>
      let th := y.thread t
      let d := f.d.toNat
      (y.dropLines y.cur.u (y.access t f false).addrs).issueLoad t f false
        (.casv ((th.reg64 d).setWidth 40) (sizeOf f)) [(d, 0), (d + 1, 1)] (dataBytes th (d + 2) (sizeOf f)))))

/-! ## Atomics (R228-R231) -/

/-- The operation of an atomic word with a thread's operands (R228, R229). -/
def atomOf (f : MFmt) (t : Thread) : AtomOp :=
  let code := bitsOf f.off.toNat 3 0
  let d := f.d.toNat
  let get := fun r => if f.sz == 3 then t.reg64 r else (t.reg r).setWidth 64
  let k := if f.sz == 3 then 2 else 1
  if code = 9 then { code := 9, v := get (d + k), cmp := get d, size := sizeOf f }
  else { code := code, v := get d, cmp := 0, size := sizeOf f }

/-- An atomic of a bundle: one request for each thread. -/
def State.issueAtoms (s : State) (f : MFmt) (ret : Bool) (tids : List Nat) : State :=
  forEach tids s (fun y t =>
    let dests := if ret then destsOf f.d.toNat (sizeOf f) else []
    let y' := if f.sp == 4 then y.dropLines y.cur.u (y.access t f false).addrs else y
    y'.issueLoad t f false (.atom (atomOf f (y.thread t)) ret) dests [])

/-- ATOM (R229). -/
def execAtom (f : MFmt) (s : State) : Host.Outcome State Fault Refusal :=
  .next (perform (.atom f) s (rmwCheck f false) (fun x tids => x.issueAtoms f true tids))
/-- RED (R230). -/
def execRed (f : MFmt) (s : State) : Host.Outcome State Fault Refusal :=
  .next (perform (.red f) s (rmwCheck f false) (fun x tids => x.issueAtoms f false tids))
/-- ATOMS (R231). -/
def execAtoms (f : MFmt) (s : State) : Host.Outcome State Fault Refusal :=
  .next (perform (.atoms f) s (rmwCheck f false) (fun x tids => x.issueAtoms f true tids))

/-! ## Handles (R213-R217, R232) -/

/-- TRN (R214). -/
def execTrn (f : MFmt) (s : State) : Host.Outcome State Fault Refusal :=
  .next (perform (.trn f) s noCheck (fun x tids =>
    forEach tids x (fun y t => y.translate t f.d.toNat ((y.thread t).reg64 f.a.toNat))))

/-- HREL (R216): the handle becomes invalid; its base, which HQRY.base still reads, becomes 0 (log 89). -/
def execHrel (f : RFmt) (s : State) : Host.Outcome State Fault Refusal :=
  lanewise (.hrel f) s noCheck (fun _ _ t => t.setHdl f.a.toNat {})

/-- The code of a handle state (R213). -/
def HState.code : HState → Nat
  | .invalid => 0
  | .pending => 1
  | .valid => 2
  | .faulted => 3
  | .revoked => 4

/-- The state word of a handle (R217). -/
def handleWord (h : Handle) : Nat :=
  let l := h.leaf
  h.st.code + (if h.st != .valid then 0 else
    16 * l.size + (if l.r then 64 else 0) + (if l.w then 128 else 0) + (if l.x then 256 else 0) + 512 * granCode l.gran +
    (if l.vd then 2048 else 0) + (if l.reps.isEmpty then 0 else 4096) + (if l.c then 8192 else 0) + 16384 * l.sdef +
    (if isFabric l.pa then 2 ^ 18 else 0))

/-- HQRY (R217). -/
def execHqry (f : RFmt) (s : State) : Host.Outcome State Fault Refusal :=
  lanewise (.hqry f) s noCheck (fun _ _ t =>
    let h := t.hdl f.a.toNat
    if f.fn == 0 then t.setReg f.d.toNat (BitVec.ofNat 32 (handleWord h)) else t.setReg64 f.d.toNat h.base)

/-- PREF of a thread (R232): where the handle is valid and the address lies in its page with R, the line is brought to its
home and, with D = 0, to the L1. -/
def State.prefetch (s : State) (f : MFmt) (tid : Nat) : State :=
  let t := s.thread tid
  let h := t.hdl f.a.toNat
  let ea := (h.base + globalOff t f true).toNat
  if h.st != .valid || !inPage h ea 1 || !h.leaf.r then s
  else
    let x := s.globalBytes h (unitOf tid) ea 1
    let line := lineOf (x.addrs.headD 0)
    let addrs := runOf (128 * line) 128
    if x.err.isSome || s.farOff (x.addrs.headD 0) then s
    else
      let s := s.fillFor (dataWho (unitOf tid)) .phys addrs
      if f.d == 0 && x.cached && !s.ownStores (unitOf tid) [line] && !s.readsPoison .phys addrs then s.l1Fill (unitOf tid) addrs else s

/-- PREF (R232). -/
def execPref (f : MFmt) (s : State) : Host.Outcome State Fault Refusal :=
  .next (perform (.pref f) s noCheck (fun x tids => forEach tids x (fun y t => y.prefetch f t)))

/-! ## Fences (R126, R129, R130, R233-R235) -/

/-- FENCE's checks: a deferred store error of a covered stream, then the wait of R122 and R126, at which the thread stalls. -/
def fenceCheck (f : MFmt) (s : State) (tid : Nat) : Check :=
  let covers := fun st => f.off.getLsbD st
  (s.storeError tid covers).andThen
    (if (acqOf f && !s.readsDone tid covers) || (relOf f && !s.meets tid covers f.sc.toNat) then .wait else .pass)

/-- FENCE (R233): its acquire part at team scope or wider invalidates the L1 (R113), whatever its mask. -/
def execFence (f : MFmt) (s : State) : Host.Outcome State Fault Refusal :=
  .next (perform (.fence f) s (fenceCheck f) (fun x _ =>
    if acqOf f && decide (2 ≤ f.sc.toNat) then x.dropL1 x.cur.u else x))

/-- The FXIs of a token in a band that have not been posted. -/
def State.fxiOut (s : State) (bid n : Nat) : Nat := ((s.band bid).fxis.filter (fun r => r.tok == n && !r.posted)).length

/-- The outstanding producer of a token is no FXI (R130, R234). -/
def State.notFxi (s : State) (tid n : Nat) : Bool := s.fxiOut (bandOf tid) n < (s.token tid n).outstanding

/-- A write whose memory point lies on another compute die or in another package (R129). -/
def Req.offDie (r : Req) : Bool :=
  match r.place with
  | .phys => r.remote || homeDie (r.point 0) != dieOf r.u || (match r.kind with | .multi _ => true | _ => false)
  | .staging d _ => d != dieOf r.u
  | .scratch _ => false

/-- FXI's checks (R234, R52). -/
def fxiCheck (f : MFmt) (s : State) (tid : Nat) : Check :=
  let n := f.d.toNat
  if s.notFxi tid n then .trap 0x14 (BitVec.ofNat 64 n) else if 255 ≤ (s.token tid n).outstanding then .wait else .pass

/-- FXI of a thread (R129, R234): it captures its unacknowledged remote writes on the masked streams, those of atomics and CASV among
them. -/
def State.issueFxi (s : State) (f : MFmt) (tid : Nat) : State :=
  let mine := s.reqs.filter (fun q => q.of tid && q.writes && f.off.getLsbD q.st && q.offDie)
  let (id, s) := s.fresh1
  let s := s.onToken tid f.d.toNat (fun k => { k with issued := k.issued + 1 })
  s.onBand (bandOf tid) (fun b => { b with fxis := b.fxis ++ [{
    id := id, tok := f.d.toNat, tid := tid, streams := (List.range 16).filter (fun st => f.off.getLsbD st),
    reqs := mine.map (·.id), posted := false }] })

/-- FXI (R234). -/
def execFxi (f : MFmt) (s : State) : Host.Outcome State Fault Refusal :=
  .next (performEach (.fxi f) s (fxiCheck f) (fun x t => x.issueFxi f t))

/-- Every FXI of a token is posted and each write it captured acknowledged (R130). -/
def State.fxwDone (s : State) (bid n : Nat) : Bool :=
  ((s.band bid).fxis.filter (fun r => r.tok == n)).all (fun r =>
    r.posted && r.reqs.all (fun i => (s.req? i).isNone))

/-- A thread of a band waits in FXW on a token. -/
def State.fxwWaits (s : State) (bid n : Nat) : Bool :=
  (lanesList (s.band bid).lanes).any (fun l => (s.thread (32 * bid + l)).wait == .fxw n)

/-- The FXIs of a token are forgotten once an FXW has completed on it, and no other thread still waits in one (R221, R235). -/
def State.dropFxis (s : State) (bid n : Nat) : State :=
  if s.fxwWaits bid n then s else s.onBand bid (fun b => { b with fxis := b.fxis.filter (fun r => r.tok != n) })

/-- The streams of the FXIs of a token. -/
def State.fxwCovers (s : State) (bid n st : Nat) : Bool :=
  (s.band bid).fxis.any (fun r => r.tok == n && r.streams.contains st)

/-- FXW's checks (R130, R221). -/
def fxwCheck (f : RFmt) (s : State) (tid : Nat) : Check :=
  let n := f.a.toNat
  (s.storeError tid (s.fxwCovers (bandOf tid) n)).andThen
    (if s.notFxi tid n then .trap 0x14 (BitVec.ofNat 64 n) else .pass)

/-- FXW (R235): past the word at once where every captured write has been acknowledged, else the thread waits. -/
def execFxw (f : RFmt) (s : State) : Host.Outcome State Fault Refusal :=
  .next (perform (.fxw f) s (fxwCheck f) (fun x tids =>
    let n := f.a.toNat
    if x.fxwDone x.cur.bid n then x.dropFxis x.cur.bid n
    else forEach tids x (fun y t => y.waitHere t (.fxw n))))

/-- FXI_POSTED (R129): the captured writes of FXI `id` of band `bid` have been posted. -/
def execFxiPosted (s : State) : Host.Outcome State Fault Refusal :=
  let bid := s.ev.bid
  match (s.band bid).fxis.find? (fun r => r.id == s.ev.id) with
  | none => .next s
  | some r =>
    if r.posted || !r.reqs.all (fun i => ((s.req? i).map (·.posted)).getD true) then .next s
    else
      let s := s.onBand bid (fun b => { b with fxis := b.fxis.map (fun x => if x.id = r.id then { x with posted := true } else x) })
      .next (s.onToken r.tid r.tok (fun k => { k with done := k.done + 1 }))

/-- FXW_RELEASE (R130): the wait of a thread ends; a deferred store error of a covered stream makes it issue the FXW again,
which traps (R221). -/
def execFxwRelease (s : State) : Host.Outcome State Fault Refusal :=
  let tid := s.ev.tid
  match (s.thread tid).wait with
  | .fxw n =>
    let bid := bandOf tid
    if !s.fxwDone bid n then .next s
    else match s.storeError tid (s.fxwCovers bid n) with
      | .pass => .next ((s.release tid).dropFxis bid n)
      | _ => .next (s.onThread tid (fun t => { t with wait := .none }))
  | _ => .next s

/-! ## Event words (R236-R238) -/

/-- EVSIG's operand and addend as a RED of code 0 (R237). -/
def State.issueSignal (s : State) (f : MFmt) (tid : Nat) : State :=
  let op : AtomOp := { code := 0, v := ((s.thread tid).reg f.d.toNat).setWidth 64, cmp := 0, size := 4 }
  let s := if f.sp == 4 then s.dropLines s.cur.u (s.access tid f true).addrs else s
  s.issueLoad tid f true (.atom op false) [] []

/-- EVSIG (R237). -/
def execEvsig (f : MFmt) (s : State) : Host.Outcome State Fault Refusal :=
  .next (perform (.evsig f) s (fun x t => (x.releaseError t f).andThen (x.memCheck t f true true true false))
    (fun x tids => forEach tids x (fun y t => y.issueSignal f t)))

/-- EVWAIT of a thread: it waits at the word while its request reads the word at the memory point. -/
def State.issueEvwait (s : State) (f : MFmt) (tid : Nat) : State :=
  let id := s.fresh
  let want := (s.thread tid).reg f.d.toNat
  (s.issueLoad tid f true .evwait [] []).waitWord tid (.evwait id want f.d.toNat)

/-- EVWAIT (R238). -/
def execEvwait (f : MFmt) (s : State) : Host.Outcome State Fault Refusal :=
  .next (perform (.evwait f) s (loadCheck f) (fun x tids => forEach tids x (fun y t => y.issueEvwait f t)))

/-! ## Events of the memory system -/

/-- The memory point of a request is the fallback agent (R416). -/
def State.agentServes (s : State) (r : Req) (die : Nat) : Bool :=
  r.place == .phys && decide (r.point die < 2 ^ 60) && s.atAgent (r.point die)

/-- Performs request `id` where it has arrived and nothing it must follow is outstanding; `die` names a multicast's replica, `sub` the order of
racing lanes, and `discard` a remote package's refusal (R438). -/
def State.tryPerform (s : State) (agent : Bool) : State :=
  match s.req? s.ev.id with
  | none => s
  | some r =>
    if r.performed || s.blocked r || !s.hasArrived r s.ev.die || s.agentServes r s.ev.die != agent then s
    else if s.ev.discard && r.place == .phys && decide (2 ^ 60 ≤ r.point 0) then s.performError r 0x0F
    else s.performReq r s.ev.die s.ev.sub

/-- MEMORY_POINT_PERFORM (R116). -/
def execMemoryPointPerform (s : State) : Host.Outcome State Fault Refusal := .next (s.tryPerform false)

/-- FALLBACK_AGENT_PERFORM (R416). -/
def execFallbackAgentPerform (s : State) : Host.Outcome State Fault Refusal := .next (s.tryPerform true)

/-- EVWAIT_REREAD (R238): the memory point reads an event word again for its waiting thread, whom its reply reaches (R412). -/
def execEvwaitReread (s : State) : Host.Outcome State Fault Refusal :=
  match s.req? s.ev.id with
  | none => .next s
  | some r =>
    if r.kind == .evwait && r.performed && s.crossing .rsp ((s.endAt r.place r.first).getD settEnd) r.u then .next (s.performReq r 0 0)
    else .next s

/-- WRITE_POSTED (R122): the outgoing link, or the optical die, has accepted a write. -/
def execWritePosted (s : State) : Host.Outcome State Fault Refusal :=
  .next (s.onReq s.ev.id (fun r => if r.writes then { r with posted := true } else r))

/-- STORE_ACKNOWLEDGE (R124): the acknowledgement of a performed write has come back. -/
def execStoreAcknowledge (s : State) : Host.Outcome State Fault Refusal :=
  match s.req? s.ev.id with
  | none => .next s
  | some r => if r.isStore && r.performed && !s.carries .rsp r.id then .next (s.acknowledge r) else .next s

/-- A late result fills its registers (R162, R220): a deferred error leaves the values and marks them. -/
def Thread.deliver (t : Thread) (mark : Nat) (ws : List (Nat × Word)) : Thread :=
  ws.foldl (fun t w =>
    if mark = 0 then t.setReg w.1 w.2
    else { t with empty := sset false t.empty w.1 false, mark := sset 0 t.mark w.1 mark }) t

end Sys2Proof.Machine
end

