-- ==== Sys2Proof/Machine/Ray.lean ====
section
/-!
DEFINITION. The Lynx ray unit (08 R264-R270): exact tests on rationals, traversal node by node, and the ray instructions.
-/

namespace Sys2Proof.Machine

/-! ## Exact arithmetic (R267) -/

/-- A rational num / den, or with den = 0 an infinity of the sign of num. -/
structure Frac where
  num : Int
  den : Nat
  deriving DecidableEq, Repr

/-- a is at most b. -/
def Frac.le (a b : Frac) : Bool :=
  if a.den = 0 ∧ b.den = 0 then decide (a.num ≤ b.num) else decide (a.num * b.den ≤ b.num * a.den)
/-- The greater of two. -/
def Frac.max (a b : Frac) : Frac := if a.le b then b else a
/-- The lesser of two. -/
def Frac.min (a b : Frac) : Frac := if a.le b then a else b
/-- n / d for a nonzero d. -/
def Frac.ofInts (n d : Int) : Frac := if d < 0 then ⟨-n, d.natAbs⟩ else ⟨n, d.natAbs⟩

/-- A finite FP32 value in units of 2^-149. -/
def fixed (w : Word) : Int := (fp32.decode w.toNat).units (-149)
/-- The value of FP32 bits as a fraction; NaN has none. -/
def fracOf (w : Word) : Option Frac :=
  match fp32.decode w.toNat with
  | .nan => none
  | .inf n => some ⟨if n then -1 else 1, 0⟩
  | _ => some ⟨fixed w, 2 ^ 149⟩
/-- Infinite FP32 bits. -/
def isInfW (w : Word) : Bool := (fp32.decode w.toNat).isInf
/-- NaN FP32 bits. -/
def isNanW (w : Word) : Bool := (fp32.decode w.toNat).isNan

/-- A fraction rounded to FP32, to nearest even. -/
def Frac.round (q : Frac) : Word :=
  let k := Nat.log2 q.den + 64
  let n := q.num.natAbs * 2 ^ k
  BitVec.ofNat 32 (fp32.round 0 false false (.fin (decide (q.num < 0)) (n / q.den) (-(k : Int)) (n % q.den != 0)))

/-- The ray hits nothing: a NaN in o or d, or d = 0 (R267). -/
def Ray.dead (r : Ray) : Bool :=
  (r.o ++ r.dir).any isNanW || r.dir.all (fun w => (fp32.decode w.toNat).isZero)

/-- The slab of one axis: the interval of t, empty as none; bounds may be infinite. -/
def slab (o d lo hi : Word) : Option (Frac × Frac) :=
  let edge := fun (b : Word) (up : Bool) => if isInfW b then (⟨if up then 1 else -1, 0⟩ : Frac) else Frac.ofInts (fixed b - fixed o) (fixed d)
  match fracOf lo, fracOf hi, fracOf o with
  | some l, some h, some x =>
    if !l.le h then none
    else if fixed d = 0 then (if l.le x && x.le h then some (⟨-1, 0⟩, ⟨1, 0⟩) else none)
    else
      let neg := decide (fixed d < 0)
      let a := edge lo ((fp32.decode lo.toNat).neg == neg)
      let b := edge hi ((fp32.decode hi.toNat).neg == neg)
      some (if neg then (b, a) else (a, b))
  | _, _, _ => none

/-- The entry distance of a ray into a box, when it is hit (R267): the lower end of the common slab interval, as it is, not clamped to tmin,
which orders the children (log 94). -/
def Ray.boxEntry (r : Ray) (b : List Word) : Option Frac :=
  if r.dead || b.any isNanW then none
  else if (r.o ++ r.dir).any isInfW then (Config.rayBox (r.o ++ r.dir ++ [r.tmin, r.tmax] ++ b)).map (fun p => ⟨p.1, p.2⟩)
  else
    let s := (List.range 3).map (fun i => slab (r.o.getD i 0) (r.dir.getD i 0) (b.getD i 0) (b.getD (i + 3) 0))
    match s, fracOf r.tmin, fracOf r.tmax with
    | [some x, some y, some z], some t0, some t1 =>
      let lo := (x.1.max y.1).max z.1
      let hi := (x.2.min y.2).min z.2
      if (lo.max t0).le (hi.min t1) then some lo else none
    | _, _, _ => none

/-- Vectors of integers. -/
def sub3 (a b : List Int) : List Int := List.zipWith (· - ·) a b
/-- Dot product. -/
def dot3 (a b : List Int) : Int := (List.zipWith (· * ·) a b).foldl (· + ·) 0
/-- Cross product. -/
def cross3 (a b : List Int) : List Int :=
  let g := fun (v : List Int) i => v.getD i 0
  [g a 1 * g b 2 - g a 2 * g b 1, g a 2 * g b 0 - g a 0 * g b 2, g a 0 * g b 1 - g a 1 * g b 0]

/-- The hit of a ray on a triangle of nine words: t, u, v (R267). A ray whose tmin or tmax is a NaN hits nothing (log 94). -/
def Ray.triangle (r : Ray) (v : List Word) : Option (Word × Word × Word) :=
  if r.dead || v.any isNanW then none
  else if (r.o ++ r.dir ++ v).any isInfW then Config.rayTriangle (r.o ++ r.dir ++ [r.tmin, r.tmax] ++ v)
  else
    let p := v.map fixed
    let v0 := p.take 3
    let e1 := sub3 ((p.drop 3).take 3) v0
    let e2 := sub3 ((p.drop 6).take 3) v0
    let o := r.o.map fixed
    let d := r.dir.map fixed
    let x := cross3 d e2
    let det := dot3 e1 x
    if det = 0 then none
    else
      let s := sub3 o v0
      let q := cross3 s e1
      let u := Frac.ofInts (dot3 s x) det
      let w := Frac.ofInts (dot3 d q) det
      let t := Frac.ofInts (dot3 e2 q) det
      match fracOf r.tmin, fracOf r.tmax with
      | some t0, some t1 =>
        if 0 ≤ u.num ∧ 0 ≤ w.num ∧ u.num + w.num ≤ (u.den : Int) ∧ t0.le t ∧ t.le t1 then some (t.round, u.round, w.round) else none
      | _, _ => none

/-! ## Traversal (R264, R265, R268) -/

/-- The kind of a node reference. -/
def refKind (x : DWord) : Nat := bitsOf x.toNat 63 62
/-- The byte offset of a node in its page. -/
def refOff (x : DWord) : Nat := bitsOf x.toNat 33 7 * 128

/-- The commit rule of R270. -/
def Ray.commit (r : Ray) (h : Hit) : Ray :=
  let best := match r.hit with
    | some x => x.id.toNat
    | none => 0xFFFFFFFF
  let better : Bool := match fracOf h.t, fracOf r.tmax with
    | some a, some b => !b.le a || (a.le b && h.id.toNat < best)
    | _, _ => false
  if better then { r with hit := some h, tmax := h.t, cand := none } else { r with cand := none }

/-- A node reference in the 32 bits of a stack entry (R265). -/
def packRef (x : DWord) : Word := BitVec.ofNat 32 (refKind x * 2 ^ 30 + bitsOf x.toNat 33 7)
/-- The node reference that a stack entry holds. -/
def unpackRef (w : Word) : DWord := BitVec.ofNat 64 (bitsOf w.toNat 31 30 * 2 ^ 62 + bitsOf w.toNat 26 0 * 128)

/-- The next node: the newest of the traversal stack, or the end. -/
def Ray.pop (r : Ray) : Ray :=
  match r.stack with
  | [] => { r with cur := 0, sub := 0, finished := true }
  | x :: xs => { r with cur := unpackRef x, sub := 0, stack := xs }

/-- Word i of a node's bytes. -/
def nodeWord (n : List Byte) (i : Nat) : Word := wordOf n i

/-- The hit children of a box node in the order of their visit (R267): references with their distances. -/
def Ray.children (r : Ray) (n : List Byte) : List (DWord × Frac) :=
  let cs := (List.range 4).filterMap (fun c =>
    let ref : DWord := nodeWord n (24 + 2 * c + 1) ++ nodeWord n (24 + 2 * c)
    if refKind ref = 0 then none
    else (r.boxEntry ((List.range 6).map (fun i => nodeWord n (6 * c + i)))).map (fun q => (ref, q)))
  cs.foldl (fun acc x => acc.takeWhile (fun y => y.2.le x.2) ++ [x] ++ acc.dropWhile (fun y => y.2.le x.2)) []

/-- What the visit of a node gives: a trap, the end of the RAYQ with a status, or a position to go on from. -/
inductive Visit where
  | trap (cause : Nat)
  | stop (status : Nat) (r : Ray)
  | next (r : Ray)
  deriving DecidableEq, Repr

/-- The visit of a box node (R268). -/
def Ray.visitBox (r : Ray) (n : List Byte) : Visit :=
  match r.children n with
  | [] => .next r.pop
  | c :: cs =>
    if 48 < r.stack.length + cs.length then .trap 0x05
    else .next { r with cur := c.1, sub := 0, stack := cs.map (fun c => packRef c.1) ++ r.stack }

/-- The visit of a leaf from triangle `sub` on (R267, R268). -/
def Ray.visitLeaf (n : List Byte) (count : Nat) : Nat → Nat → Ray → Visit
  | 0, _, r => .next r.pop
  | k + 1, t, r =>
    if count ≤ t then .next r.pop
    else
      match r.triangle ((List.range 9).map (fun i => nodeWord n (10 * t + i))) with
      | none => Ray.visitLeaf n count k (t + 1) r
      | some h =>
        let hit : Hit := ⟨h.1, h.2.1, h.2.2, nodeWord n (10 * t + 9)⟩
        if (n.getD 81 0).getLsbD t then Ray.visitLeaf n count k (t + 1) (r.commit hit)
        else .stop 1 { r with cand := some hit, sub := t + 1 }

/-- The visit of the node at the traversal position. -/
def Ray.visit (r : Ray) (n : List Byte) : Visit :=
  if refKind r.cur = 1 then r.visitBox n
  else
    let count := (n.getD 80 0).toNat
    if count = 0 ∨ 2 < count then .trap 0x05
    else Ray.visitLeaf n count 2 r.sub r

/-- The virtual address of the node at the position. -/
def Ray.nodeVa (r : Ray) (h : Handle) : Nat := pageBase h.leaf h.base.toNat + refOff r.cur

/-- The node causes of R268 before the read. -/
def nodeCheck (h : Handle) (idx : Nat) (ref : DWord) : Check :=
  let va := BitVec.ofNat 64 (pageBase h.leaf h.base.toNat + refOff ref)
  (handleCheck h idx).andThen (firstTrap [(bitsOf ref.toNat 6 0 != 0, 0x04, va),
    (refKind ref == 3 || bitsOf ref.toNat 61 34 != 0 || decide (pageBytes h.leaf.size < refOff ref + 128), 0x05, va),
    (!h.leaf.r, 0x08, va)])

/-- The traversal has ended. -/
def Ray.ended (r : Ray) : Bool := r.finished || refKind r.cur == 0 && r.stack.isEmpty

/-- The checks of RAYQ: those of the node at its position. -/
def rayqCheck (s : State) (tid : Nat) : Check :=
  let t := s.thread tid
  if t.ray.ended then .pass else nodeCheck (t.hdl t.ray.hdl) t.ray.hdl t.ray.cur

/-- The traversal's next node read (R268): a plain read on stream 0 that the L1 may serve; the thread waits for it. -/
def State.readNode (s : State) (tid d : Nat) : State :=
  let t := s.thread tid
  let u := unitOf tid
  let h := t.hdl t.ray.hdl
  let va := t.ray.nodeVa h
  let x := s.globalBytes h u va 128
  let id := s.fresh
  let s := (s.heat u h.tlb).onThread tid (fun t => { t with wait := .ray id d })
  let r : Req := { id := 0, seq := s.fresh, u := u, place := .phys, kind := .load, l1 := x.cached, err := x.err,
                   parts := [{ tid := tid, va := va, addrs := x.addrs, dests := (List.range 32).map (fun i => (i, i)) }] }
  let held := s.reqs.any (fun q => q.of tid && q.before r tid)
  if x.cached && x.err.isNone && !held && s.l1Has u x.addrs then
    let bs := x.addrs.map (fun a => (find? a (s.core u).l1).getD 0)
    let s := s.noteSeen tid (s.seenStores tid x.addrs)
    { s with fresh := s.fresh + 1, lates := s.lates ++ [{ id := id, tid := tid, words := (List.range 32).map (fun i => (i, wordOf bs i)) }] }
  else s.addReq r

/-- RAYQ ends with a status: the thread goes on, the status on its way to g[D]. -/
def State.endRayq (s : State) (tid d status : Nat) : State :=
  (s.release tid).deliverLate tid d [BitVec.ofNat 32 status]

/-- A node has been read for a waiting RAYQ: the traversal moves, or the RAYQ traps with its position unchanged. -/
def State.rayNode (s : State) (tid d : Nat) (l : Late) : State :=
  let t := s.thread tid
  let va := BitVec.ofNat 64 (t.ray.nodeVa (t.hdl t.ray.hdl))
  let n := (List.range 32).flatMap (fun i => toBytes 4 (sget 0 l.words i).toNat)
  let stop := fun c => ((s.onThread tid (fun t => { t with wait := .none })).raise tid c va)
  if l.mark != 0 then stop (if l.mark = 1 then 0x0F else 0x10)
  else match t.ray.visit n with
    | .trap c => stop c
    | .stop st r => (s.onThread tid (fun t => { t with ray := r })).endRayq tid d st
    | .next r =>
      let s := s.onThread tid (fun t => { t with ray := r })
      if r.ended then s.endRayq tid d 0
      else match nodeCheck (t.hdl r.hdl) r.hdl r.cur with
        | .pass => s.readNode tid d
        | .wait => s.onThread tid (fun t => { t with wait := .none })
        | .trap c v => (s.onThread tid (fun t => { t with wait := .none })).raise tid c v
        | .storeError c v => (s.onThread tid (fun t => { t with wait := .none })).raise tid c v

/-- RAYQ of a thread: a pending candidate is rejected first (R268). -/
def State.startRayq (s : State) (d tid : Nat) : State :=
  let s := s.onThread tid (fun t => { t with ray := { t.ray with cand := none } })
  if (s.thread tid).ray.ended then s.deliverLate tid d [0]
  else (s.onThread tid (fun t => { t with pc := s.cur.pc })).readNode tid d

/-- RAYQ (R268). -/
def execRayq (f : RFmt) (s : State) : Host.Outcome State Fault Refusal :=
  .next (perform (.rayq f) s rayqCheck (fun x tids => forEach tids x (fun y t => y.startRayq f.d.toNat t)))

/-- RAYB (R266). -/
def execRayb (f : RFmt) (s : State) : Host.Outcome State Fault Refusal :=
  lanewise (.rayb f) s noCheck (fun _ _ t =>
    let a := f.a.toNat
    let root := t.reg64 f.c.toNat
    { t with ray := { o := [t.reg a, t.reg (a + 1), t.reg (a + 2)], tmin := t.reg (a + 3),
                      dir := [t.reg (a + 4), t.reg (a + 5), t.reg (a + 6)], tmax := t.reg (a + 7),
                      hdl := f.b.toNat, cur := root, finished := refKind root == 0 } })

/-- What RAYN writes (R269). -/
def hitWords (h : Option Hit) : List Word :=
  match h with
  | some x => [x.t, x.u, x.v, x.id]
  | none => [0x7F800000, 0, 0, 0xFFFFFFFF]

/-- RAYN (R269). -/
def execRayn (f : RFmt) (s : State) : Host.Outcome State Fault Refusal :=
  lanewise (.rayn f) s noCheck (fun _ _ t => t.setRegs f.d.toNat (hitWords (if f.fn == 0 then t.ray.cand else t.ray.hit)))

/-- RAYC on a ray (R270). -/
def Ray.candidate (r : Ray) (fn : BitVec 8) : Ray :=
  match r.cand with
  | none => r
  | some h =>
    if fn == 1 then { r with cand := none }
    else
      let r := r.commit h
      if fn == 2 then { r with cur := 0, sub := 0, stack := [], finished := true } else r

/-- RAYC (R270). -/
def execRayc (f : RFmt) (s : State) : Host.Outcome State Fault Refusal :=
  lanewise (.rayc f) s noCheck (fun _ _ t => { t with ray := t.ray.candidate f.fn })

/-- LATE_RESULT_DELIVERY (R162): result `id`, once the network carries it no longer, reaches its thread: its registers, or the traversal that waits for a node; a
refill's word is CALL_STACK_REFILL_RETURN's, and a GMMA's accumulators are GMMA_RESULT_DELIVERY's. -/
def execLateResultDelivery (s : State) : Host.Outcome State Fault Refusal :=
  match s.lates.find? (fun l => l.id == s.ev.id && !s.carries .rsp l.id) with
  | none => .next s
  | some l =>
    let w := (s.thread l.tid).wait
    if w == .refill l.id || l.grp != 0 then .next s
    else
      let s := { s with lates := s.lates.filter (fun x => x.id != l.id) }
      match w with
      | .ray id d => if id == l.id then .next (s.rayNode l.tid d l) else .next (s.onThread l.tid (fun t => t.deliver l.mark l.words))
      | _ => .next (s.onThread l.tid (fun t => t.deliver l.mark l.words))

end Sys2Proof.Machine
end

