-- ==== Sys2Proof/Machine/Copies.lean ====
section
/-!
DEFINITION. Copies (02 R62-R67, R71; 08 R271, R281-R283; 14 R355, R357; 16 R402): tensor control blocks, regions and tile layouts,
flat copies by pieces of 128 bytes, bridge beats, and BVH refits.
-/

namespace Sys2Proof.Machine

/-! ## Reads of a tile's scratchpad (R54, R293) -/

/-- A ring slot can take bytes: one is partly written, or one is free (R68). -/
def Ring.hasRoom (r : Ring) : Bool := r.part != 0 || decide (r.filled + r.acquired < r.count)

/-- The beat byte that is due at a byte of a tile's scratchpad: a beat that its channel holds for the fill slot of a ring there (R71). -/
def State.dueAt (s : State) (u a : Nat) : Option Byte :=
  (s.tile u).rings.findSome? (fun p =>
    let r := p.2
    let off := a - (r.base + r.fill * r.size)
    match r.chan with
    | none => none
    | some c =>
      if !r.hasRoom || decide (a < r.base + r.fill * r.size + r.part) || decide (r.size ≤ off) then none
      else ((((find? c s.channels).getD {}).beats[(off - r.part) / 16]?).bind (fun b => b.data[off % 16]?)))

/-- A byte of its scratchpad that an engine of tile u reads: where a bridge beat is due, each aligned 4-byte element is old or new, which is
free (R54, R293). -/
def State.engineByte (s : State) (u a : Nat) : Byte :=
  let old := s.readByte (.scratch (s.tileAid u)) a
  match s.dueAt u a with
  | some b => if (Config.freeByte (s.free + a / 4)).getLsbD 0 then b else old
  | none => old

/-- The free choices of an engine's read of a tile's scratchpad are used up. -/
def State.afterRead (s : State) : State := { s with free := s.free + 2 ^ 19 }

/-- Queue q reads the scratchpad of its own tile at a place. -/
def State.ownScratch (s : State) (q : QRef) (pl : Place) : Bool :=
  match q with
  | .tile u _ => pl == .scratch (s.tileAid u)
  | .band _ => false

/-- A byte that a copy of queue q reads at a place. -/
def State.sourceByte (s : State) (q : QRef) (pl : Place) (a : Nat) : Byte :=
  if s.ownScratch q pl then s.engineByte (unitOfQueue q) a else s.readByte pl a

/-- A copy of queue q has read a place. -/
def State.afterSource (s : State) (q : QRef) (pl : Place) : State := if s.ownScratch q pl then s.afterRead else s

/-! ## Tensor control blocks (R62, R63) -/

/-- The fields of a TCB. -/
structure Tcb where
  region : Nat
  fmt : Nat
  rank : Nat
  order : Nat
  saxis : Nat
  base : Nat
  dims : List Nat
  strides : List Nat
  scale : Nat
  tiles : List Nat
  pad : Nat
  deriving DecidableEq, Repr

/-- n bytes at an offset, little-endian. -/
def fieldOf (b : List Byte) (off n : Nat) : Nat := fromBytes ((b.drop off).take n)

/-- The fields of a TCB's 128 bytes. -/
def tcbOf (b : List Byte) : Tcb :=
  { region := fieldOf b 0 2, fmt := fieldOf b 4 1, rank := fieldOf b 5 1, order := fieldOf b 6 1, saxis := fieldOf b 7 1,
    base := fieldOf b 8 8, dims := (List.range 4).map (fun i => fieldOf b (16 + 4 * i) 4),
    strides := (List.range 3).map (fun i => fieldOf b (32 + 8 * i) 8), scale := fieldOf b 56 8,
    tiles := (List.range 4).map (fun i => fieldOf b (64 + 2 * i) 2), pad := fieldOf b 72 4 }

/-- An MX format. -/
def Tcb.mx (t : Tcb) : Bool := 6 ≤ t.fmt
/-- Bits of an element. -/
def Tcb.bits (t : Tcb) : Nat :=
  match t.fmt with
  | 0 => 8
  | 1 => 16
  | 2 => 32
  | 3 => 16
  | 4 => 16
  | 5 => 32
  | 8 => 4
  | _ => 8
/-- Extent of a dimension. -/
def Tcb.dim (t : Tcb) (i : Nat) : Nat := t.dims.getD i 1
/-- Tile extent. -/
def Tcb.tile (t : Tcb) (i : Nat) : Nat := t.tiles.getD i 1
/-- Byte stride of dimension 1 to 3. -/
def Tcb.stride (t : Tcb) (i : Nat) : Nat := t.strides.getD (i - 1) 0

/-- The cases of R63 that the TCB alone decides. -/
def tcbOk (b : List Byte) : Bool :=
  let t := tcbOf b
  t.fmt ≤ 9 && t.order ≤ 1 && (if t.mx then t.saxis ≤ 1 else t.saxis == 0) && 1 ≤ t.rank && t.rank ≤ 4 &&
  fieldOf b 2 2 == 0 && fieldOf b 76 52 == 0 &&
  (!t.mx || (t.dim t.saxis % 32 == 0 && t.tile t.saxis % 32 == 0)) &&
  (t.order == 0 || (t.tile 2 == 1 && t.tile 3 == 1))

/-- Extent of the scale array in a dimension (R62). -/
def Tcb.sdim (t : Tcb) (i : Nat) : Nat := if i = t.saxis then t.dim i / 32 else t.dim i

/-- The end of the elements and scales within the region (R63). -/
def Tcb.extent (t : Tcb) : Nat :=
  if t.dims.any (· == 0) then 0
  else
    let top := t.base + (t.dim 0 * t.bits + 7) / 8 + (t.dim 1 - 1) * t.stride 1 + (t.dim 2 - 1) * t.stride 2 +
      (t.dim 3 - 1) * t.stride 3
    if t.mx then Nat.max top (t.scale + t.sdim 0 * t.sdim 1 * t.sdim 2 * t.sdim 3) else top

/-! ## Tile layouts (R67, R281) -/

/-- Source rows: positions in dim1 to dim3. -/
def Tcb.rows (t : Tcb) : Nat := t.tile 1 * t.tile 2 * t.tile 3
/-- Elements of a destination row. -/
def Tcb.rowElems (t : Tcb) : Nat := if t.order = 1 then t.tile 1 else t.tile 0
/-- Destination rows. -/
def Tcb.destRows (t : Tcb) : Nat := if t.order = 1 then t.tile 0 else t.rows
/-- Bytes of a destination row, padded to a multiple of 16. -/
def Tcb.pitch (t : Tcb) : Nat := (t.rowElems * t.bits + 127) / 128 * 16
/-- Blocks of the tile. -/
def Tcb.blocks (t : Tcb) : Nat := if t.mx then t.tile 0 * t.rows / 32 else 0
/-- Bytes of the tile in the scratchpad. -/
def Tcb.bytes (t : Tcb) : Nat := t.destRows * t.pitch + t.blocks

/-- Tensor coordinates of element t0 of source row r, from the tile origin. -/
def Tcb.coords (t : Tcb) (org : List Int) (r t0 : Nat) : List Int :=
  let o := fun i => org.getD i 0
  [o 0 + t0, o 1 + (r % t.tile 1 : Nat), o 2 + (r / t.tile 1 % t.tile 2 : Nat), o 3 + (r / t.tile 1 / t.tile 2 : Nat)]

/-- The coordinates lie within the dimensions (R65). -/
def Tcb.inside (t : Tcb) (x : List Int) : Bool :=
  (List.range 4).all (fun i => decide (0 ≤ x.getD i 0) && decide (x.getD i 0 < (t.dim i : Int)))

/-- The bit address of an element in memory, for a region at physical address rb. -/
def Tcb.bitAddr (t : Tcb) (rb : Nat) (x : List Int) : Nat :=
  let n := fun i => (x.getD i 0).toNat
  8 * (rb + t.base + n 1 * t.stride 1 + n 2 * t.stride 2 + n 3 * t.stride 3) + t.bits * n 0

/-- The address of the scale of the block that holds an element. -/
def Tcb.scaleAddr (t : Tcb) (rb : Nat) (x : List Int) : Nat :=
  let n := fun i => if i = t.saxis then (x.getD i 0).toNat / 32 else (x.getD i 0).toNat
  rb + t.scale + n 0 + t.sdim 0 * (n 1 + t.sdim 1 * (n 2 + t.sdim 2 * n 3))

/-- The blocks whose last element lies in source row r: the first element of each (row, t0), its place in the dense order of
blocks, and its destination row and block of the row. -/
def Tcb.blocksOf (t : Tcb) (r : Nat) : List ((Nat × Nat) × Nat × (Nat × Nat)) :=
  let t1 := r % t.tile 1
  let outer := r / t.tile 1
  if !t.mx then []
  else if t.saxis = 0 then
    (List.range (t.tile 0 / 32)).map (fun k =>
      ((r, 32 * k), if t.order = 1 then k * t.tile 1 + r else r * (t.tile 0 / 32) + k, (r, k)))
  else if t1 % 32 != 31 then []
  else
    let g := t1 / 32
    (List.range (t.tile 0)).map (fun t0 =>
      ((r - 31, t0), if t.order = 1 then t0 * (t.tile 1 / 32) + g else (outer * (t.tile 1 / 32) + g) * t.tile 0 + t0, (t0, g)))

/-! ## Destinations -/

/-- Where a tile lies: a scratchpad range or an operand slot. -/
inductive CopyDest where
  | scratch (aid base : Nat)
  | slot (u o : Nat)
  deriving DecidableEq, Repr

/-- Byte offset of a destination row. -/
def CopyDest.row (d : CopyDest) (t : Tcb) (r : Nat) : Nat :=
  match d with
  | .scratch _ _ => r * t.pitch
  | .slot _ _ => 256 * r
/-- Byte offset of a scale. -/
def CopyDest.scale (d : CopyDest) (t : Tcb) (idx : Nat) (place : Nat × Nat) : Nat :=
  match d with
  | .scratch _ _ => t.destRows * t.pitch + idx
  | .slot _ _ => 16384 + 8 * place.1 + place.2
/-- The place of a tile's bytes, where they lie in a scratchpad. -/
def CopyDest.place (d : CopyDest) : Place :=
  match d with
  | .scratch aid _ => .scratch aid
  | .slot _ _ => .phys
/-- A byte that a TCST of queue q reads of its tile. -/
def State.tileByte (s : State) (q : QRef) (d : CopyDest) (off : Nat) : Byte :=
  match d with
  | .scratch aid b => s.sourceByte q (.scratch aid) (b + off)
  | .slot u o => (s.tile u).slotByte o off
/-- A byte of the destination. -/
def State.destByte (s : State) (d : CopyDest) (off : Nat) : Byte :=
  match d with
  | .scratch aid b => s.readByte (.scratch aid) (b + off)
  | .slot u o => (s.tile u).slotByte o off
/-- A byte of the destination is poisoned. -/
def State.destBad (s : State) (d : CopyDest) (off : Nat) : Bool :=
  match d with
  | .scratch aid b => s.poisoned (.scratch aid) (b + off)
  | .slot u o => (s.tile u).slotBad o off
/-- Writes bytes of the destination; a poisoned byte poisons its element (R423). -/
def State.putDest (s : State) (d : CopyDest) (cells : List (Nat × Byte × Bool)) : State :=
  let bs := cells.map (fun c => (c.1, c.2.1))
  let bad := (cells.filter (fun c => c.2.2)).map (·.1)
  match d with
  | .scratch aid b =>
    let s := s.store (.scratch aid) (bs.map (fun p => (b + p.1, p.2)))
    forEach bad s (fun s x => s.setPoison (.scratch aid) (b + x) true)
  | .slot u o => s.onTile u (fun t => (t.putSlot o bs).poisonSlot o bad)

/-- A byte that the layout unit reads is poisoned, or lies in a fenced bank that the slice has no copy of (R402, R422). -/
def State.readThroughBad (s : State) (a : Nat) : Bool := s.readsPoison .phys [a]

/-- The layout unit reads some bytes at their home slices; what misses is read through (R402). -/
def State.layoutRead (s : State) (w : Who) (addrs : List Nat) : State :=
  forEach (distinct (addrs.map lineOf)) s (fun s l => s.readThrough l (sectorsIn l addrs) w)

/-! ## Rows of TCPY (R65, R281) -/

/-- An element's code and poison, read from memory or made from PAD. -/
def State.element (s : State) (t : Tcb) (rb : Nat) (x : List Int) : Nat × Bool :=
  if !t.inside x then (t.pad % 2 ^ t.bits, false)
  else
    let ba := t.bitAddr rb x
    let n := (t.bits + 7) / 8
    (s.readNat .phys (ba / 8) n / 2 ^ (ba % 8) % 2 ^ t.bits, (runOf (ba / 8) n).any s.readThroughBad)

/-- The bytes of a destination row with their poison, from its elements: padded with zero bytes. -/
def packRow (bits pitch : Nat) (es : List (Nat × Bool)) : List (Nat × Byte × Bool) :=
  let v := ((List.range es.length).zip es).foldl (fun acc p => acc + p.2.1 * 2 ^ (bits * p.1)) 0
  ((List.range pitch).zip (toBytes pitch v)).map (fun p =>
    (p.1, p.2, (List.range ((7 + bits) / bits)).any (fun k => ((es[8 * p.1 / bits + k]?).getD (0, false)).2 &&
      decide (bits * (8 * p.1 / bits + k) < 8 * p.1 + 8))))

/-- The bytes that source row r writes with ORDER 1: one element of every destination row, and with the last row the padding. -/
def State.columnCells (s : State) (t : Tcb) (d : CopyDest) (r : Nat) (es : List (Nat × Bool)) : List (Nat × Byte × Bool) :=
  ((List.range es.length).zip es).flatMap (fun p =>
    let row := d.row t p.1
    let used := (t.tile 1 * t.bits + 7) / 8
    let body :=
      if t.bits = 4 then
        let off := row + r / 2
        let old := (s.destByte d off).toNat
        let high := if r % 2 = 1 then p.2.1 else if r + 1 = t.tile 1 then 0 else old / 16
        let low := if r % 2 = 1 then old % 16 else p.2.1
        [(off, BitVec.ofNat 8 (16 * high + low), p.2.2)]
      else
        let n := t.bits / 8
        ((List.range n).zip (toBytes n p.2.1)).map (fun b => (row + n * r + b.1, b.2, p.2.2))
    body ++ (if r + 1 = t.tile 1 then (runOf used (t.pitch - used)).map (fun j => (row + j, 0, false)) else []))

/-- The scales that source row r completes: 127 for a block outside the dimensions (R65). -/
def State.scaleCells (s : State) (t : Tcb) (d : CopyDest) (rb : Nat) (org : List Int) (r : Nat) : List (Nat × Byte × Bool) :=
  (t.blocksOf r).map (fun b =>
    let x := t.coords org b.1.1 b.1.2
    let a := t.scaleAddr rb x
    let off := d.scale t b.2.1 b.2.2
    if t.inside x then (off, s.readByte .phys a, s.readThroughBad a) else (off, 127, false))

/-- The memory bytes of source row r: those of its elements within the dimensions, and of the scales it completes. -/
def Tcb.rowAddrs (t : Tcb) (rb : Nat) (org : List Int) (r : Nat) : List Nat :=
  ((List.range (t.tile 0)).map (t.coords org r)).flatMap (fun x => if t.inside x then runOf (t.bitAddr rb x / 8) ((t.bits + 7) / 8) else []) ++
  ((t.blocksOf r).map (fun b => t.coords org b.1.1 b.1.2)).flatMap (fun x => if t.inside x then [t.scaleAddr rb x] else [])

/-- What source row r of a TCPY puts in its destination. -/
def State.rowCells (s : State) (t : Tcb) (d : CopyDest) (rb : Nat) (org : List Int) (r : Nat) : List (Nat × Byte × Bool) :=
  let es := (List.range (t.tile 0)).map (fun t0 => s.element t rb (t.coords org r t0))
  let body := if t.order = 1 then s.columnCells t d r es
    else (packRow t.bits t.pitch es).map (fun c => (d.row t r + c.1, c.2))
  body ++ s.scaleCells t d rb org r

/-- Source row r of a TCPY lands. -/
def State.loadRow (s : State) (w : Who) (t : Tcb) (d : CopyDest) (rb : Nat) (org : List Int) (r : Nat) : State :=
  let s := s.layoutRead w (t.rowAddrs rb org r)
  s.putDest d (s.rowCells t d rb org r)

/-! ## Rows of TCST -/

/-- Puts bits into a table of memory bytes under construction. -/
def State.putBits (s : State) (cells : List (Nat × Byte)) (ba bits code : Nat) : List (Nat × Byte) :=
  if bits = 4 then
    let old := ((find? (ba / 8) cells).getD (s.readByte .phys (ba / 8))).toNat
    sput (ba / 8) (BitVec.ofNat 8 (if ba % 8 = 0 then old / 16 * 16 + code else old % 16 + 16 * code)) cells
  else ((List.range (bits / 8)).zip (toBytes (bits / 8) code)).foldl (fun c p => sput (ba / 8 + p.1) p.2 c) cells

/-- Source row r of a TCST lands: each line it touches takes one write request (R133). -/
def State.storeRow (s : State) (q : QRef) (w : Who) (t : Tcb) (d : CopyDest) (rb : Nat) (org : List Int) (r : Nat) : State :=
  let at_ := fun t0 => if t.order = 1 then (d.row t t0, r) else (d.row t r, t0)
  let es := (List.range (t.tile 0)).filterMap (fun t0 =>
    let x := t.coords org r t0
    if !t.inside x then none
    else
      let p := at_ t0
      let n := (t.bits + 7) / 8
      let off := p.1 + p.2 * t.bits / 8
      let v := fromBytes ((runOf off n).map (s.tileByte q d)) / 2 ^ (p.2 * t.bits % 8) % 2 ^ t.bits
      some (t.bitAddr rb x, v, (runOf off n).any (s.destBad d)))
  let scales := (t.blocksOf r).filterMap (fun b =>
    let x := t.coords org b.1.1 b.1.2
    let off := d.scale t b.2.1 b.2.2
    if t.inside x then some (t.scaleAddr rb x, s.tileByte q d off, s.destBad d off) else none)
  let cells := es.foldl (fun c e => s.putBits c e.1 t.bits e.2.1) []
  let cells := scales.foldl (fun c e => sput e.1 e.2.1 c) cells
  let bad := (es.filter (fun e => e.2.2)).map (fun e => e.1 / 8) ++ (scales.filter (fun e => e.2.2)).map (·.1)
  forEach bad ((s.afterSource q d.place).writeAt w .phys cells) (fun s a => s.setPoison .phys a true)

/-! ## The start of a tensor copy (R66, R355, R357) -/

/-- The operand of a tensor copy: its TCB's address. -/
def tcbVa (e : Entry) : DWord := ((e.hdls.headD {}).base) + ((e.regs.getD 1 0) ++ (e.regs.getD 0 0))

/-- The tile origin. -/
def originOf (e : Entry) : List Int := (List.range 4).map (fun i => (e.regs.getD (4 + i) 0).toInt)

/-- The fault of a handle's state when a copy uses it (R353, R355). -/
def hdlFault (h : Handle) : Option (Nat × DWord) :=
  match h.st with
  | .valid => none
  | .revoked => some (0x06, h.base)
  | _ => some (0x07, h.base)

/-- The fault of a range of a handle's page, read or written. -/
def State.rangeFault (s : State) (h : Handle) (u : Nat) (ea n : Nat) (write : Bool) : Option (Nat × DWord) :=
  match hdlFault h with
  | some x => some x
  | none =>
    let x := s.globalBytes h u ea n
    if !(if write then h.leaf.w else h.leaf.r) then some (0x08, BitVec.ofNat 64 ea)
    else if x.err.isSome || s.farOff (x.addrs.headD 0) then some (0x0F, BitVec.ofNat 64 ea)
    else none

/-- The extended address of a region's entry, where its package answers (R357, R438-R440). -/
def State.regionAt (s : State) (asid id : Nat) : Option Nat :=
  (s.extend ((s.space asid).regtab + 16 * id)).bind (fun pa => if s.farOff pa then none else some pa)

/-- The region table's entry lies in another package, which answers its read with an error (R438-R440). -/
def State.regionLost (s : State) (asid id : Nat) : Bool :=
  id < (s.space asid).regcnt && ((s.extend ((s.space asid).regtab + 16 * id)).map s.farOff).getD false

/-- The region of an id in an address space, with its W and R bits (R357): physical base and bytes. A region that lies in a fabric window
is taken to lie outside the partition (log 99). -/
def State.regionOf (s : State) (asid id : Nat) : Option (Nat × Nat × Bool × Bool) :=
  let a := s.space asid
  if a.regcnt ≤ id then none
  else match s.regionAt asid id with
    | none => none
    | some pa =>
      let lo := s.readNat .phys pa 8
      let hi := s.readNat .phys (pa + 8) 8
      let base := bitsOf lo 47 16 * 65536
      let size := bitsOf hi 36 16 * 65536
      let last := base + size - 1
      let ok := lo.testBit 0 && bitsOf lo 15 3 == 0 && bitsOf lo 63 48 == 0 && hi % 65536 == 0 && hi / 2 ^ 37 == 0 && size != 0 &&
        base / 2 ^ 37 == last / 2 ^ 37 && isLocal base && isLocal last &&
        (List.range (last / 2 ^ 34 - base / 2 ^ 34 + 1)).all (fun i => granted a ((base / 2 ^ 34 + i) * 2 ^ 34))
      if ok then some (base, size, lo.testBit 2, lo.testBit 1) else none

/-- The destination of a tensor copy. -/
def State.destOf (s : State) (q : QRef) (e : Entry) : CopyDest :=
  let x := (e.regs.getD 2 0).toNat
  match slotOfEntry e with
  | some o => .slot (unitOfQueue q) o
  | none => .scratch (s.team (s.queueTeam q)).aid x

/-- The layout causes of R281 and R65, for a destination. -/
def State.layoutBad (s : State) (q : QRef) (e : Entry) (t : Tcb) : Bool :=
  let org := originOf e
  (t.mx && org.getD t.saxis 0 % 32 != 0) ||
  match s.destOf q e with
  | .slot _ _ => 64 < t.destRows || 256 < t.pitch || (t.mx && (t.order != t.saxis || 8 < t.rowElems / 32))
  | .scratch _ b => (s.team (s.queueTeam q)).alloc < b + t.bytes

/-- A store of the tile to memory: TCST. -/
def isTcst (i : Instr) : Bool :=
  match i with
  | .tcst _ => true
  | _ => false

/-- The layout unit reads the TCB of an entry that has no snapshot yet, and its region entry (R402). -/
def State.readTcb (s : State) (q : QRef) (e : Entry) : State :=
  let h := e.hdls.headD {}
  let w := copyWho (unitOfQueue q)
  let va := (tcbVa e).toNat
  let region := fun (s : State) (b : List Byte) =>
    match s.regionAt (s.asidOf e.tid) (tcbOf b).region with
    | some pa => s.layoutRead w (runOf pa 16)
    | none => s
  match e.snap, s.rangeFault h (unitOfQueue q) va 128 false with
  | some b, _ => region s b
  | none, some _ => s
  | none, none =>
    let addrs := (s.globalBytes h (unitOfQueue q) va 128).addrs
    let s := s.layoutRead w addrs
    region s (addrs.map (s.readByte .phys))

/-- The reads of a TCB that has no snapshot yet and of its region's entry reach their ends (R408, R412). -/
def State.tcbReach (s : State) (q : QRef) (e : Entry) : Bool :=
  let u := unitOfQueue q
  let tcb := (s.globalBytes (e.hdls.headD {}) u (tcbVa e).toNat 128).addrs
  let region := fun (b : List Byte) => match s.regionAt (s.asidOf e.tid) (tcbOf b).region with
    | some pa => s.reaches u .phys (runOf pa 16)
    | none => true
  match e.snap with
  | some b => region b
  | none => (s.rangeFault (e.hdls.headD {}) u (tcbVa e).toNat 128 false).isSome ||
      (s.reaches u .phys tcb && region (tcb.map (s.readByte .phys)))

/-- The row of a tensor copy reaches the home slices of its bytes (R408, R412). -/
def State.rowReach (s : State) (q : QRef) (e : Entry) : Bool :=
  match e.snap, e.region with
  | some b, some (rb, _) => s.reaches (unitOfQueue q) .phys ((tcbOf b).rowAddrs rb (originOf e) e.upc)
  | _, _ => true

/-- The TCB snapshot is taken once (R66); then the TCB, the region and the layout are checked. The entry with what was read,
and the fault. -/
def State.beginTensor (s : State) (q : QRef) (e : Entry) : Entry × Option (Nat × DWord) :=
  let h := e.hdls.headD {}
  let va := tcbVa e
  let u := unitOfQueue q
  match hdlFault h with
  | some x => (e, some x)
  | none =>
    let read := match e.snap with
      | some b => Sum.inl b
      | none => match s.rangeFault h u va.toNat 128 false with
        | some x => Sum.inr x
        | none =>
          let addrs := (s.globalBytes h u va.toNat 128).addrs
          if addrs.any s.readThroughBad then Sum.inr (0x10, va) else Sum.inl (addrs.map (s.readByte .phys))
    match read with
    | .inr x => (e, some x)
    | .inl b =>
      let e := { e with snap := some b }
      let t := tcbOf b
      if !tcbOk b then (e, some (0x05, va))
      else if s.regionLost (s.asidOf e.tid) t.region then (e, some (0x0F, va))
      else match s.regionOf (s.asidOf e.tid) t.region with
        | none => (e, some (0x05, va))
        | some (base, size, w, r) =>
          if !(if isTcst e.instr then w else r) then (e, some (0x08, va))
          else if size < t.extent || s.layoutBad q e t then (e, some (0x05, va))
          else ({ e with region := some (base, size) }, none)

/-- The rows of a tensor copy whose snapshot is taken. -/
def rowsOf (e : Entry) : Nat := ((e.snap.map tcbOf).map Tcb.rows).getD 0

/-- The fill mark after r rows of a slot copy (R57, R281). -/
def markAfter (t : Tcb) (r : Nat) : Nat :=
  if t.order = 1 then Nat.min 16 (r * t.bits / 128) else if r = t.rows then 16 else 0

/-- The next row of a tensor copy lands: progress and fill mark move on. -/
def State.landRow (s : State) (q : QRef) (e : Entry) : State :=
  match e.snap, e.region with
  | some b, some (rb, _) =>
    let t := tcbOf b
    let d := s.destOf q e
    let r := e.upc
    let w := copyWho (unitOfQueue q)
    let s := if isTcst e.instr then s.storeRow q w t d rb (originOf e) r else s.loadRow w t d rb (originOf e) r
    let s := match d with
      | .slot u o => if isTcst e.instr then s else s.onTile u (fun x => x.setMark o (markAfter t (r + 1)))
      | .scratch _ _ => s
    s.onEntry q e.dno (fun e => { e with upc := r + 1, finished := decide (t.rows ≤ r + 1) })
  | _, _ => s

/-! ## Flat copies (R282, R283) -/

/-- Space codes of a flat copy: destination, source. -/
def flatSpaces (e : Entry) : Nat × Nat :=
  match e.instr with
  | .cpy f => (bitsOf f.c.toNat 5 3, bitsOf f.c.toNat 2 0)
  | .cpym f => (2, bitsOf f.c.toNat 2 0)
  | _ => (0, 0)

/-- The byte count. -/
def flatCount (e : Entry) : Nat := (e.regs.getD 4 0).toNat
/-- Pieces of 128 bytes. -/
def flatPieces (e : Entry) : Nat := (flatCount e + 127) / 128
/-- Bytes of piece k. -/
def pieceLen (e : Entry) (k : Nat) : Nat := Nat.min 128 (flatCount e - 128 * k)

/-- One side of a copy at byte `off` of it: the bytes, or the fault (R219, R355, R391, R414). -/
def State.flatSide (s : State) (q : QRef) (e : Entry) (sp : Nat) (h : Handle) (r off n : Nat) (write : Bool) :
    Sum Access (Nat × DWord) :=
  let a := (e.regs.getD r 0).toNat + off
  let u := unitOfQueue q
  if sp = 4 then
    let ea := (h.base + ((e.regs.getD (r + 1) 0) ++ (e.regs.getD r 0))).toNat + off
    match s.rangeFault h u ea n write with
    | some x => .inr x
    | none => .inl (s.globalBytes h u ea n)
  else if sp = 1 then .inl { place := .scratch (s.team (s.queueTeam q)).aid, addrs := runOf a n, va := a }
  else if sp = 2 && write then
    if (s.offError (dieOf u)).isSome then .inr (0x0F, BitVec.ofNat 64 a)
    else .inl { place := .scratch (e.aids.headD 0), addrs := runOf (a % 2 ^ 21) n, va := a }
  else match s.spaceBytes e.tid sp a n with
    | none => .inr (0x05, BitVec.ofNat 64 a)
    | some x =>
      let fenced := match x.place with | .staging d sl => (s.die d).synslc.getLsbD sl | _ => false
      if x.err.isSome || fenced then .inr (0x0F, BitVec.ofNat 64 a) else .inl x

/-- The channel of a bridge copy. -/
def bridgeOf (e : Entry) : Option Nat := if (flatSpaces e).1 = 5 then some ((e.regs.getD 2 0).toNat % 128) else none

/-- The sides of piece k: the source bytes and the destination, or the first fault. -/
def State.flatSides (s : State) (q : QRef) (e : Entry) (k : Nat) : Sum (Access × Access) (Nat × DWord) :=
  let sp := flatSpaces e
  let n := pieceLen e k
  match s.flatSide q e sp.2 (e.hdls.getD 1 {}) 0 (128 * k) n false with
  | .inr x => .inr x
  | .inl a =>
    if sp.1 = 5 then .inl (a, {})
    else match s.flatSide q e sp.1 (e.hdls.getD 0 {}) 2 (128 * k) n true with
      | .inr x => .inr x
      | .inl b => .inl (a, b)

/-- What stops a flat copy before its next piece. -/
def State.flatFault (s : State) (q : QRef) (e : Entry) : Option (Nat × DWord) :=
  match s.flatSides q e e.upc with
  | .inr x => some x
  | .inl _ => none

/-- The next piece of a flat copy reaches the ends of both sides (R408, R412); a bridge copy's beats are packets of their own. -/
def State.pieceReach (s : State) (q : QRef) (e : Entry) : Bool :=
  let u := unitOfQueue q
  match s.flatSides q e e.upc with
  | .inr _ => true
  | .inl (a, b) => s.reaches u a.place a.addrs &&
      (match e.instr with
       | .cpym _ => e.aids.all (fun aid => s.reaches u (.scratch aid) b.addrs)
       | _ => (bridgeOf e).isSome || s.reaches u b.place b.addrs)

/-- The die whose error reply stops a flat copy, where it is one's: that of the staging or scratchpad that a side names (R414, R424). -/
def State.errorDie (s : State) (q : QRef) (e : Entry) : Option Nat :=
  let sp := flatSpaces e
  let side := fun (c r : Nat) => if c = 3 then some (bitsOf (e.regs.getD r 0).toNat 30 28) else if c = 2 then some (dieOf (unitOfQueue q)) else none
  match s.flatSide q e sp.2 (e.hdls.getD 1 {}) 0 (128 * e.upc) (pieceLen e e.upc) false with
  | .inr _ => side sp.2 0
  | .inl _ => side sp.1 2

/-- Writes bytes of a place with their poison: one write request for each line (R133, R423). -/
def State.writePoison (s : State) (w : Who) (pl : Place) (cells : List (Nat × Byte × Bool)) : State :=
  let s := s.writeAt w pl (cells.map (fun c => (c.1, c.2.1)))
  forEach (cells.filter (fun c => c.2.2)) s (fun s c => s.setPoison pl c.1 true)

/-- Counts a piece that moves through a handle (R350). -/
def State.heatPiece (s : State) (q : QRef) (h : Handle) (x : Access) : State :=
  if x.place == .phys then s.heat (unitOfQueue q) h.tlb else s

/-- The beats of a piece that enters a channel. -/
def beatsOf (b : Band) (e : Entry) (cells : List (Byte × Bool)) (last : Bool) : List Beat :=
  (List.range (cells.length / 16)).map (fun i =>
    let c := (cells.drop (16 * i)).take 16
    { data := c.map (·.1), bad := (List.range 4).filter (fun j => ((c.drop (4 * j)).take 4).any (·.2)), team := b.team,
      index := b.index, dno := e.dno, last := last && decide (i + 1 = cells.length / 16) })

/-- Beats leave for their channel, each as a packet of its own (R283, R293, R408). -/
def State.sendBeats (s : State) (u c : Nat) (bs : List Beat) : State :=
  forEach bs s (fun s b =>
    let (id, s) := s.fresh1
    let ch := (find? c s.channels).getD {}
    { s with channels := sput c { ch with sent := ch.sent ++ [(id, b)] } s.channels }.sendBeat id u c)

/-- The beats that the network no longer carries have reached their channels, behind those already there. -/
def State.beatsArrive (s : State) : State :=
  { s with channels := s.channels.map (fun (p : Nat × Channel) =>
      (p.1, { p.2 with sent := p.2.sent.filter (fun x => s.carries .brg x.1),
                       beats := p.2.beats ++ (p.2.sent.filter (fun x => !s.carries .brg x.1)).map (·.2) })) }

/-- A channel takes no more beats: its stall reaches the sender's copy engine (R72). How many beats the bridge holds is not stated. -/
def State.channelFull (s : State) (c : Nat) : Bool :=
  let ch := (find? c s.channels).getD {}
  decide (Config.linkBuffer < ch.sent.length + ch.beats.length)

/-- Beats of a team's copy have not landed yet. -/
def State.beatsLeft (s : State) (k i dno : Nat) : Bool :=
  s.channels.any (fun p => (p.2.sent.map (·.2) ++ p.2.beats).any (fun b => b.team == k && b.index == i && b.dno == dno))

/-- The next piece of a flat copy is read and lands; a bridge copy's piece leaves as beats for its channel. -/
def State.landPiece (s : State) (q : QRef) (e : Entry) : State :=
  match s.flatSides q e e.upc with
  | .inr _ => s
  | .inl (a, b) =>
    let w := copyWho (unitOfQueue q)
    let s := (s.fillFor w a.place a.addrs).heatPiece q (e.hdls.getD 1 {}) a
    let bytes := a.addrs.map (fun x => (s.sourceByte q a.place x, s.readsPoison a.place [x]))
    let s := s.afterSource q a.place
    let done := decide (flatPieces e ≤ e.upc + 1)
    match bridgeOf e with
    | some c =>
      let s := s.onEntry q e.dno (fun e => { e with upc := e.upc + 1 })
      s.sendBeats (unitOfQueue q) c (beatsOf (s.band (bandOf e.tid)) e bytes done)
    | none =>
      let cells := (b.addrs.zip bytes).map (fun p => (p.1, p.2))
      let s := match e.instr with
        | .cpym _ => forEach e.aids s (fun s aid => s.writePoison w (.scratch aid) cells)
        | _ => (s.writePoison w b.place cells).heatPiece q (e.hdls.getD 0 {}) b
      s.onEntry q e.dno (fun e => { e with upc := e.upc + 1, finished := done })

/-- An earlier copy of the same queue has bytes left for the same channel (R293). -/
def State.bridgeHeld (s : State) (q : QRef) (e : Entry) : Bool :=
  (bridgeOf e).isSome && (s.queue q).entries.any (fun x => x.dno < e.dno && bridgeOf x == bridgeOf e && x.upc < flatPieces x)

/-! ## Bridge beats (R71, R72) -/

/-- The ring after a beat of 16 bytes. -/
def Ring.take (r : Ring) : Ring :=
  if r.part + 16 < r.size then { r with part := r.part + 16 }
  else { r with part := 0, filled := r.filled + 1, fill := (r.fill + 1) % r.count }

/-- A bridge copy has handed over all its pieces: it can meet no fault any more, and ends with its last beat. -/
def Entry.handedOver (e : Entry) : Bool := (bridgeOf e).isSome && decide (flatPieces e ≤ e.upc)

/-- The copy of a beat is done (R293), where its band is resident; where its team is out, it is done when the team is back (R326). -/
def State.beatDone (s : State) (b : Beat) : State :=
  match (s.team b.team).bands.find? (fun x => (s.band x).index == b.index) with
  | some bid => s.onEntry (.band bid) b.dno (fun e => { e with finished := true })
  | none => s

/-- BRIDGE_BEAT_LAND (R71): the oldest beat of channel `chan` lands in the fill slot of its ring, if the ring has room
and its team is not out (R77); the copy
of the last beat is then done (R293). -/
def execBridgeBeatLand (s : State) : Host.Outcome State Fault Refusal :=
  let ch := (find? s.ev.chan s.channels).getD {}
  match ch.bound, ch.beats with
  | some (u, q), b :: rest =>
    let t := s.tile u
    match find? q t.rings with
    | none => .next s
    | some r =>
      if !r.hasRoom || r.chan != some s.ev.chan || (s.team ch.team).place != .resident u then .next s
      else
        let a := r.base + r.fill * r.size + r.part
        let aid := s.tileAid u
        let s := s.store (.scratch aid) (cellsAt a b.data)
        let s := forEach b.bad s (fun s j => s.setPoison (.scratch aid) (a + 4 * j) true)
        let s := s.onTile u (fun t => { t with rings := sput q r.take t.rings })
        let s := { s with channels := sput s.ev.chan { ch with beats := rest } s.channels }
        .next (if b.last then s.beatDone b else s)
  | _, _ => .next s

/-! ## BVH refits (R271) -/

/-- The address of list entry i. -/
def refitAddr (e : Entry) (i : Nat) : Nat :=
  ((e.hdls.headD {}).base + ((e.regs.getD 1 0) ++ (e.regs.getD 0 0))).toNat + 8 * i

/-- Bytes of a handle's page, for an engine. -/
def State.pageBytesAt (s : State) (h : Handle) (u va n : Nat) : List Nat := (s.globalBytes h u va n).addrs

/-- A node cause of R268 for a reference of a kind, and of the read itself; a list entry of kind 0 or 2 meets 0x05 (R271 gives no cause:
log 112). -/
def State.nodeFault (s : State) (h : Handle) (u : Nat) (ref : DWord) (box write : Bool) : Option (Nat × DWord) :=
  let va := pageBase h.leaf h.base.toNat + refOff ref
  let v := BitVec.ofNat 64 va
  match nodeCheck h 0 ref with
  | .trap c x => some (c, x)
  | .pass =>
    if box && refKind ref != 1 then some (0x05, v)
    else if write && !h.leaf.w then some (0x08, v)
    else if (s.globalBytes h u va 128).err.isSome || s.farOff ((s.pageBytesAt h u va 128).headD 0) then some (0x0F, v)
    else if s.readsPoison .phys (s.pageBytesAt h u va 128) then some (0x10, v)
    else if refKind ref = 2 then
      let n := ((s.pageBytesAt h u va 128).map (s.readByte .phys)).getD 80 0
      if n.toNat = 0 ∨ 2 < n.toNat then some (0x05, v) else none
    else none
  | _ => none

/-- The bytes of a node. -/
def State.nodeBytes (s : State) (h : Handle) (u : Nat) (ref : DWord) : List Byte :=
  (s.pageBytesAt h u (pageBase h.leaf h.base.toNat + refOff ref) 128).map (s.readByte .phys)

/-- The reference of list entry i. -/
def State.refitRef (s : State) (u : Nat) (e : Entry) (i : Nat) : DWord :=
  BitVec.ofNat 64 (fromBytes ((s.pageBytesAt (e.hdls.headD {}) u (refitAddr e i) 8).map (s.readByte .phys)))

/-- A node's page cannot be reached over the fabric, or refuses (R438, R439). -/
def State.refitRemote (s : State) (q : QRef) (e : Entry) : Option DWord :=
  let h := e.hdls.headD {}
  let va := refitAddr e e.upc
  if (remotePkg ((s.pageBytesAt h (unitOfQueue q) va 8).headD 0)).isSome then some (BitVec.ofNat 64 va) else none

/-- Child c of a box node's bytes: its reference. -/
def childRef (n : List Byte) (c : Nat) : DWord := nodeWord n (24 + 2 * c + 1) ++ nodeWord n (24 + 2 * c)

/-- The reads of a refit's next entry at their home slices: the list entry, its node, and the node's children. -/
def State.refitReads (s : State) (q : QRef) (e : Entry) : State :=
  let h := e.hdls.headD {}
  let u := unitOfQueue q
  let la := refitAddr e e.upc
  let node := fun (s : State) (ref : DWord) => match nodeCheck h 0 ref with
    | .pass => s.fillFor (copyWho u) .phys (s.pageBytesAt h u (pageBase h.leaf h.base.toNat + refOff ref) 128)
    | _ => s
  if (s.rangeFault h u la 8 false).isSome then s
  else
    let s := s.fillFor (copyWho u) .phys (s.pageBytesAt h u la 8)
    let ref := s.refitRef u e e.upc
    let s := node s ref
    match nodeCheck h 0 ref with
    | .pass =>
      let n := s.nodeBytes h u ref
      forEach ((List.range 4).filter (fun c => refKind (childRef n c) != 0)) s (fun s c => node s (childRef n c))
    | _ => s

/-- The reads of a refit's next entry, and the write of its node, reach their ends (R408, R412). -/
def State.refitReach (s : State) (q : QRef) (e : Entry) : Bool :=
  let h := e.hdls.headD {}
  let u := unitOfQueue q
  let la := refitAddr e e.upc
  let node := fun (ref : DWord) => match nodeCheck h 0 ref with
    | .pass => s.reaches u .phys (s.pageBytesAt h u (pageBase h.leaf h.base.toNat + refOff ref) 128)
    | _ => true
  let ref := s.refitRef u e e.upc
  (s.rangeFault h u la 8 false).isSome || (s.reaches u .phys (s.pageBytesAt h u la 8) && node ref &&
    (match nodeCheck h 0 ref with
     | .pass => (List.range 4).all (fun c => let r := childRef (s.nodeBytes h u ref) c; refKind r == 0 || node r)
     | _ => true))

/-- What stops a refit before its next entry. -/
def State.refitFault (s : State) (q : QRef) (e : Entry) : Option (Nat × DWord) :=
  let h := e.hdls.headD {}
  let u := unitOfQueue q
  let la := refitAddr e e.upc
  match s.rangeFault h u la 8 false with
  | some x => some x
  | none =>
    if s.readsPoison .phys (s.pageBytesAt h u la 8) then some (0x10, BitVec.ofNat 64 la)
    else
      let ref := s.refitRef u e e.upc
      match s.nodeFault h u ref true true with
      | some x => some x
      | none =>
        let n := s.nodeBytes h u ref
        (List.range 4).findSome? (fun c =>
          let r := childRef n c
          if refKind r = 0 then none else s.nodeFault h u r false false)

/-- The least or greatest of some FP32 words; an empty list gives an infinity. -/
def boundOf (greater : Bool) (xs : List Word) : Word :=
  if xs.any isNanW then Config.refitBound greater xs
  else xs.foldl (fun m x => BitVec.ofNat 32 (pickCode fp32 greater m.toNat x.toNat)) (if greater then 0xFF800000 else 0x7F800000)

/-- The points or bounds that a child's node contributes on an axis: lows and highs. -/
def childSpan (n : List Byte) (leaf : Bool) (axis : Nat) : List Word × List Word :=
  if leaf then
    let p := (List.range (n.getD 80 0).toNat).flatMap (fun t => (List.range 3).map (fun v => nodeWord n (10 * t + 3 * v + axis)))
    (p, p)
  else
    let cs := (List.range 4).filter (fun c => refKind (childRef n c) != 0)
    (cs.map (fun c => nodeWord n (6 * c + axis)), cs.map (fun c => nodeWord n (6 * c + 3 + axis)))

/-- The new bounds of child c of a node: minima then maxima; an empty child keeps its own. -/
def State.newBounds (s : State) (h : Handle) (u : Nat) (n : List Byte) (c : Nat) : List Word :=
  let r := childRef n c
  if refKind r = 0 then (List.range 6).map (fun i => nodeWord n (6 * c + i))
  else
    let m := s.nodeBytes h u r
    let span := fun a => childSpan m (refKind r == 2) a
    (List.range 3).map (fun a => boundOf false (span a).1) ++ (List.range 3).map (fun a => boundOf true (span a).2)

/-- The next list entry of a refit: one line write request (R133). -/
def State.refitNode (s : State) (q : QRef) (e : Entry) : State :=
  let h := e.hdls.headD {}
  let u := unitOfQueue q
  let ref := s.refitRef u e e.upc
  let n := s.nodeBytes h u ref
  let addrs := s.pageBytesAt h u (pageBase h.leaf h.base.toNat + refOff ref) 96
  let bytes := (List.range 4).flatMap (fun c => (s.newBounds h u n c).flatMap (fun w => toBytes 4 w.toNat))
  let s := (s.writeAt (copyWho u) .phys (addrs.zip bytes)).heat u h.tlb
  s.onEntry q e.dno (fun e => { e with upc := e.upc + 1, finished := decide ((e.regs.getD 2 0).toNat ≤ e.upc + 1) })

end Sys2Proof.Machine
end

