-- ==== Sys2Proof/Machine/Sync.lean ====
section
/-!
DEFINITION. Barriers and the launch-level instructions (07 R239-R251; 01 R29, R36-R41), and the events that end their waits.
-/

namespace Sys2Proof.Machine

/-! ## Barriers (R239-R245) -/

/-- The code of a barrier kind in TVAL of trap 0x0E (R313). -/
def BarKind.code : BarKind → Nat
  | .team => 0
  | .cluster => 1
  | .launch => 2

/-- The scope of an arrival's release (R128). -/
def BarKind.scope : BarKind → Nat
  | .team => 2
  | .cluster => 3
  | .launch => 5

/-- The launch of the thread declares barriers of the kind (R242, R243). -/
def State.declares (s : State) (tid : Nat) (kind : BarKind) : Bool :=
  let d := (s.launch (s.lidOf tid)).desc
  match kind with
  | .team => true
  | .cluster => 2 ≤ d.cgroup
  | .launch => d.pkgbar

/-- A release on all streams at a scope: a deferred store error falls due (R221), then the thread stalls until R122 holds. -/
def State.releaseAll (s : State) (tid scope : Nat) : Check :=
  (s.storeError tid (fun _ => true)).andThen (if s.meets tid (fun _ => true) scope then .pass else .wait)

/-- The checks of a barrier word: its launch (R242, R243), a deferred store error, brokenness with `.trap` (R244), and the
release of an arrival (R128). -/
def barCheck (kind : BarKind) (f : IFmt) (s : State) (tid : Nat) : Check :=
  if !s.declares tid kind then .trap 0x01 s.cur.word
  else
    let broken := s.barBroken kind (s.teamOf tid) (barOf f)
    (s.storeError tid (fun _ => true)).andThen
      (if broken && f.mod.getLsbD 0 then .trap 0x0E (BitVec.ofNat 64 (16 * kind.code + barOf f))
       else if broken then .pass
       else s.releaseAll tid kind.scope)

/-- The barrier completes for a thread at once, with a status (R240): a leg of its team ends (R30). -/
def State.passBarrier (s : State) (tid : Nat) (f : IFmt) (status : Nat) : State :=
  ((s.onThread tid (fun t => { t with pc := s.cur.pc })).endLeg tid (carryOf f) f.d.toNat status).teamLegEnds (s.teamOf tid)

/-- The thread arrives at a barrier in its current generation (R29). -/
def State.arrive (s : State) (kind : BarKind) (tid bar : Nat) : State :=
  let r := s.rid tid
  s.onBar kind (s.teamOf tid) bar (fun b => { b with arrived := if b.arrived.contains r then b.arrived else b.arrived ++ [r] })

/-- The thread waits at a barrier for a generation. -/
def State.waitBarrier (s : State) (kind : BarKind) (tid : Nat) (f : IFmt) (gen : Bool) : State :=
  s.waitHere tid (.barrier kind (barOf f) gen (carryOf f) f.d.toNat (f.mod.getLsbD 0) s.clock)

/-- The arrival of a thread's BARA at a barrier, if it is recorded (R241). -/
def State.recorded (s : State) (tid bar : Nat) : Option Bool := find? bar (s.thread tid).bara

/-- Forgets a recorded arrival. -/
def State.unrecord (s : State) (tid bar : Nat) : State :=
  s.onThread tid (fun t => { t with bara := t.bara.filter (fun p => p.1 != bar) })

/-- A thread at a barrier word (R241-R244): broken barriers complete with status 1; BARW observes a recorded arrival, and BAR
waits for one of the current generation; otherwise the thread arrives and waits. The threads of a bundle arrive together. -/
def State.barrierAt (s : State) (kind : BarKind) (observes : Bool) (f : IFmt) (tid : Nat) : State :=
  let k := s.teamOf tid
  let bar := barOf f
  if s.barBroken kind k bar then s.passBarrier tid f 1
  else
    let gen := (s.barState kind k bar).gen
    match (if kind == .team then s.recorded tid bar else none) with
    | some g =>
      if g == gen then s.waitBarrier kind tid f gen
      else if observes then (s.unrecord tid bar).passBarrier tid f 0
      else ((s.unrecord tid bar).arrive kind tid bar).waitBarrier kind tid f gen
    | none => (s.arrive kind tid bar).waitBarrier kind tid f gen

/-- A barrier word that ends a leg. -/
def barWord (i : Instr) (kind : BarKind) (observes : Bool) (f : IFmt) (s : State) : Host.Outcome State Fault Refusal :=
  .next (perform i s (barCheck kind f) (fun x tids =>
    (forEach tids x (fun y t => y.barrierAt kind observes f t)).tryBarrier kind (x.teamOf (tids.headD 0)) (barOf f)))

/-- BAR (R241). -/
def execBar (f : IFmt) (s : State) : Host.Outcome State Fault Refusal := barWord (.bar f) .team false f s
/-- BARW (R241). -/
def execBarw (f : IFmt) (s : State) : Host.Outcome State Fault Refusal := barWord (.barw f) .team true f s
/-- CBAR (R242). -/
def execCbar (f : IFmt) (s : State) : Host.Outcome State Fault Refusal := barWord (.cbar f) .cluster false f s
/-- LBAR (R243). -/
def execLbar (f : IFmt) (s : State) : Host.Outcome State Fault Refusal := barWord (.lbar f) .launch false f s

/-- BARA of a thread (R241): it arrives, records the generation and goes on. -/
def State.arriveOnly (s : State) (bar tid : Nat) : State :=
  let k := s.teamOf tid
  let gen := (s.barState .team k bar).gen
  let s := s.arrive .team tid bar
  s.onThread tid (fun t => { t with bara := sput bar gen t.bara })

/-- BARA (R241). -/
def execBara (f : IFmt) (s : State) : Host.Outcome State Fault Refusal :=
  .next (perform (.bara f) s (fun x t => x.releaseAll t 2) (fun x tids =>
    (forEach tids x (fun y t => y.arriveOnly (barOf f) t)).tryBarrier .team (x.teamOf (tids.headD 0)) (barOf f)))

/-! ## Fetch-work (R37, R38, R246) -/

/-- The mailboxes of a team's bands. -/
def State.boxesOf (s : State) (k : Nat) : List Mailbox := (s.team k).bands.flatMap (fun b => (s.band b).boxes)

/-- FETCHW's checks (R246): alignment, bound; it waits for a place among four, for a delivery to the same mailbox, and for the thread's own
accesses to the mailbox. Where the mailbox holds a withdrawn team, it is a release for the writes of the band that fetched that team
(R38): a deferred store error falls due (R221), then it waits for those writes. -/
def fetchwCheck (f : IFmt) (s : State) (tid : Nat) : Check :=
  let t := s.thread tid
  let a := (t.reg f.a.toNat).toNat
  let k := s.teamOf tid
  let boxes := s.boxesOf k
  let mine := boxes.filter (fun m => m.addr == a)
  let own := s.reqs.any (fun q => q.of tid && !q.performed && q.place == .scratch (s.team k).aid &&
    (q.bytesOf tid).any (fun x => a ≤ x && x < a + 16))
  (firstTrap [(a % 16 != 0, 0x04, BitVec.ofNat 64 a), (!decide (a + 16 ≤ (s.team k).alloc), 0x05, BitVec.ofNat 64 a)]).andThen
    ((if mine.any (·.holds) then s.storeError tid (fun _ => true) else .pass).andThen
      (if 4 ≤ ((s.band (bandOf tid)).boxes.filter (·.pending)).length || mine.any (·.pending) || own ||
          (s.team k).bands.any (fun b => (s.band b).boxes.any (fun m => m.addr == a && m.holds) && !(s.bandWrites b).isEmpty)
        then .wait else .pass))

/-- FETCHW of a thread: a withdrawn team that the mailbox holds is counted, the ready word is cleared, and the request goes to
the distributor. -/
def State.issueFetchw (s : State) (f : IFmt) (tid : Nat) : State :=
  let t := s.thread tid
  let a := (t.reg f.a.toNat).toNat
  let k := s.teamOf tid
  let held := (s.boxesOf k).filter (fun m => m.addr == a && m.holds)
  let s := forEach held s (fun s m => s.launchDec m.lid 1)
  let s := forEach (s.team k).bands s (fun s b => s.onBand b (fun x => { x with boxes := x.boxes.filter (fun m => m.addr != a) }))
  let (id, s) := s.fresh1
  let m : Mailbox := { id := id, lid := 2 ^ 32 * s.ctxOf tid + (t.reg f.d.toNat).toNat, addr := a, pending := true, holds := false }
  let s := s.onBand (bandOf tid) (fun b => { b with boxes := b.boxes ++ [m] })
  s.store (.scratch (s.team k).aid) (cellsAt a (toBytes 4 0))

/-- FETCHW (R246). -/
def execFetchw (f : IFmt) (s : State) : Host.Outcome State Fault Refusal :=
  .next (performEach (.fetchw f) s (fetchwCheck f) (fun x t => x.issueFetchw f t))

/-- Coordinates of a linear team index (R365). -/
def coordsOf (d : Desc) (i : Nat) : Nat × Nat × Nat := (i % d.gx, i / d.gx % d.gy, i / d.gx / d.gy)

/-- A not-yet-placed team of a launch is withdrawn (R37): a returned one, else the next in index order; its index. -/
def State.withdrawTeam (s : State) (lid : Nat) : Option (Nat × State) :=
  match s.teams.find? (fun p => p.2.lid == lid && p.2.place == .returned) with
  | some p => some (p.2.index, s.onTeam p.1 (fun t => { t with place := .gone, done := true }))
  | none =>
    let l := s.launch lid
    if l.next < l.total then some (l.next, s.onLaunch lid (fun l => { l with next := l.next + 1 })) else none

/-- FETCHW_DELIVERY (R37): the distributor answers request `id` of band `bid`. -/
def execFetchwDelivery (s : State) : Host.Outcome State Fault Refusal :=
  let bid := s.ev.bid
  match (s.band bid).boxes.find? (fun m => m.id == s.ev.id && m.pending) with
  | none => .next s
  | some m =>
    let l := s.launch m.lid
    let aid := (s.team (s.band bid).team).aid
    let answer := fun (s : State) (holds : Bool) =>
      s.onBand bid (fun b => { b with boxes := b.boxes.map (fun x => if x.id = m.id then { x with pending := false, holds := holds } else x) })
    match (if (find? m.lid s.launches).isNone || l.cancelled || l.desc.tensor then none else s.withdrawTeam m.lid) with
    | some (i, s') =>
      let c := coordsOf l.desc i
      .next ((answer s' true).store (.scratch aid)
        (cellsAt m.addr (toBytes 4 1 ++ toBytes 4 c.1 ++ toBytes 4 c.2.1 ++ toBytes 4 c.2.2)))
    | none => .next ((answer s false).store (.scratch aid) (cellsAt m.addr (toBytes 4 2)))

/-! ## Early start (R39-R41, R247, R248) -/

/-- NOTIFY (R247). -/
def execNotify (f : IFmt) (s : State) : Host.Outcome State Fault Refusal :=
  .next (perform (.notify f) s noCheck (fun x tids => forEach tids x (fun y t => y.hint (y.teamOf t))))

/-- Every predecessor of a thread's launch has completed, and no write of a thread of one is outstanding: not in this package nor, as its
writes are to be visible at package scope, unacknowledged by another (R40, R299). -/
def State.predsDone (s : State) (tid : Nat) : Bool :=
  let l := s.launch (s.lidOf tid)
  let preds := l.desc.preds.map (fun p => 2 ^ 32 * l.ctx + p)
  preds.all (fun p => (s.launch p).remaining == 0) &&
  s.reqs.all (fun r => !(r.writes && preds.contains (s.team r.team).lid))

/-- WPRED's checks: a deferred store error (R221); the thread stalls until its earlier reads are performed (R120). -/
def wpredCheck (s : State) (tid : Nat) : Check :=
  (s.storeError tid (fun _ => true)).andThen (if s.readsDone tid (fun _ => true) then .pass else .wait)

/-- WPRED (R248): past the word at once where every predecessor is done, with an invalidation of the L1, else a wait. -/
def execWpred (f : IFmt) (s : State) : Host.Outcome State Fault Refusal :=
  .next (perform (.wpred f) s wpredCheck (fun x tids =>
    forEach tids x (fun y t => if y.predsDone t then y.dropL1 y.cur.u else y.waitHere t .wpred)))

/-- WPRED_RELEASE (R299): the wait of a thread ends; a deferred store error makes it issue its WPRED again (R221). -/
def execWpredRelease (s : State) : Host.Outcome State Fault Refusal :=
  let tid := s.ev.tid
  if (s.thread tid).wait == .wpred && s.predsDone tid then
    match s.storeError tid (fun _ => true) with
    | .pass => .next ((s.dropL1 (unitOf tid)).release tid)
    | _ => .next (s.onThread tid (fun t => { t with wait := .none }))
  else .next s

/-! ## Tokens, counters, cancellation (R249-R251) -/

/-- A satisfied wait on a token acts as an acquire (R54): it invalidates the L1 of the unit for a producer that named team
scope or wider (R113). -/
def State.tokenAcquire (s : State) (tid n : Nat) : State :=
  if (s.token tid n).acq then s.dropL1 (unitOf tid) else s

/-- TWAIT (R53, R249). -/
def execTwait (f : IFmt) (s : State) : Host.Outcome State Fault Refusal :=
  .next (perform (.twait f) s noCheck (fun x tids =>
    let n := f.a.toNat
    forEach tids x (fun y t =>
      if (y.token t n).outstanding ≤ f.imm.toNat then y.tokenAcquire t n else y.waitHere t (.twait n f.imm.toNat))))

/-- A counter records cancelled unless it has recorded failed (R36). -/
def Counter.cancel (c : Counter) : Counter := { c with status := if c.status = 3 then 3 else 2 }

/-- The launches of a graph, or of a job, of a context. -/
def State.launchesOf (s : State) (ctx : Nat) (p : Desc → Bool) : List Nat :=
  (s.launches.filter (fun x => x.2.ctx == ctx && p x.2.desc)).map (·.1)

/-- A launch of a cancelled graph or job: its launch barriers break first where it has unplaced teams, which records failed and cancels
its dependants; then those teams are discarded (R36, R244, R250). -/
def State.discardLaunch (s : State) (lid : Nat) : State :=
  if s.hasUnplaced lid && (s.launch lid).desc.pkgbar then ((s.breakBarriers lid [] true).cancelDependants lid).discardUnplaced lid
  else s.discardUnplaced lid

/-- CANCEL of a thread (R36, R250): 0 its team, 1 its launch, 2 its graph, 3 its job. -/
def State.cancelLevel (s : State) (level tid : Nat) : State :=
  let k := s.teamOf tid
  let lid := s.lidOf tid
  let l := s.launch lid
  match level with
  | 0 => s.onTeam k (fun t => { t with status := if t.status = 3 then 3 else 2 })
  | 1 => (s.cancelOne lid).cancelDependants lid
  | 2 =>
    let s := { s with graphs := smod l.graphKey Counter.cancel s.graphs }
    forEach (s.launchesOf l.ctx (fun d => d.graph == l.desc.graph)) s (fun s x =>
      s.discardLaunch x)
  | _ =>
    let s := { s with jobs := smod l.jobKey Counter.cancel s.jobs }
    forEach (s.launchesOf l.ctx (fun d => d.job == l.desc.job)) s (fun s x =>
      s.discardLaunch x)

/-- CANCEL (R250). -/
def execCancel (f : IFmt) (s : State) : Host.Outcome State Fault Refusal :=
  .next (perform (.cancel f) s noCheck (fun x tids => forEach tids x (fun y t => y.cancelLevel f.fn.toNat t)))

/-- The counter value of R251: status and remaining. -/
def counterWord (status remaining : Nat) : DWord := BitVec.ofNat 64 (status * 2 ^ 48 + remaining)

/-- The counter CNTQ reads for a thread (R251); with status 4, for an unknown identifier, the remaining field is 0 (log 91). -/
def State.countOf (s : State) (f : IFmt) (tid : Nat) : DWord :=
  let k := s.teamOf tid
  let lid := s.lidOf tid
  let l := s.launch lid
  let other := 2 ^ 32 * s.ctxOf tid + ((s.thread tid).reg f.a.toNat).toNat
  match f.fn.toNat with
  | 0 => counterWord (s.team k).status ((s.teamTids k).filter (fun t => !(s.thread t).exited)).length
  | 1 => counterWord l.status l.remaining
  | 2 => let c := (find? l.graphKey s.graphs).getD { remaining := 0, accepted := 0, count := 0, status := 4 }
         counterWord c.status c.remaining
  | 3 => let c := (find? l.jobKey s.jobs).getD { remaining := 0, accepted := 0, count := 0, status := 4 }
         counterWord c.status c.remaining
  | _ => match find? other s.launches with
    | some x => counterWord x.status x.remaining
    | none => counterWord 4 0

/-- CNTQ (R251). -/
def execCntq (f : IFmt) (s : State) : Host.Outcome State Fault Refusal :=
  latewise (.cntq f) s noCheck f.d.toNat (fun x t _ => words64 (x.countOf f t))

end Sys2Proof.Machine
end

