-- ==== Sys2Proof/Machine/Tile.lean ====
section
/-!
DEFINITION. Tile control and dispatch (08 R271-R286; 02 R44-R56, R68-R74): the words a control thread performs itself, and the words
that place an entry in an engine queue or a band's copy queue.
-/

namespace Sys2Proof.Machine

/-! ## Slip limits, tokens, NaN enables (R47, R53, R80, R272) -/

/-- Changes the tile of each performing thread: the one control thread. -/
def tileWord (i : Instr) (s : State) (own : State → Nat → Check) (g : State → Nat → Tile → Tile) :
    Host.Outcome State Fault Refusal :=
  .next (perform i s own (fun x tids => forEach tids x (fun y t => y.onTile (unitOf t) (g x t))))

/-- TQCFG (R272). -/
def execTqcfg (f : IFmt) (s : State) : Host.Outcome State Fault Refusal :=
  tileWord (.tqcfg f) s noCheck (fun _ _ t => { t with slip := sset 160 t.slip (bitsOf f.imm.toNat 10 8) (bitsOf f.imm.toNat 7 0) })

/-- TOKR (R53, R272). -/
def execTokr (f : IFmt) (s : State) : Host.Outcome State Fault Refusal :=
  lanewise (.tokr f) s noCheck (fun x tid t =>
    let k := x.token tid f.a.toNat
    t.setReg f.d.toNat (k.issued ++ k.done))

/-- MCFG (R272). -/
def execMcfg (f : IFmt) (s : State) : Host.Outcome State Fault Refusal :=
  tileWord (.mcfg f) s noCheck (fun _ _ t => { t with nanM := f.imm.getLsbD 0, nanV := f.imm.getLsbD 1 })

/-! ## Operand slots (R56) -/

/-- OCLM (R56). -/
def execOclm (f : EFmt) (s : State) : Host.Outcome State Fault Refusal :=
  let n := f.a.toNat
  tileWord (.oclm f) s
    (fun x t => if (x.tile (unitOf t)).claimed n then .trap 0x15 (BitVec.ofNat 64 n) else .pass)
    (fun _ _ t => { t with claims := sset false t.claims n true })

/-- Some uncompleted entry of the tile names a slot. -/
def Tile.named (t : Tile) (n : Nat) : Bool :=
  (t.lq.entries ++ t.aq.entries ++ t.sq.entries ++ t.mq.entries ++ t.cq.entries).any (fun e =>
    (slotsNamed e.instr e.regs).contains n)

/-- Every captured target is reached (R51). -/
def State.waitsMet (s : State) (tid : Nat) (ws : List (Nat × BitVec 16)) : Bool :=
  ws.all (fun w => (s.token tid w.1).reached w.2)

/-- Satisfied waits on some tokens act as acquires (R54). -/
def State.acquireAll (s : State) (tid : Nat) (ws : List (Nat × BitVec 16)) : State :=
  forEach ws s (fun s w => s.tokenAcquire tid w.1)

/-- What ends a token wait: OREL unclaims its slot (R56), RNGF frees the oldest acquired slot of its ring (R70). -/
def TokAct.done (a : TokAct) (t : Tile) : Tile :=
  match a with
  | .orel n => { t with claims := sset false t.claims n false }
  | .rngf q => { t with rings := smod q (fun r => { r with free := (r.free + 1) % r.count, acquired := r.acquired - 1 }) t.rings }

/-- Trap 0x15 where OREL, its waits satisfied, finds an entry that still names its slot (R56). -/
def TokAct.check (a : TokAct) (t : Tile) : Check :=
  match a with
  | .orel n => if t.named n then .trap 0x15 (BitVec.ofNat 64 n) else .pass
  | .rngf _ => .pass

/-- OREL and RNGF at issue: with their waits satisfied they act at once, else the thread waits. -/
def tokenWord (i : Instr) (ws : List (BitVec 5)) (a : TokAct) (own : State → Nat → Check) (s : State) :
    Host.Outcome State Fault Refusal :=
  .next (perform i s
    (fun x t => (own x t).andThen (if x.waitsMet t (x.targets t ws) then a.check (x.tile (unitOf t)) else .pass))
    (fun x tids => forEach tids x (fun y t =>
      let ts := y.targets t ws
      if y.waitsMet t ts then (y.acquireAll t ts).onTile (unitOf t) a.done else y.waitHere t (.tokens ts a))))

/-- OREL (R56). -/
def execOrel (f : EFmt) (s : State) : Host.Outcome State Fault Refusal :=
  let n := f.a.toNat
  tokenWord (.orel f) [f.w0, f.w1, f.w2] (.orel n)
    (fun x t => if (x.tile (unitOf t)).claimed n then .pass else .trap 0x15 (BitVec.ofNat 64 n)) s

/-- TOKEN_WAIT_RELEASE (R53): a TWAIT, OREL or RNGF of a thread whose tokens have come goes on. -/
def execTokenWaitRelease (s : State) : Host.Outcome State Fault Refusal :=
  let tid := s.ev.tid
  match (s.thread tid).wait with
  | .twait n c =>
    .next (if (s.token tid n).outstanding ≤ c then (s.tokenAcquire tid n).release tid else s)
  | .tokens ts a =>
    if !s.waitsMet tid ts then .next s
    else match a.check (s.tile (unitOf tid)) with
      | .trap c v => .next ((s.onThread tid (fun t => { t with wait := .none })).raise tid c v)
      | _ => .next (((s.acquireAll tid ts).onTile (unitOf tid) a.done).release tid)
  | _ => .next s

/-! ## Rings and channels (R68-R73, R284-R286) -/

/-- Trap 0x16. -/
def ringTrap (n : Nat) : Check := .trap 0x16 (BitVec.ofNat 64 n)

/-- RNGD (R68, R73, R284). -/
def execRngd (f : IFmt) (s : State) : Host.Outcome State Fault Refusal :=
  let q := bitsOf f.imm.toNat 2 0
  let count := bitsOf f.imm.toNat 7 3 + 1
  let size := (bitsOf f.imm.toNat 16 8 + 1) * 128
  tileWord (.rngd f) s
    (fun x t =>
      let base := ((x.thread t).reg f.a.toNat).toNat
      let busy := match find? q (x.tile (unitOf t)).rings with
        | some r => r.chan.isSome || r.filled != 0 || r.acquired != 0
        | none => false
      if base % 128 != 0 then .trap 0x04 (BitVec.ofNat 64 base)
      else if busy || decide ((x.team (x.teamOf t)).alloc < base + count * size) then ringTrap q else .pass)
    (fun x t y => { y with rings := sput q { base := ((x.thread t).reg f.a.toNat).toNat, size := size, count := count } y.rings })

/-- A filled slot is acquired (R69): its address, and the ring after it. -/
def Ring.acquire (r : Ring) : Nat × Ring :=
  (r.base + r.acq * r.size, { r with acq := (r.acq + 1) % r.count, filled := r.filled - 1, acquired := r.acquired + 1 })

/-- RNGA's step (R69): an acquire at cluster scope. -/
def State.ringAcquire (s : State) (tid q d : Nat) : State :=
  match find? q (s.tile (unitOf tid)).rings with
  | none => s
  | some r =>
    let s := (s.dropL1 (unitOf tid)).onTile (unitOf tid) (fun t => { t with rings := sput q r.acquire.2 t.rings })
    s.onThread tid (fun t => t.setReg d (BitVec.ofNat 32 r.acquire.1))

/-- A ring has a filled slot. -/
def State.ringFilled (s : State) (tid q : Nat) : Bool :=
  match find? q (s.tile (unitOf tid)).rings with
  | none => false
  | some r => r.filled != 0

/-- RNGA (R69, R285): an acquire point, before which the thread's earlier reads are performed (R120). -/
def execRnga (f : IFmt) (s : State) : Host.Outcome State Fault Refusal :=
  let q := bitsOf f.imm.toNat 2 0
  .next (perform (.rnga f) s
    (fun x t => if (find? q (x.tile (unitOf t)).rings).isNone then ringTrap q else .pass)
    (fun x tids => forEach tids x (fun y t =>
      if y.ringFilled t q && y.readsDone t (fun _ => true) then y.ringAcquire t q f.d.toNat else y.waitHere t (.rnga q f.d.toNat))))

/-- RNGA_RELEASE (R69): a waiting RNGA finds a filled slot, the thread's earlier reads performed (R120). -/
def execRngaRelease (s : State) : Host.Outcome State Fault Refusal :=
  let tid := s.ev.tid
  match (s.thread tid).wait with
  | .rnga q d => .next (if s.ringFilled tid q && s.readsDone tid (fun _ => true) then (s.ringAcquire tid q d).release tid else s)
  | _ => .next s

/-- RNGF (R70, R285). -/
def execRngf (f : IFmt) (s : State) : Host.Outcome State Fault Refusal :=
  let q := bitsOf f.imm.toNat 2 0
  tokenWord (.rngf f) [BitVec.ofNat 5 (bitsOf f.imm.toNat 7 3), BitVec.ofNat 5 (bitsOf f.imm.toNat 12 8)] (.rngf q)
    (fun x t => match find? q (x.tile (unitOf t)).rings with
      | none => ringTrap q
      | some r => if r.acquired = 0 then ringTrap q else .pass) s

/-- BRCV's checks (R73, R286). A binding that a team saved out from the tile keeps is of no ring of the tile's team (R74). -/
def brcvCheck (f : EFmt) (s : State) (tid : Nat) : Check :=
  let c := bitsOf f.efn.toNat 6 0
  let q := f.b.toNat
  let u := unitOf tid
  let ch := (find? c s.channels).getD {}
  let bound := ch.bound
  if f.efn.getLsbD 7 then
    match bound with
    | some (v, r) =>
      if v != u || ch.team != s.teamOf tid then ringTrap c
      else if ((find? r (s.tile u).rings).getD ⟨0, 0, 0, 0, 0, 0, 0, 0, 0, none⟩).part != 0 then ringTrap r else .pass
    | none => ringTrap c
  else if dieOf u != (if c < 64 then 4 else 7) then ringTrap c
  else match find? q (s.tile u).rings with
    | none => ringTrap q
    | some r => if r.chan.isSome || bound.isSome then ringTrap q else .pass

/-- BRCV on a tile: binds a channel to a ring, or unbinds it (R71). -/
def State.bindChannel (s : State) (f : EFmt) (tid : Nat) : State :=
  let c := bitsOf f.efn.toNat 6 0
  let u := unitOf tid
  let ch := (find? c s.channels).getD {}
  let off := f.efn.getLsbD 7
  let q := match ch.bound with | some (_, r) => if off then r else f.b.toNat | none => f.b.toNat
  let s := { s with channels := sput c { ch with bound := if off then none else some (u, q), team := s.teamOf tid } s.channels }
  s.onTile u (fun t => { t with rings := smod q (fun r => { r with chan := if off then none else some c }) t.rings })

/-- BRCV (R286). -/
def execBrcv (f : EFmt) (s : State) : Host.Outcome State Fault Refusal :=
  .next (perform (.brcv f) s (brcvCheck f) (fun x tids => forEach tids x (fun y t => y.bindChannel f t)))

/-! ## Engine words (R273-R280) -/

/-- The value of a register of the control thread. -/
def State.gval (s : State) (tid : Nat) (r : BitVec 6) : Nat := ((s.thread tid).reg r.toNat).toNat

/-- An engine word of a tile: no handles. -/
def engineWord (i : Instr) (f : EFmt) (e : EngineQ) (own : State → Nat → Check) (regs : Thread → List Word) (s : State) :
    Host.Outcome State Fault Refusal :=
  dispatchWord i f e
    (fun x t => (slotCheck (x.tile (unitOf t)) (slotsNamed i [])).andThen (own x t))
    (fun x t => (regs (x.thread t), [], [])) s

/-- A range of the allocation: misaligned traps 0x04, beyond it 0x05, with TVAL = v. -/
def scratchCheck (bad : Bool) (last alloc : Nat) (v : Nat) : Check :=
  firstTrap [(bad, 0x04, BitVec.ofNat 64 v), (decide (alloc < last), 0x05, BitVec.ofNat 64 v)]

/-- OLD's register checks (R273). -/
def oldCheck (f : EFmt) (s : State) (tid : Nat) : Check :=
  let b := s.gval tid f.b
  let c := s.gval tid f.c
  let last := Nat.max (b + 63 * c + 256) (if f.efn.getLsbD 0 then 0 else b + 64 * c + 512)
  firstTrap [(b % 16 != 0 || c % 16 != 0, 0x04, BitVec.ofNat 64 b),
    (decide (c < 256) || decide ((s.team (s.teamOf tid)).alloc < last), 0x05, BitVec.ofNat 64 b)]

/-- OLD (R273). -/
def execOld (f : EFmt) (s : State) : Host.Outcome State Fault Refusal :=
  engineWord (.old f) f .lq (oldCheck f) (fun t => [t.reg f.b.toNat, t.reg f.c.toNat]) s

/-- MMA (R274). -/
def execMma (f : EFmt) (s : State) : Host.Outcome State Fault Refusal := engineWord (.mma f) f .mq noCheck (fun _ => []) s
/-- MMAS (R275). -/
def execMmas (f : EFmt) (s : State) : Host.Outcome State Fault Refusal := engineWord (.mmas f) f .mq noCheck (fun _ => []) s
/-- MZERO (R276). -/
def execMzero (f : EFmt) (s : State) : Host.Outcome State Fault Refusal := engineWord (.mzero f) f .mq noCheck (fun _ => []) s

/-- MDRN's register checks (R277). -/
def mdrnCheck (f : EFmt) (s : State) (tid : Nat) : Check :=
  let b := s.gval tid f.b
  let c := s.gval tid f.c
  firstTrap [(b % 16 != 0 || c % 16 != 0, 0x04, BitVec.ofNat 64 b),
    (decide (c < 64 * drainSize f) || decide ((s.team (s.teamOf tid)).alloc < b + 63 * c + 64 * drainSize f), 0x05,
      BitVec.ofNat 64 b)]

/-- MDRN (R277). -/
def execMdrn (f : EFmt) (s : State) : Host.Outcome State Fault Refusal :=
  engineWord (.mdrn f) f .sq (mdrnCheck f) (fun t => [t.reg f.b.toNat, t.reg f.c.toNat]) s

/-- VLD (R278). -/
def execVld (f : EFmt) (s : State) : Host.Outcome State Fault Refusal :=
  engineWord (.vld f) f .lq
    (fun x t =>
      let b := x.gval t f.b
      let bc := f.efn.getLsbD 0
      scratchCheck (b % (if bc then 4 else 16) != 0) (b + (if bc then 4 else 256)) (x.team (x.teamOf t)).alloc b)
    (fun t => [t.reg f.b.toNat]) s

/-- VST (R278). -/
def execVst (f : EFmt) (s : State) : Host.Outcome State Fault Refusal :=
  engineWord (.vst f) f .sq
    (fun x t =>
      let b := x.gval t f.b
      scratchCheck (b % 16 != 0) (b + 4 * (if f.efn == 0 then 64 else f.efn.toNat)) (x.team (x.teamOf t)).alloc b)
    (fun t => [t.reg f.b.toNat]) s

/-- VADD (R279). -/
def execVadd (f : EFmt) (s : State) : Host.Outcome State Fault Refusal := engineWord (.vadd f) f .aq noCheck (fun _ => []) s
/-- VSUB (R279). -/
def execVsub (f : EFmt) (s : State) : Host.Outcome State Fault Refusal := engineWord (.vsub f) f .aq noCheck (fun _ => []) s
/-- VMUL (R279). -/
def execVmul (f : EFmt) (s : State) : Host.Outcome State Fault Refusal := engineWord (.vmul f) f .aq noCheck (fun _ => []) s
/-- VFMA (R279). -/
def execVfma (f : EFmt) (s : State) : Host.Outcome State Fault Refusal := engineWord (.vfma f) f .aq noCheck (fun _ => []) s
/-- VMIN (R279). -/
def execVmin (f : EFmt) (s : State) : Host.Outcome State Fault Refusal := engineWord (.vmin f) f .aq noCheck (fun _ => []) s
/-- VMAX (R279). -/
def execVmax (f : EFmt) (s : State) : Host.Outcome State Fault Refusal := engineWord (.vmax f) f .aq noCheck (fun _ => []) s
/-- VEXP (R279). -/
def execVexp (f : EFmt) (s : State) : Host.Outcome State Fault Refusal := engineWord (.vexp f) f .aq noCheck (fun _ => []) s
/-- VRCP (R279). -/
def execVrcp (f : EFmt) (s : State) : Host.Outcome State Fault Refusal := engineWord (.vrcp f) f .aq noCheck (fun _ => []) s
/-- VRSQ (R279). -/
def execVrsq (f : EFmt) (s : State) : Host.Outcome State Fault Refusal := engineWord (.vrsq f) f .aq noCheck (fun _ => []) s
/-- VTANH (R279). -/
def execVtanh (f : EFmt) (s : State) : Host.Outcome State Fault Refusal := engineWord (.vtanh f) f .aq noCheck (fun _ => []) s
/-- VCVT (R280). -/
def execVcvt (f : EFmt) (s : State) : Host.Outcome State Fault Refusal := engineWord (.vcvt f) f .aq noCheck (fun _ => []) s
/-- VRED (R279). -/
def execVred (f : EFmt) (s : State) : Host.Outcome State Fault Refusal := engineWord (.vred f) f .aq noCheck (fun _ => []) s
/-- VBCST (R279). -/
def execVbcst (f : EFmt) (s : State) : Host.Outcome State Fault Refusal := engineWord (.vbcst f) f .aq noCheck (fun _ => []) s
/-- VPERM (R279). -/
def execVperm (f : EFmt) (s : State) : Host.Outcome State Fault Refusal := engineWord (.vperm f) f .aq noCheck (fun _ => []) s
/-- VSEL (R279). -/
def execVsel (f : EFmt) (s : State) : Host.Outcome State Fault Refusal := engineWord (.vsel f) f .aq noCheck (fun _ => []) s
/-- VCMP (R279). -/
def execVcmp (f : EFmt) (s : State) : Host.Outcome State Fault Refusal := engineWord (.vcmp f) f .aq noCheck (fun _ => []) s
/-- VSCL (R279). -/
def execVscl (f : EFmt) (s : State) : Host.Outcome State Fault Refusal := engineWord (.vscl f) f .aq noCheck (fun _ => []) s
/-- VMOV (R279): with `.g`, g[C] is captured at dispatch. -/
def execVmov (f : EFmt) (s : State) : Host.Outcome State Fault Refusal :=
  engineWord (.vmov f) f .aq noCheck (fun t => if f.efn == 4 then [t.reg f.c.toNat] else []) s

/-! ## Copy words (R256, R271, R281-R283) -/

/-- The scope and stream of a copy (R281). -/
def copyScope (f : EFmt) : Nat := bitsOf f.efn.toNat 2 0
/-- See copyScope. -/
def copyStream (f : EFmt) : Nat := bitsOf f.efn.toNat 6 3

/-- The dispatch acts as a release on the copy's stream at its scope (R131): a deferred store error falls due (R221). -/
def copyError (f : EFmt) (s : State) (tid : Nat) : Check := s.storeError tid (· == copyStream f)

/-- The dispatch waits for the thread's earlier accesses on the copy's stream (R131, R122). -/
def copyRelease (f : EFmt) (s : State) (tid : Nat) : Check :=
  if s.meets tid (· == copyStream f) (copyScope f) then .pass else .wait

/-- A copy word: its causes, the release, then room and the token. -/
def copyWord (i : Instr) (f : EFmt) (own : State → Nat → Check) (args : State → Nat → List Word × List Handle × List Nat)
    (s : State) : Host.Outcome State Fault Refusal :=
  dispatchWord i f .cq (fun x t => (copyError f x t).andThen ((own x t).andThen (copyRelease f x t))) args s

/-- TCPY's and TCST's dispatch checks (R281): an operand slot's index and claim first (R255). -/
def tensorCheck (f : EFmt) (slot : Bool) (s : State) (tid : Nat) : Check :=
  let t := s.thread tid
  let h := t.hdl f.a.toNat
  let b := f.b.toNat
  let va := h.base + t.reg64 b
  let x := t.reg (b + 2)
  let claim : Check := if !slot then .pass else if 15 < x.toNat then .trap 0x15 (x.setWidth 64) else slotCheck (s.tile (unitOf tid)) [x.toNat]
  claim.andThen ((handleCheck h f.a.toNat).andThen (firstTrap [(va.toNat % 128 != 0, 0x04, va), (!inPage h va.toNat 128, 0x05, va),
    (!slot && x.toNat % 16 != 0, 0x04, x.setWidth 64)]))

/-- What a tensor copy captures. -/
def tensorArgs (f : EFmt) (s : State) (tid : Nat) : List Word × List Handle × List Nat :=
  ((s.thread tid).capture f.b.toNat 8, [(s.thread tid).hdl f.a.toNat], [])

/-- TCPY (R281). -/
def execTcpy (f : EFmt) (s : State) : Host.Outcome State Fault Refusal :=
  copyWord (.tcpy f) f (tensorCheck f (f.efn.getLsbD 7)) (tensorArgs f) s
/-- TCST (R281). -/
def execTcst (f : EFmt) (s : State) : Host.Outcome State Fault Refusal :=
  copyWord (.tcst f) f (tensorCheck f false) (tensorArgs f) s

/-- A side of a flat copy: its address in the space, with the handle's base for the global space. -/
def sideAddr (t : Thread) (sp hdl r : Nat) : DWord :=
  if sp = 4 then (t.hdl hdl).base + t.reg64 r else (t.reg r).setWidth 64

/-- The handle state of a global side. -/
def sideHandle (t : Thread) (sp hdl : Nat) : Check := if sp = 4 then handleCheck (t.hdl hdl) hdl else .pass

/-- A staging range lies in partitions of one slice. -/
def State.stagingHas (s : State) (a n : Nat) : Bool :=
  let off := a % 2 ^ 22
  a / 2 ^ 31 == 0 && decide (off + n ≤ 2 ^ 22) &&
  (List.range ((n + 15) / 16)).all (fun i => (s.partition (bitsOf a 30 28) (bitsOf a 27 22) (off + 16 * i)).isSome)

/-- A side lies within its space's bound or its handle's page (R107, R282). -/
def State.sideIn (s : State) (tid sp hdl : Nat) (a : DWord) (n : Nat) : Bool :=
  let x := a.toNat
  match sp with
  | 1 => x + n ≤ (s.team (s.teamOf tid)).alloc
  | 2 => (s.spaceBytes tid 2 x n).isSome
  | 3 => (s.die (bitsOf x 30 28)).st != .online || s.stagingHas x n
  | 4 => inPage ((s.thread tid).hdl hdl) x n
  | _ => true

/-- The allocations that a cluster destination names: of CPY its position's team, of CPYM those of its target mask (R282). -/
def State.targetTeams (s : State) (tid : Nat) (multi : Bool) (addr mask : Nat) : List (Option Nat) :=
  let k := s.teamOf tid
  if multi then ((List.range 8).filter (fun p => mask.testBit p)).map (s.teamAt k) else [s.teamAt k (bitsOf addr 23 21)]

/-- CPY's and CPYM's dispatch checks (R282, R283). -/
def flatCheck (f : EFmt) (multi : Bool) (s : State) (tid : Nat) : Check :=
  let t := s.thread tid
  let b := f.b.toNat
  let ds := bitsOf f.c.toNat 5 3
  let ss := bitsOf f.c.toNat 2 0
  let dh := bitsOf f.a.toNat 5 3
  let sh := bitsOf f.a.toNat 2 0
  let src := sideAddr t ss sh b
  let dst := sideAddr t ds dh (b + 2)
  let n := t.reg (b + 4)
  let mask := t.reg (b + 5)
  let teams := s.targetTeams tid multi dst.toNat mask.toNat
  (sideHandle t ds dh).andThen ((sideHandle t ss sh).andThen (firstTrap [
    (src.toNat % 16 != 0, 0x04, src), (ds != 5 && dst.toNat % 16 != 0, 0x04, dst), (n.toNat % 16 != 0, 0x04, n.setWidth 64),
    (decide (2 ^ 26 < n.toNat), 0x05, n.setWidth 64),
    (ds == 5 && decide (128 ≤ dst.toNat), 0x05, dst),
    (!s.sideIn tid ss sh src n.toNat, 0x05, src),
    (!multi && ds != 5 && !s.sideIn tid ds dh dst n.toNat, 0x05, dst),
    (multi && (mask == 0 || decide (256 ≤ mask.toNat) || teams.any Option.isNone), 0x05, mask.setWidth 64),
    (multi && (decide (2 ^ 24 ≤ dst.toNat) || teams.any (fun k =>
      decide ((s.team (k.getD 0)).alloc < dst.toNat % 2 ^ 21 + n.toNat))), 0x05, dst)]))

/-- What a flat copy captures: its registers, handles (destination, source) and target allocations. -/
def flatArgs (f : EFmt) (multi : Bool) (s : State) (tid : Nat) : List Word × List Handle × List Nat :=
  let t := s.thread tid
  let b := f.b.toNat
  let targets := if bitsOf f.c.toNat 5 3 = 2 then
      (s.targetTeams tid multi (t.reg (b + 2)).toNat (t.reg (b + 5)).toNat).filterMap (fun k => k.map (fun j => (s.team j).aid))
    else []
  (t.capture b 8, [t.hdl (bitsOf f.a.toNat 5 3), t.hdl (bitsOf f.a.toNat 2 0)], targets)

/-- CPY (R282). -/
def execCpy (f : EFmt) (s : State) : Host.Outcome State Fault Refusal := copyWord (.cpy f) f (flatCheck f false) (flatArgs f false) s
/-- CPYM (R282). -/
def execCpym (f : EFmt) (s : State) : Host.Outcome State Fault Refusal := copyWord (.cpym f) f (flatCheck f true) (flatArgs f true) s

/-- BVHR's issue checks (R271). -/
def bvhrCheck (f : EFmt) (s : State) (tid : Nat) : Check :=
  let t := s.thread tid
  let h := t.hdl f.a.toNat
  let la := h.base + t.reg64 f.b.toNat
  let n := t.reg f.c.toNat
  (handleCheck h f.a.toNat).andThen (firstTrap [(n == 0 || decide (65535 < n.toNat), 0x05, n.setWidth 64),
    (!inPage h la.toNat (8 * n.toNat), 0x05, la)])

/-- BVHR (R271). -/
def execBvhr (f : EFmt) (s : State) : Host.Outcome State Fault Refusal :=
  copyWord (.bvhr f) f (bvhrCheck f)
    (fun x t => ((x.thread t).capture f.b.toNat 2 ++ [(x.thread t).reg f.c.toNat], [(x.thread t).hdl f.a.toNat], [])) s

/-! ## Matrix engine reset (R79) -/

/-- An entry whose slot write stops at a reset (R79). -/
def stopsAtReset (e : Entry) : Bool :=
  match e.instr with
  | .old _ => true
  | .tcpy f => f.efn.getLsbD 7
  | _ => false

/-- The entries of a queue that stop writing slots complete at their own turn, their faults with them. -/
def Queue.resetSlots (q : Queue) : Queue :=
  let cleared := match q.entries.find? (fun e => e.fault.isSome) with | some e => stopsAtReset e | none => false
  { q with faulted := q.faulted && !cleared, reported := q.reported && !cleared,
           entries := q.entries.map (fun e => if stopsAtReset e then { e with finished := true, fault := none } else e) }

/-- The slot bytes that a started entry has written: rows of an OLD, or of a TCPY that has read its TCB (R56, R79); where they land
does not depend on its region. -/
def State.slotWritten (s : State) (u : Nat) (e : Entry) : List Nat :=
  match e.instr, slotOfEntry e with
  | .old f, some o => ((List.range e.upc).flatMap (oldRow f e.regs)).map (fun p => slotSize * o + p.1)
  | .tcpy _, some o => match e.snap with
    | some b =>
      let rb := (e.region.map (·.1)).getD 0
      ((List.range e.upc).flatMap (s.rowCells (tcbOf b) (.slot u o) rb (originOf e))).map (fun c => slotSize * o + c.1)
    | none => []
  | _, _ => []

/-- The reset of a tile's matrix engine (R79): the bytes that entries had written to slots whose writing stops are free values, the
other bytes stay (log 7). -/
def State.resetMatrix (s : State) (u : Nat) : State :=
  let written := (((s.tile u).lq.entries ++ (s.tile u).cq.entries).filter (fun e => stopsAtReset e && e.started)).flatMap
    (s.slotWritten u)
  let n := s.free
  let s := ({ s with free := n + 16 * slotSize }).flushQueue (.tile u .mq)
  let team := (s.teams.find? (fun p => p.2.place == .resident u)).map (·.1)
  let s := s.onTile u (fun t => { t with
    acc := [], accPoison := [], claims := [], marks := [], lq := t.lq.resetSlots, cq := t.cq.resetSlots, resetTrap := team.isSome,
    slots := written.foldl (fun m x => sset 0 m x (Config.freeByte (n + x))) t.slots })
  match team with
  | some k => s.failLaunch (s.team k).lid
  | none => s

end Sys2Proof.Machine
end

