-- ==== Sys2Proof/Machine/Engines.lean ====
section
/-!
DEFINITION. The events of engine queues (02 R48-R50, R57-R67, R75-R80; 08 R271, R273-R283): an entry starts, does one step of its
micro-PC, meets a fault, completes.
-/

namespace Sys2Proof.Machine

/-- The engine overlaps its entries: the copy engines (R49). -/
def overlaps : QRef → Bool
  | .band _ => true
  | .tile _ e => e == .cq

/-- The head of a queue (R48): its oldest unstarted entry, where the engine can accept it. A copy engine overlaps an entry with earlier
ones that can meet no fault any more, so that no entry has started when an earlier one faults (R49, R76; log 95). -/
def Queue.head (x : Queue) (past : Bool) : Option Entry :=
  match x.entries.span (fun e => e.started || e.finished) with
  | (done, e :: _) => if done.isEmpty || (past && done.all (fun d => d.fault.isNone && (d.finished || d.handedOver))) then some e else none
  | _ => none

/-- The entry meets a fault: it stops at its micro-PC (R76). -/
def State.stopEntry (s : State) (q : QRef) (dno : Nat) (x : Nat × DWord) : State :=
  s.onEntry q dno (fun e => { e with fault := some x })

/-- The NaN enable that an entry starts under (R80, R272). -/
def nanEnable (q : QRef) (t : Tile) : Bool :=
  match q with
  | .tile _ .mq => t.nanM
  | .tile _ .aq => t.nanV
  | _ => false

/-- What starting does beyond the start (R57, R66): fill marks fall to 0, a tensor copy reads its TCB and region, a copy of
nothing is done at once. -/
def State.startBody (s : State) (q : QRef) (e : Entry) : State :=
  let s := match q, slotOfEntry e with
    | .tile u _, some o => s.onTile u (fun t => t.setMark o 0)
    | _, _ => s
  let tensor := fun (s : State) =>
    let s := s.readTcb q e
    let r := s.beginTensor q e
    s.onEntry q e.dno (fun _ => { r.1 with started := true, fault := r.2, finished := r.2.isNone && rowsOf r.1 == 0 })
  match e.instr with
  | .tcpy _ => tensor s
  | .tcst _ => tensor s
  | .cpy _ => s.onEntry q e.dno (fun e => { e with finished := flatCount e == 0 })
  | .cpym _ => s.onEntry q e.dno (fun e => { e with finished := flatCount e == 0 })
  | _ => s

/-- A tensor copy. -/
def isTensor (i : Instr) : Bool := match i with | .tcpy _ => true | i => isTcst i

/-- ENGINE_ENTRY_START (R48): the head of queue `q` starts once its waits are satisfied, which acts as an acquire (R54); a tensor copy's
read of its TCB must reach memory (R412). -/
def execEngineEntryStart (s : State) : Host.Outcome State Fault Refusal :=
  let q := s.ev.q
  let tid := queueTid q
  let x := s.queue q
  match x.head (overlaps q) with
  | none => .next s
  | some e =>
    if !x.runs || !s.waitsMet tid e.waits || (isTensor e.instr && !s.tcbReach q e) then .next s
    else
      let u := unitOfQueue q
      let nan := nanEnable q (s.tile u)
      let s := (s.acquireAll tid e.waits).onEntry q e.dno (fun e => { e with started := true, nan := nan })
      let now := s.clock
      let s := match q with
        | .tile _ .mq => s.onTile u (fun t => { t with lastProgress := now })
        | _ => s
      .next (s.startBody q { e with started := true, nan := nan })

/-- An entry of a queue that may do its next step. -/
def State.running (s : State) (q : QRef) (dno : Nat) : Option Entry :=
  if !(s.queue q).runs then none
  else (s.queue q).entries.find? (fun e => e.dno == dno && e.started && !e.finished && e.fault.isNone)

/-- The next row of a tensor copy, its region read again after a retry (R355). -/
def State.stepTensor (s : State) (q : QRef) (e : Entry) : State :=
  if e.region.isSome then (if s.rowReach q e then s.landRow q e else s)
  else if !s.tcbReach q e then s
  else
    let s := s.readTcb q e
    let r := s.beginTensor q e
    match r.2 with
    | some x => s.onEntry q e.dno (fun _ => { r.1 with fault := some x })
    | none =>
      let s := s.onEntry q e.dno (fun _ => r.1)
      if s.rowReach q r.1 then s.landRow q r.1 else s

/-- A piece goes to another package, which may refuse it (R438). -/
def State.pieceRemote (s : State) (q : QRef) (e : Entry) : Option DWord :=
  match s.flatSides q e e.upc with
  | .inl (a, b) =>
    if (remotePkg (a.addrs.headD 0)).isSome then some (BitVec.ofNat 64 a.va)
    else if (remotePkg (b.addrs.headD 0)).isSome then some (BitVec.ofNat 64 b.va) else none
  | .inr _ => none

/-- The next piece of a flat copy. -/
def State.stepFlat (s : State) (q : QRef) (e : Entry) : State :=
  let full := match bridgeOf e with | some c => s.channelFull c | none => false
  if flatPieces e ≤ e.upc || s.bridgeHeld q e || full then s
  else match s.flatFault q e with
    | some x =>
      let s := match (if x.1 = 0x0F then s.errorDie q e else none) with | some d => s.countSent d | none => s
      s.stopEntry q e.dno x
    | none => match (if s.ev.discard then s.pieceRemote q e else none) with
      | some v => s.stopEntry q e.dno (0x0F, v)
      | none => if s.pieceReach q e then s.landPiece q e else s

/-- Where the matrix engine of a tile could not go on before and now can, its time without progress runs from now (R421). -/
def State.stirred (old new : State) (u : Nat) : State :=
  if !old.couldStep u && new.couldStep u then new.onTile u (fun t => { t with lastProgress := new.clock }) else new

/-- COPY_ROW_LAND (R67): a source row, or a piece of 128 bytes, of entry `dno` of queue `q` lands. -/
def execCopyRowLand (s : State) : Host.Outcome State Fault Refusal :=
  let q := s.ev.q
  match s.running q s.ev.dno with
  | none => .next s
  | some e => match e.instr with
    | .tcpy _ => .next (s.stirred (s.stepTensor q e) (unitOfQueue q))
    | .tcst _ => .next (s.stepTensor q e)
    | .cpy _ => .next (s.stepFlat q e)
    | .cpym _ => .next (s.stepFlat q e)
    | _ => .next s

/-- BVH_REFIT_NODE (R271): the next listed node of a refit; a page of another package may refuse it (R438). -/
def execBvhRefitNode (s : State) : Host.Outcome State Fault Refusal :=
  let q := s.ev.q
  match s.running q s.ev.dno with
  | none => .next s
  | some e => match e.instr with
    | .bvhr _ => if !s.refitReach q e then .next s else
      let s := s.refitReads q e
      match s.refitFault q e with
      | some x => .next (s.stopEntry q e.dno x)
      | none => match (if s.ev.discard then s.refitRemote q e else none) with
        | some v => .next (s.stopEntry q e.dno (0x0F, v))
        | none => .next (s.refitNode q e)
    | _ => .next s

/-- One k-step of an MMA or MMAS entry (R58-R60). -/
def State.kstep (s : State) (u : Nat) (e : Entry) (f : EFmt) (sparse : Bool) : State :=
  let q := QRef.tile u .mq
  let t := s.tile u
  let j := e.upc
  if t.stepWaits f j then s
  else match t.stepFault u e f sparse j with
    | some x => s.stopEntry q e.dno x
    | none =>
      let s := s.onTile u (fun t => { t.doStep f sparse j with lastProgress := s.clock })
      s.onEntry q e.dno (fun e => { e with upc := j + 1, finished := decide (mmaSteps f ≤ j + 1) })

/-- MMA_KSTEP (R97): the matrix engine of tile `u` performs one k-step. -/
def execMmaKstep (s : State) : Host.Outcome State Fault Refusal :=
  let u := s.ev.u
  match (s.tile u).mq.entries with
  | [] => .next s
  | e :: _ =>
    match s.running (.tile u .mq) e.dno with
    | none => .next s
    | some e => match e.instr with
      | .mma f => .next (s.kstep u e f false)
      | .mmas f => .next (s.kstep u e f true)
      | _ => .next s

/-! ## Steps of the other engines -/

/-- One row of an OLD; its last row sets the fill mark and completes it (R57, R273). -/
def State.oldStep (s : State) (u : Nat) (e : Entry) (f : EFmt) : State :=
  let q := QRef.tile u .lq
  let aid := s.tileAid u
  let row := oldRow f e.regs e.upc
  match s.scratchFault aid (row.map (·.2)) with
  | some x => s.stopEntry q e.dno x
  | none =>
    let bs := row.map (fun p => (p.1, s.engineByte u p.2))
    let s := s.afterRead.onTile u (fun t => t.putSlot f.a.toNat bs)
    let s := s.onEntry q e.dno (fun e => { e with upc := e.upc + 1 })
    if e.upc + 1 < 64 then s else (s.onTile u (fun t => t.setMark f.a.toNat 16)).completeHead q

/-- One row of an MDRN (R277). -/
def State.drainStep (s : State) (u : Nat) (e : Entry) (f : EFmt) : State :=
  let q := QRef.tile u .sq
  let t := s.tile u
  if (List.range 64).any (fun j => sget false t.accPoison (4096 * f.a.toNat + 64 * e.upc + j)) then
    s.stopEntry q e.dno (0x10, BitVec.ofNat 64 f.a.toNat)
  else
    let a := (e.regs.getD 0 0).toNat + e.upc * (e.regs.getD 1 0).toNat
    let s := s.store (.scratch (s.tileAid u)) (cellsAt a (drainRow t f e.upc))
    let s := s.onEntry q e.dno (fun e => { e with upc := e.upc + 1 })
    if e.upc + 1 < 64 then s else s.completeHead q

/-- A VLD (R278). -/
def State.vldStep (s : State) (u : Nat) (e : Entry) (f : EFmt) : State :=
  let q := QRef.tile u .lq
  let aid := s.tileAid u
  let b := (e.regs.getD 0 0).toNat
  let at_ := fun i => if f.efn.getLsbD 0 then b else b + 4 * i
  match s.scratchFault aid ((List.range 64).map at_) with
  | some x => s.stopEntry q e.dno x
  | none =>
    let ws := (List.range 64).map (fun i => BitVec.ofNat 32 (fromBytes ((runOf (at_ i) 4).map (s.engineByte u))))
    (s.afterRead.onTile u (fun t => t.setVreg f.a.toNat ws)).completeHead q

/-- The first poisoned lane that an entry of the vector engine reads. -/
def vPoisoned (i : Instr) (t : Tile) : Option (Nat × DWord) :=
  ((vReads i t).find? (fun p => sget false t.vPoison (64 * p.1 + p.2))).map (fun p => (0x10, BitVec.ofNat 64 p.1))

/-- A VST (R278). -/
def State.vstStep (s : State) (u : Nat) (e : Entry) (f : EFmt) : State :=
  let q := QRef.tile u .sq
  let t := s.tile u
  match vPoisoned e.instr t with
  | some x => s.stopEntry q e.dno x
  | none =>
    let n := if f.efn == 0 then 64 else f.efn.toNat
    let bytes := (List.range n).flatMap (fun i => toBytes 4 (t.lane f.a.toNat i).toNat)
    (s.store (.scratch (s.tileAid u)) (cellsAt (e.regs.getD 0 0).toNat bytes)).completeHead q

/-- An AQ instruction: in full or not at all (R61). -/
def State.vectorStep (s : State) (u : Nat) (e : Entry) : State :=
  let q := QRef.tile u .aq
  let t := s.tile u
  match vPoisoned e.instr t with
  | some x => s.stopEntry q e.dno x
  | none => match vNan u e t with
    | some v => s.stopEntry q e.dno (0x0B, v)
    | none => match vResult e.instr e.regs t with
      | some (a, ws) => (s.onTile u (fun t => t.setVreg a ws)).completeHead q
      | none => s

/-- MZERO (R276): every element becomes +0. -/
def Tile.zeroAcc (t : Tile) (a : Nat) : Tile :=
  { t with acc := t.acc.filter (fun p => p.1 / 4096 != a), accPoison := t.accPoison.filter (fun p => p.1 / 4096 != a) }

/-- ENGINE_ENTRY_COMPLETE (R49): the oldest entry of queue `q` completes; an entry of LQ, AQ, SQ or an MZERO first does the step
of its micro-PC that comes next, and completes with its last (R75). -/
def execEngineEntryComplete (s : State) : Host.Outcome State Fault Refusal :=
  let q := s.ev.q
  match (s.queue q).entries with
  | [] => .next s
  | e :: _ =>
    if !(s.queue q).runs then .next s
    else if e.finished then .next (s.completeHead q)
    else if !e.started || e.fault.isSome then .next s
    else
      match q with
      | .band _ => .next s
      | .tile u _ =>
        match e.instr with
        | .old f => .next (s.stirred (s.oldStep u e f) u)
        | .mdrn f => .next (s.drainStep u e f)
        | .vld f => .next (s.vldStep u e f)
        | .vst f => .next (s.vstStep u e f)
        | .mzero f => .next ((s.onTile u (fun t => t.zeroAcc f.a.toNat)).completeHead q)
        | _ => .next (if (vResult e.instr e.regs (s.tile u)).isSome then s.vectorStep u e else s)

/-! ## Faults (R76, R256, R316) -/

/-- ENGINE_FAULT (R76): the oldest entry of queue `q` has met a fault; the queue enters Fault. -/
def execEngineFault (s : State) : Host.Outcome State Fault Refusal :=
  let q := s.ev.q
  let x := s.queue q
  match x.entries with
  | [] => .next s
  | e :: _ =>
    if x.faulted || e.fault.isNone then .next s
    else
      let s := s.onQueue q (fun x => { x with faulted := true, reported := false })
      .next (if (s.thread e.tid).exited then s.orphanFault q e else s)

/-- The engine of an engine instruction (R44). -/
def engineOf (i : Instr) : Option EngineQ :=
  match i with
  | .old _ => some .lq
  | .vld _ => some .lq
  | .vst _ => some .sq
  | .mdrn _ => some .sq
  | .mma _ => some .mq
  | .mmas _ => some .mq
  | .mzero _ => some .mq
  | .tcpy _ => some .cq
  | .tcst _ => some .cq
  | .cpy _ => some .cq
  | .cpym _ => some .cq
  | .bvhr _ => some .cq
  | _ => if (vReads i {}).isEmpty then (match i with | .vmov _ => some .aq | _ => none) else some .aq

/-- The room that a dispatch waits for is held by a queue in Fault (R316). -/
def State.roomNever (s : State) (q : QRef) : Bool :=
  let full := fun (r : QRef) => (s.queue r).faulted && 32 ≤ (s.queue r).entries.length
  full q ||
  (match q with
   | .tile u _ => engineQs.any (fun e => (s.queue (.tile u e)).faulted && (s.tile u).slipOf e ≤ s.lag (.tile u e))
   | .band _ => false)

/-- The thread's next word is a dispatch that would wait for such room. -/
def State.stuckDispatch (s : State) (tid : Nat) : Bool :=
  let t := s.thread tid
  t.wait == .none &&
  match s.fetch (unitOf tid) (s.asidOf tid) t.pc.toNat with
  | none => false
  | some w => match decode w with
    | .error _ => false
    | .ok i => match engineOf i with
      | none => false
      | some e => s.roomNever (queueFor tid e)

/-- ENGINE_TRAP_ENTRY (R316): a thread takes a due engine fault before its next instruction, abandoning a wait that has changed
nothing outside it. -/
def execEngineTrapEntry (s : State) : Host.Outcome State Fault Refusal :=
  .next (s.takeFaults (bandOf s.ev.tid) [laneOf s.ev.tid] (s.stuckDispatch s.ev.tid))

end Sys2Proof.Machine
end

