-- ==== Sys2Proof/Machine/Place.lean ====
section
/-!
DEFINITION. Room on cores and tiles and the start of teams (01 R10, R11, R33, R34; 15 R365, R373, R385): the shared operations behind
placement, wake, swap and the loading of saved images.
-/

namespace Sys2Proof.Machine

/-! ## Room (R10, R373) -/

/-- The bands resident on a unit. -/
def State.bandsOn (s : State) (u : Nat) : List Nat := (skeys s.bands).filter (fun b => unitOfBand b == u)

/-- The bands resident in a cluster. -/
def State.clusterBands (s : State) (cl : Nat) : Nat := ((skeys s.bands).filter (fun b => clusterOf (unitOfBand b) == cl)).length

/-- The slots that n bands of a team take on a core: band b the lowest free slot whose sub-partition is b mod 4 (R10). -/
def State.slotsFor (s : State) (u n : Nat) : Option (List Nat) :=
  let used := (s.bandsOn u).map slotOf
  (List.range n).foldl (fun acc b => acc.bind (fun l =>
    (((List.range 16).map (fun i => 4 * i + b % 4)).find? (fun x => !used.contains x && !l.contains x)).map (fun x => l ++ [x])))
    (some [])

/-- Bytes of a scratchpad (Scope). -/
def scratchSize (u : Nat) : Nat := if isTile u then 2 ^ 21 else 2 ^ 18

/-- Register-file bytes that the bands of a core take (R10). -/
def State.regBytes (s : State) (u : Nat) : Nat := ((s.bandsOn u).map (fun b => 128 * (s.band b).nregs)).foldl (· + ·) 0

/-- Scratchpad bytes that are not free: those of resident teams, and the quarantined ones (R34). -/
def State.allocBytes (s : State) (u : Nat) : Nat :=
  ((s.teams.filter (fun p => p.2.place == .resident u)).map (fun p => p.2.alloc)).foldl (· + ·) 0 +
  ((s.quarantine.filter (fun p => p.2.1 == u)).map (fun p => p.2.2)).foldl (· + ·) 0

/-- The core or tile is fenced (R422). -/
def State.unitFenced (s : State) (u : Nat) : Bool := !(s.core u).fenced.isEmpty || (s.core u).scratchFenced

/-- A shader core has room for n bands of some registers and an allocation (R10, R373). -/
def State.coreRoom (s : State) (u n regs alloc : Nat) : Bool :=
  !s.unitFenced u && (s.slotsFor u n).isSome && decide (s.regBytes u + n * (128 * regs) ≤ 2 ^ 18) &&
  decide (s.allocBytes u + alloc ≤ scratchSize u)

/-- A tile is free for an allocation (R375, R34): it holds no team, is not fenced, no saved tensor team of a running launch last held it,
and the allocation fits beside what is quarantined there. -/
def State.tileFree (s : State) (u alloc : Nat) : Bool :=
  !s.unitFenced u && decide (s.allocBytes u + alloc ≤ scratchSize u) && s.teams.all (fun p => p.2.place != .resident u &&
    (match p.2.place with | .savedOut v _ => v != u || p.2.done | _ => true))

/-- The congestion level of a cluster (R385): the highest received in the last 4096 clocks; levels are kept by
4 * cluster + level. -/
def State.congestion (s : State) (cl : Nat) : Nat :=
  (([3, 2, 1]).find? (fun n => match find? (4 * cl + n) s.levels with
    | some l => decide (s.clock < l.at_ + 4096)
    | none => false)).getD 0

/-- The cluster makes no team resident now (R385). -/
def State.throttled (s : State) (cl : Nat) : Bool :=
  decide (cl < 128) && decide (Nat.max 4 (512 / 2 ^ s.congestion cl) ≤ s.clusterBands cl)

/-! ## Starting a team (R11, R365) -/

/-- Bytes of private memory a band takes, rounded to 64 KiB (R365). -/
def Desc.stride (d : Desc) : Nat := (32 * d.psize + 65535) / 65536 * 65536

/-- Lanes of band i of a team (R365). -/
def Desc.lanesOf (d : Desc) (i : Nat) : Nat := if i + 1 = d.bands then d.last else 32

/-- PCTX of a context (R311). -/
def State.pctxOf (s : State) (c : Nat) : DWord := BitVec.ofNat 64 ((s.ctx c).asid % 65536 * 65536 + c % 65536)

/-- Band i of a team as it starts (R11). -/
def State.newBand (s : State) (k i : Nat) : Band :=
  let t := s.team k
  let l := s.launch t.lid
  let d := l.desc
  { team := k, index := i, lanes := d.lanesOf i, nregs := d.regs,
    m := [(0, maskOf (lanesList (d.lanesOf i)))],
    s := ((List.range 16).zip d.args).foldl (fun m p => sset 0 m p.1 p.2) [],
    tvec := addrField (BitVec.ofNat 64 d.tvec), fpmode := BitVec.ofNat 64 (d.fpmode % 2), fpLive := BitVec.ofNat 64 (d.fpmode % 2),
    pkqb := BitVec.ofNat 64 (d.pkqb % 2 ^ 52 / 4096 * 4096 + d.pkqb % 16), pctx := s.pctxOf l.ctx,
    pbase := d.ppool + (t.index * d.bands + i) * d.stride, psize := d.psize, spilltop := BitVec.ofNat 32 d.spilltop }

/-- A thread as it starts (R11). -/
def newThread (d : Desc) : Thread :=
  { pc := BitVec.ofNat 64 d.entry, csp := BitVec.ofNat 32 d.spilltop, prv := if d.priv then 1 else 0 }

/-- What a completed tensor team left on a tile is gone once another team comes (R295, R296). -/
def Team.leaves (t : Team) (u : Nat) : Team :=
  if t.done && t.last == u && isTile u then { t with aid := 0, scratch := [], poison := [] } else t

/-- A team becomes resident on a unit with its bands in some slots: its allocation gets a new name, the L1 of the unit is
invalidated (R33, R113), and its step budget is the one in force (R386). -/
def State.install (s : State) (k u : Nat) (slots : List Nat) (bands : List Band) (threads : Nat → Nat → Thread) : State :=
  let bids := slots.map (64 * u + ·)
  let (aid, s) := s.fresh1
  let s := forEach (bids.zip bands) s (fun s p =>
    let s := { s with bands := sput p.1 { p.2 with team := k } s.bands }
    forEach (lanesList p.2.lanes) s (fun s l => { s with threads := sput (32 * p.1 + l) (threads p.2.index l) s.threads }))
  let s := { s with teams := s.teams.map (fun (p : Nat × Team) => (p.1, p.2.leaves u)) }
  let lid := (s.team k).lid
  let n := (s.launch lid).budgets.length
  let s := s.onCore u (fun c => { c with budgets := sput lid n c.budgets })
  (s.onTeam k (fun t => { t with place := .resident u, bands := bids, aid := aid, leg := none, woken := false, stopping := false,
                                 haltedAt := none, outLive := [], last := u })).dropL1 u

/-- A drawn team starts on a unit (R11, R373, R375). -/
def State.startTeam (s : State) (k u : Nat) : State :=
  let t := s.team k
  let d := (s.launch t.lid).desc
  let n := if d.tensor then 1 else d.bands
  let slots := if d.tensor then some [0] else s.slotsFor u n
  match slots with
  | none => s
  | some sl =>
    let s := s.onTeam k (fun t => { t with alloc := d.scratch, carry := d.carry, scratch := [], poison := [] })
    let s := if d.tensor then { s with tiles := sput u {} s.tiles } else s
    s.install k u sl ((List.range n).map (s.newBand k)) (fun _ _ => newThread d)

/-- Quarantined allocations towards which nothing is in flight any more are free (R34). -/
def State.endQuarantine (s : State) (aid : Nat) : State :=
  if s.inbound aid = 0 then { s with quarantine := s.quarantine.filter (fun p => p.1 != aid) } else s

end Sys2Proof.Machine
end

