-- ==== Sys2Proof/Machine/Slices.lean ====
section
/-!
DEFINITION. Self-tests and fences, and the warm reset of a die (17 R412-R424, R450; 13 R338-R340).
-/

namespace Sys2Proof.Machine

/-! ## Self-tests (R340, R422, R450) -/

/-- SYNREC records a structure: by its kind, unit and location; a hang names the matrix array (R421, R450). -/
def recordsIt (rec : Nat) (st : Structure) : Bool :=
  (bitsOf rec 63 60 == st.kind || (bitsOf rec 63 60 == 5 && st.kind == 3)) &&
  bitsOf rec 55 39 == st.unit % 2 ^ 17 && bitsOf rec 38 28 == st.loc % 2 ^ 11

/-- The result field of SYNREC takes the outcome of the self-test of the structure it records (R450). -/
def State.recordResult (s : State) (st : Structure) (pass : Bool) : State :=
  s.onDie (Structure.die st) (fun x =>
    if recordsIt x.synrec.toNat st && bitsOf x.synrec.toNat 57 56 == 0 then
      { x with synrec := x.synrec + BitVec.ofNat 64 ((if pass then 1 else 2) * 2 ^ 56) } else x)

/-! ## Fences (R412, R422) -/

/-- Sets bits of a register. -/
def orBit (x : DWord) (i : Nat) : DWord := x ||| BitVec.ofNat 64 (2 ^ i)

/-- The teams on a core or tile end as on TRET.kill (R422, R447). -/
def State.endTeamsOn (s : State) (u : Nat) : State :=
  forEach ((s.teams.filter (fun p => p.2.place == .resident u)).map (·.1)) s State.endTeam

/-- A tensor team saved out of a tile that is fenced can no longer be loaded: its launch records failed (R375). -/
def State.failSaved (s : State) (u : Nat) : State :=
  forEach (s.teams.filter (fun p => match p.2.place with | .savedOut v _ => v == u && isTile u | _ => false)) s
    (fun s p => s.failLaunch p.2.lid)

/-- A structure that failed its self-test is fenced (R422): of a link lane, the link runs at half width at both ends from now on, or from
the end of its retrain on; a link that is down stays down. -/
def State.fence (s : State) (st : Structure) : State :=
  let d := Structure.die st
  let u := st.loc
  match st.kind with
  | 0 => s.fenceSlice d (st.unit % 64)
  | 1 => s.onStack d (fun x => { x with fencedBanks := distinct (x.fencedBanks ++ [st.unit]) })
  | 2 =>
    let l := st.unit / 32768 % 4
    let s := s.onDie d (fun x => { x with fencedLanes := distinct (x.fencedLanes ++ [st.unit]) })
    if (s.die d).linkState l = 0 then s.setLinks d l 1 else s
  | _ =>
    let arr := if st.kind = 3 then st.unit % 6 else 6
    let s := s.onCore u (fun c => if st.kind = 3 then { c with fenced := distinct (c.fenced ++ [st.unit % 6]) } else { c with scratchFenced := true })
    let s := s.onDie d (fun x => { x with synclu := orBit (orBit x.synclu (u / 8 % 32)) (32 + arr) })
    (s.endTeamsOn u).failSaved u

/-- The structure exists (R422). -/
def Structure.exists_ (st : Structure) : Bool :=
  match st.kind with
  | 0 => st.loc < 2048 && st.loc % 8 == 0 && st.unit < 64
  | 1 => st.loc < 2048 && st.unit < 3072
  | 2 => st.loc < 2048 && st.unit < 98304
  | 3 => st.loc < 2048 && st.unit < 6
  | 4 => st.loc < 2048 && st.unit == 0
  | _ => false

/-- The structure is busy (R340, R412, R422). -/
def State.structBusy (s : State) (st : Structure) : Bool :=
  let d := s.die (Structure.die st)
  ((st.kind == 0 || st.kind == 3 || st.kind == 4) && (d.st == .quiesced || d.st == .flushed || d.st == .ready)) ||
  (st.kind == 2 && d.linkState (st.unit / 32768 % 4) == 2) || s.tests.any (fun t => t.1 == st)

/-- The outcome of a self-test takes effect. -/
def State.testDone (s : State) (st : Structure) (pass : Bool) : State := if pass then s else s.fence st

/-! ## Warm reset (R414-R419) -/

/-- Every request that a die's core region issued has been performed and acknowledged; waiting event words aside (R414). -/
def State.dieQuiet (s : State) (d : Nat) : Bool :=
  s.reqs.all (fun r => dieOf r.u != d || (r.kind == .evwait && r.performed))

/-- The teams queued in a die's clusters go back to the distributor, oldest first (R414). -/
def State.returnQueued (s : State) (d : Nat) : State :=
  let mine := s.clusterQ.filter (fun p => p.1 / 32 == d)
  let s := { s with clusterQ := s.clusterQ.filter (fun p => p.1 / 32 != d) }
  forEach (mine.flatMap (·.2)) s (fun s k => s.onTeam k (fun t => { t with place := .returned }))

/-- A request is aimed at a die's cores, tiles, scratchpads, cluster space or staging: an access in scratch space is none (R414; log 40). -/
def State.aimsAt (s : State) (r : Req) (d : Nat) : Bool :=
  match r.place with
  | .phys => false
  | .staging e _ => e == d
  | .scratch aid => match s.teamWith aid with
    | some k => match (s.team k).place with
      | .resident u => dieOf u == d && (u != r.u || r.net)
      | _ => false
    | none => false

/-- `drst.quiesce` begins (R414): requests in flight towards the die's units and staging will be answered with an error. -/
def State.beginQuiesce (s : State) (d tid : Nat) : State :=
  let s := (s.onDie d (fun x => { x with st := .quiesced, quiescing := some tid })).returnQueued d
  { s with reqs := s.reqs.map (fun r => if !r.performed && s.aimsAt r d then { r with err := some 0x0F } else r) }

/-- `drst.flush` (R415): teams on the die, or whose leg records its record store holds (log 17), end; slices and staging are
written back, and with them the lines that backed staging wrote; the fallback agent serves the home range from now on. -/
def State.flushDie (s : State) (d : Nat) : State :=
  let mine := s.teams.filter (fun p => match p.2.place with
    | .resident u => dieOf u == d
    | .stored cl => cl / 32 == d
    | _ => false)
  let s := forEach (mine.map (·.1)) s State.endTeam
  let flush := fun (s : State) => forEach (List.range 64) s (fun s sl => s.flushSlice (64 * d + sl))
  let s := forEach (List.range 64) (flush s) (fun s sl => s.releaseSlice d sl)
  (flush s).onDie d (fun x => { x with st := .flushed })

/-- The structures of a die that failed the tests of `drst.core`, as the n-th such run finds them. -/
def State.coreFailures (s : State) (d : Nat) : List Structure :=
  (Config.coreTests s.free d).filter (fun st => Structure.exists_ st && st.kind != 1 && st.kind != 2 && Structure.die st == d)

/-- The die is left without a usable cluster: every core or tile is fenced. -/
def State.noCluster (s : State) (d : Nat) : Bool := (List.range 256).all (fun i => s.unitFenced (256 * d + i))

/-- The links of a die that a reset has still to retrain: one that is down is not (R412). -/
def Die.toRetrain (d : Die) : List Nat := d.retrainsLeft.filter (fun l => d.linkState l != 3)

/-- The links of a die have been retrained after its reset (R418). -/
def Die.trained (d : Die) : Bool := d.toRetrain.isEmpty && (List.range 3).all (fun l => d.linkState l != 2)

/-- `drst.core` (R418): the core region restarts empty, its cycle counter at zero, its floors from the base die; failing structures
are fenced; without a usable cluster, or with a failing router, the step's status is 2. The die's links are to be retrained then. Held park
notices stay, which are never lost (R317; log 113). -/
def State.resetCore (s : State) (d : Nat) : Nat × State :=
  let fails := s.coreFailures d
  let router := Config.routerFails s.free d
  let s := { s with
    free := s.free + 1
    cores := s.cores.map (fun (p : Nat × Core) => if dieOf p.1 = d then
        (p.1, { fenced := p.2.fenced, scratchFenced := p.2.scratchFenced, notices := p.2.notices }) else p)
    tiles := s.tiles.filter (fun (p : Nat × Tile) => dieOf p.1 != d)
    walkCache := s.walkCache.filter (fun (p : Nat × DWord) => p.1 / 2 ^ 64 != d)
    floors := s.baseFloors.foldl (fun m (p : Nat × Version) => if p.1 / 64 = d then sset 0 m p.1 p.2 else m)
      (s.floors.filter (fun (p : Nat × Version) => p.1 / 64 != d))
    l2 := s.l2.filter (fun (p : Nat × L2Line) => decide (2 ^ 60 ≤ 128 * p.1) || homeDie (128 * p.1) != d)
    levels := s.levels.filter (fun (p : Nat × Level) => p.1 / 4 / 32 != d)
    lastSteal := s.lastSteal.filter (fun (p : Nat × Nat) => p.1 / 32 != d)
    lastStart := s.lastStart.filter (fun (p : Nat × Nat) => p.1 / 32 != d)
    quarantine := s.quarantine.filter (fun (p : Nat × (Nat × Nat)) => dieOf p.2.1 != d) }
  let now := s.clock
  let s := s.onDie d (fun x => { x with start := now, resets := x.resets + 1, retrainsLeft := [0, 1, 2] })
  let s := forEach fails s State.fence
  (if router || s.noCluster d then 2 else 0, s)

/-- A `drst.core` ends once the die's links are retrained: the die is ready, and the step's status arrives (R339, R418). -/
def State.endCore (s : State) (d : Nat) : State :=
  match (s.die d).resetting with
  | some (t, r) =>
    if (s.die d).trained then
      let s := s.onDie d (fun x => { x with st := .ready, resetting := none })
      { s with lates := s.lates ++ [{ id := s.fresh, tid := t, words := [(r, 0)] }], fresh := s.fresh + 1 }
    else s
  | none => s

end Sys2Proof.Machine
end

