-- ==== Sys2Proof/Machine/MemSys.lean ====
section
/-!
DEFINITION. The memory system's own events (16 R389-R406): fills and what damaged symbols do to them, evictions, the queues of sub-channels,
temperatures and refresh.
-/

namespace Sys2Proof.Machine

/-! ## Fills and evictions (R390, R393, R400) -/

/-- Some sector that a fill would bring is not there yet. -/
def State.fillNeeded (s : State) (line u : Nat) : Bool :=
  if s.granule (128 * line) == .s32 then !(s.holds (128 * line + 32 * (u % 4)) && s.holds (128 * line + 32 * (u % 4) + 16))
  else !(s.groupLines line).all (fun l => (List.range 8).all (fun x => s.holds (128 * l + 16 * x)))

/-- L2_FILL (R390): a slice fills line `line` (with its group; of an S32 line, unit `sub`); the symbols of its codewords that `errs` lists
are damaged in DRAM, beside those that were before. -/
def execL2Fill (s : State) : Host.Outcome State Fault Refusal :=
  let l := s.ev.line
  let pa := 128 * l + 32 * (s.ev.sub % 4)
  if isLocal pa && !s.atAgent pa && s.fillNeeded l s.ev.sub then
    .next ((s.hurtUnit pa s.ev.errs).touch l [2 * (s.ev.sub % 4)] ⟨0, sliceOf pa / 2⟩) else .next s

/-- L2_EVICTION (R393): a slice evicts line `line`; the symbols of its codewords that `errs` lists are damaged in DRAM. -/
def execL2Eviction (s : State) : Host.Outcome State Fault Refusal :=
  let l := s.ev.line
  .next (((if isLocal (128 * l) then s.hurtUnit (128 * l + 32 * (s.ev.sub % 4)) s.ev.errs else s)).evict l)

/-! ## Sub-channels (R405) -/

/-- Grants of a class among the newest n of a list. -/
def grantsOf (recent : List Nat) (n cls : Nat) : Nat := ((recent.take n).filter (· == cls)).length

/-- What of C (two) and M (one) a window of 8 grants that ends after j more grants still lacks (R405). -/
def lacks (recent : List Nat) (j : Nat) : Nat × Nat := (2 - grantsOf recent (8 - j) 1, 1 - grantsOf recent (8 - j) 2)

/-- The classes that the next grant must come from, if some window leaves no other choice. -/
def forced (recent : List Nat) : List Nat :=
  match ([1, 2, 3]).find? (fun j => decide (8 - j ≤ recent.length) && decide ((lacks recent j).1 + (lacks recent j).2 = j)) with
  | some j => (if (lacks recent j).1 = 0 then [] else [1]) ++ (if (lacks recent j).2 = 0 then [] else [2])
  | none => [0, 1, 2]

/-- The oldest of some requests. -/
def oldest (rs : List DramReq) : Option DramReq :=
  rs.foldl (fun b r => match b with
    | none => some r
    | some x => if r.at_ < x.at_ then some r else b) none

/-- A refresh keeps a bank of a stack unavailable (R403). -/
def Stack.isBusy (x : Stack) (now bank : Nat) : Bool := decide (now < sget 0 x.busy bank)

/-- The request that a sub-channel grants next (R405): one that has waited 4096 clocks, else of the classes that are due, the oldest that
hits an open row, else the oldest; none on a bank that is being refreshed. -/
def SubChan.choose (c : SubChan) (now : Nat) (busy : Nat → Bool) : Option DramReq :=
  match oldest (c.queue.filter (fun r => decide (r.at_ + 4096 ≤ now))) with
  | some r => if busy r.bank then none else some r
  | none =>
    let all := ([0, 1, 2]).all (fun k => c.queue.any (fun r => r.cls == k))
    let cand := (if all then c.queue.filter (fun r => (forced c.recent).contains r.cls) else c.queue).filter (fun r => !busy r.bank)
    match oldest (cand.filter (fun r => find? r.bank c.open_ == some r.row)) with
    | some r => some r
    | none => oldest cand

/-- The oldest request that waits for room in a direction joins the queue. -/
def SubChan.letIn (c : SubChan) (write : Bool) : SubChan :=
  match c.waiting.find? (fun r => r.write == write) with
  | some r => if c.room write then { c with queue := c.queue ++ [r], waiting := c.waiting.erase r } else c
  | none => c

/-- A sub-channel after a grant: the request has left and another may join, its row is open, its class counts while every class waits,
and a cluster without a request there is sent no level. -/
def SubChan.grant (c : SubChan) (r : DramReq) : SubChan :=
  let all := ([0, 1, 2]).all (fun k => c.queue.any (fun x => x.cls == k))
  let c := { c with queue := c.queue.erase r, open_ := sput r.bank r.row c.open_, recent := if all then (r.cls :: c.recent).take 8 else [] }
  let c := c.letIn r.write
  { c with sent := c.sent.filter (fun p => c.queue.any (fun x => x.cl == p.1)) }

/-- A bank's refresh at the limit is due: it comes before every grant (R405). -/
def State.atLimit (s : State) (n bank : Nat) : Bool := decide ((s.stack n).refreshLimit bank ≤ s.clock)

/-- QOS_GRANT (R405): sub-channel `ch` of stack `stack` grants a request. -/
def execQosGrant (s : State) : Host.Outcome State Fault Refusal :=
  let n := s.ev.stack
  let x := s.stack n
  let c := sget {} x.chans s.ev.ch
  if (List.range 48).any (s.atLimit n) then .next s
  else match c.choose s.clock (x.isBusy s.clock) with
    | none => .next s
    | some r =>
      let c := (c.grant r).meet (s.chanLevel n s.ev.ch) s.clock
      .next (s.onStack n (fun x => { x with chans := sset {} x.chans s.ev.ch c }))

/-! ## Temperature and refresh (R403, R404) -/

/-- The refresh step of a temperature, with 2 degrees of hysteresis when it falls: 0, 1 or 2 (R403). -/
def refreshStep (old temp : Nat) : Nat :=
  Nat.max (if 95 < temp then 2 else if 85 < temp then 1 else 0)
    (if old = 1365 ∧ 93 < temp then 2 else if old ≤ 2730 ∧ 83 < temp then 1 else 0)

/-- LAYER_TEMPERATURE_SAMPLE (R403): the controller of stack `stack` reads `temp` degrees from layer `layer`, at a multiple of 1400
clocks (log 100). -/
def execLayerTemperatureSample (s : State) : Host.Outcome State Fault Refusal :=
  let l := s.ev.layer
  let t := s.ev.temp
  let n := s.ev.stack
  .next (s.atClock ((s.clock + 1399) / 1400 * 1400) (fun s => s.onStack n (fun x =>
    let k := refreshStep (x.interval l) t
    { x with temps := sput l t x.temps, intervals := sput l (if k = 0 then 5460 else if k = 1 then 2730 else 1365) x.intervals })))

/-- A bank's next refresh falls due an interval after the one due now. -/
def Stack.nextDue (x : Stack) (bank : Nat) : Stack :=
  { x with due := sput bank (x.dueAt bank + x.interval (layerOf bank)) x.due }

/-- A refresh of a bank is performed: the bank is unavailable for 280 clocks (R403). -/
def Stack.refresh (x : Stack) (now bank : Nat) : Stack := { x with busy := sput bank (now + 280) x.busy }

/-- BANK_REFRESH (R403, R404): the refresh of bank `bank` of stack `stack` falls due and is performed, or postponed where fewer than 8
are; a postponed one is performed before its bank's next is due. At the limit REFRESH_AT_LIMIT performs it. -/
def execBankRefresh (s : State) : Host.Outcome State Fault Refusal :=
  let n := s.ev.stack
  let b := s.ev.bank
  let later := s.ev.postpone
  let x := s.stack n
  let p := sget 0 x.postponed b
  let now := s.clock
  if 48 ≤ b then .next s
  else if !later && 0 < p && now < x.dueAt b then
    .next (s.onStack n (fun x => { x.refresh now b with postponed := sset 0 x.postponed b (p - 1) }))
  else if 8 ≤ p then .next s
  else
    .next (s.atClock (x.dueAt b) (fun s => s.onStack n (fun x =>
      if later then { x.nextDue b with postponed := sset 0 x.postponed b (p + 1) } else (x.nextDue b).refresh s.clock b)))

/-- REFRESH_AT_LIMIT (R404): with 8 refreshes of bank `bank` postponed, the next one is performed when it falls due. -/
def execRefreshAtLimit (s : State) : Host.Outcome State Fault Refusal :=
  let n := s.ev.stack
  let b := s.ev.bank
  if sget 0 (s.stack n).postponed b < 8 then .next s
  else .next (s.atClock ((s.stack n).dueAt b) (fun s => s.onStack n (fun x => (x.nextDue b).refresh s.clock b)))

end Sys2Proof.Machine
end

