-- ==== Sys2Proof/Machine/Ras.lean ====
section
/-!
DEFINITION. Links, errors and self-tests (17 R408-R412, R421-R425, R450): flit replays and retrains, fatal errors, hangs, targeted self-tests and
clock stretching. Link 0 of die d goes to die d + 1, link 1 to die d - 1, link 2 is the spoke.
-/

namespace Sys2Proof.Machine

/-! ## Replays and retrains (R411, R412) -/

/-- The lane of a link as a structure (R422). -/
def laneOfLink (d l lane : Nat) : Structure := ⟨2, 256 * d, 32768 * l + lane % 32768⟩

/-- LINK_FLIT_REPLAY (R411, R450): a flit of link `link` of die `die` is replayed after an error on lane `sub`; `discard` says that a
good flit came before it. -/
def execLinkFlitReplay (s : State) : Host.Outcome State Fault Refusal :=
  let d := s.ev.die
  let l := s.ev.link % 3
  if (s.die d).linkState l = 3 || 8 ≤ d then .next s
  else
    let n := if s.ev.discard then 1 else sget 0 (s.die d).replays l + 1
    let s := s.record 2 0 (some 16) (laneOfLink d l s.ev.sub)
    .next (s.onDie d (fun x => { x with replays := sset 0 x.replays l n }))

/-- LINK_RETRAIN_START (R412): link `link` of die `die` retrains after a reset or a command of the firmware, which take links one after
another, or after 16 consecutive replays, which are recorded then (R422); it ends within 140000 clocks. -/
def execLinkRetrainStart (s : State) : Host.Outcome State Fault Refusal :=
  let d := s.ev.die
  let l := s.ev.link % 3
  let x := s.die d
  let replayed := decide (16 ≤ sget 0 x.replays l)
  let due := replayed || (x.toRetrain.head? == some l && (List.range 3).all (fun m => x.linkState m != 2))
  if 8 ≤ d || !due || 2 ≤ x.linkState l then .next s
  else
    let s := if replayed then s.record 2 0 none (laneOfLink d l s.ev.sub) else s
    let till := s.clock + 140000
    .next (((s.setLinks d l 2).onEnds d l (fun m x => { x with replays := sset 0 x.replays m 0, retrainBy := sput m till x.retrainBy })).onDie d
      (fun x => { x with retrainsLeft := x.retrainsLeft.erase l }))

/-- The queue of the copy that a beat belongs to. -/
def State.queueOfBeat (s : State) (b : Beat) : Option QRef :=
  ((s.team b.team).bands.find? (fun x => (s.band x).index == b.index)).map QRef.band

/-- A packet of the Sett is discarded with an error reply from die `d`, and the Sett sends it again (R412; log 81). -/
def State.sendAgain (s : State) (d : Nat) (p : Packet) : State :=
  (({ s with packets := s.packets.filter (· != p) } : State).countSent d).sendPacket p.cls p.ref settEnd p.dst

/-- A packet that was queued for a link that has gone down is discarded with an error reply from die `d` (R412): a request is not
performed, a result is marked, an acknowledgement says 0x0F, and a bridge copy meets the fault (log 81). The Sett sends its commands and
budgets again. -/
def State.discardPacket (s : State) (d : Nat) (p : Packet) : State :=
  match p.cls with
  | .mgt => s.sendAgain d p
  | .req => if 2 ^ 60 ≤ p.ref then s.sendAgain d p else
    match s.req? p.ref with
    | some r => if r.performed then s else
        (((((s.dropPackets .req r.id).countSent d).failReq r 0x0F).dropPackets .rsp r.id).sendPacket .rsp r.id (shellEnd d) r.u)
    | none => s
  | .rsp =>
    let s := (s.dropPackets .rsp p.ref).countSent d
    let s := { s with lates := s.lates.map (fun (x : Late) => if x.id = p.ref then { x with mark := 1 } else x) }
    (s.onReq p.ref (fun r => { r with err := some 0x0F })).sendPacket .rsp p.ref (shellEnd d) p.dst
  | .brg =>
    let gone := s.channels.flatMap (fun c => (c.2.sent.filter (fun x => x.1 == p.ref)).map (·.2))
    let s := (s.dropPackets .brg p.ref).countSent d
    let s := { s with channels := s.channels.map (fun (c : Nat × Channel) => (c.1, { c.2 with sent := c.2.sent.filter (fun x => x.1 != p.ref) })) }
    forEach gone s (fun s b => match s.queueOfBeat b with
      | some q => s.stopEntry q b.dno (0x0F, 0)
      | none => s)

/-- A link goes down (R412): packets queued for it are discarded, then others take the other direction round the ring. -/
def State.linkDown (s : State) (d l : Nat) : State :=
  let s := (s.setLinks d l 3).record 2 1 (some 0) (laneOfLink d l 0)
  (forEach (s.packets.filter (fun p => p.waitsFor d l)) s (fun s p => s.discardPacket (if p.node = settNode then d else p.node - 256) p)).reroute

/-- A link has trained (R412): at full width unless one of its lanes is fenced, at half width after the self-test of a lane failed, or
not at all, and it is down. -/
def State.trained (s : State) (d l : Nat) (o : LinkOutcome) (lane : Nat) : State :=
  match o with
  | .full =>
    let half := fun (x : Nat × Nat) => (s.die x.1).fencedLanes.any (fun u => u / 32768 == x.2)
    s.setLinks d l (if half (d, l) || (match peerOf d l with | some p => half p | none => false) then 1 else 0)
  | .half => (s.setLinks d l 1).onDie d (fun x => { x with fencedLanes := distinct (x.fencedLanes ++ [32768 * l + lane % 32768]) })
  | .down => s.linkDown d l

/-- LINK_RETRAIN_END (R412): the retrain of link `link` of die `die` ends as `retrain` says, `sub` being the lane that failed. A reset of a
die whose last link this was ends with it (R418). -/
def execLinkRetrainEnd (s : State) : Host.Outcome State Fault Refusal :=
  let d := s.ev.die
  let l := s.ev.link % 3
  if (s.die d).linkState l ≠ 2 then .next s
  else
    let s := ((s.onEnds d l (fun m x => { x with retrainBy := serase m x.retrainBy })).trained d l s.ev.retrain s.ev.sub).endCore d
    .next (match peerOf d l with
      | some p => s.endCore p.1
      | none => s)

/-! ## Errors (R421-R424) -/

/-- The die's teams end, and every barrier with a team on it breaks (R421, R447). -/
def State.dieFatal (s : State) (d : Nat) : State :=
  let here := s.teams.filter (fun p => !p.2.done && (match p.2.place with
    | .resident u => dieOf u == d
    | _ => false))
  let stored := s.teams.filter (fun p => !p.2.done && (match p.2.place with
    | .stored cl => cl / 32 == d
    | _ => false))
  let s := forEach (here.map (·.1)) s State.endTeam
  forEach stored s (fun s p =>
    let s := s.breakBarriers p.2.lid [s.groupOf p.1] true
    if (s.launch p.2.lid).status = 3 then s.cancelDependants p.2.lid else s)

/-- FATAL_ERROR (R421): an uncorrectable error in the control state of die `die`, in structure `struct`. -/
def execFatalError (s : State) : Host.Outcome State Fault Refusal :=
  let d := s.ev.die
  if 8 ≤ d then .next s
  else
    let st : Structure := { s.ev.struct with loc := 256 * d + s.ev.struct.loc % 256 }
    .next ((s.record st.kind 1 (some 0) st).dieFatal d)

/-- An error of the silicon that no other event names is recorded: class 0 corrected, 1 uncorrectable. A corrected error of a link is a
flit's, which is replayed (R450). -/
def State.dieError (s : State) (cls : Nat) (st : Structure) : State :=
  if !Structure.exists_ st || (cls = 0 && st.kind = 2) then s
  else if cls = 0 then s.record st.kind 0 (some (if st.kind = 1 then 32 else 48)) st else s.record st.kind 1 (some 0) st

/-- Where data lies that an error may poison: the structure of R422's table, and none where the machine has no such data. -/
def State.structureOf (s : State) (x : BadData) : Option Structure :=
  match x with
  | .scratch aid a => match (s.teamWith aid).map (fun k => ((s.team k).place, (s.team k).alloc)) with
    | some (.resident u, n) => if a < n then some ⟨4, u, 0⟩ else none
    | _ => none
  | .staging d sl off => if d < 8 ∧ sl < 64 ∧ off < 2 ^ 22 then some ⟨0, 256 * d, sl⟩ else none
  | .reg tid r => if (find? tid s.threads).isSome && decide (r < 64) then some ⟨3, unitOf tid, 0⟩ else none
  | .slot u o off => if isTile u && decide (o < 16 ∧ off < slotSize) then some ⟨3, u, 4⟩ else none
  | .acc u k => if isTile u && decide (k < 16384) then some ⟨3, u, 2⟩ else none
  | .vreg u k => if isTile u && decide (k < 2048) then some ⟨3, u, 3⟩ else none

/-- Marks the granule of some data poisoned; a poisoned register traps its reader with 0x10 (R220, R423). -/
def State.markBad (s : State) (x : BadData) : State :=
  match x with
  | .scratch aid a => s.setPoison (.scratch aid) a true
  | .staging d sl off => s.setPoison (.staging d sl) off true
  | .reg tid r => s.onThread tid (fun t => { t with mark := sset 0 t.mark r 2 })
  | .slot u o off => s.onTile u (fun t => t.poisonSlot o [off])
  | .acc u k => s.onTile u (fun t => { t with accPoison := sset false t.accPoison k true })
  | .vreg u k => s.onTile u (fun t => { t with vPoison := sset false t.vPoison k true })

/-- Data of the silicon outside memory is found uncorrectable: the error is recorded and the data is poisoned (R422, R423). -/
def State.badData (s : State) (x : BadData) : State :=
  match s.structureOf x with
  | some st => (s.record st.kind 1 (some 0) st).markBad x
  | none => s

/-- MATRIX_ENGINE_HANG (R421): the matrix engine of tile `u`, which has had all its inputs and was not halted, has made no progress for
2^20 clocks. -/
def execMatrixEngineHang (s : State) : Host.Outcome State Fault Refusal :=
  let u := s.ev.u
  match s.hangDue u with
  | none => .next s
  | some t => .next (s.atClock t (fun s => (s.record 5 2 none ⟨3, u, 2⟩).onTile u (fun t => { t with lastProgress := s.clock })))

/-- TARGETED_SELF_TEST (R422, R450): the test of structure `struct`, due since its error, passes or fails as `pass` says. -/
def execTargetedSelfTest (s : State) : Host.Outcome State Fault Refusal :=
  let st := s.ev.struct
  if !s.tests.any (fun t => t.1 == st) then .next s
  else
    let s := { s with tests := s.tests.filter (fun t => t.1 != st) }
    .next ((s.recordResult st s.ev.pass).testDone st s.ev.pass)

/-- CLOCK_STRETCH (R425): the arithmetic clock of die `die` is stretched; counts of clocks do not change (R6). -/
def execClockStretch (s : State) : Host.Outcome State Fault Refusal := .next (s.onDie s.ev.die (fun d => { d with stretched := true }))

/-- SUPPLY_SAG_END (R425). -/
def execSupplySagEnd (s : State) : Host.Outcome State Fault Refusal := .next (s.onDie s.ev.die (fun d => { d with stretched := false }))

end Sys2Proof.Machine
end

