-- ==== Sys2Proof/Machine/Boot.lean ====
section
/-!
DEFINITION. The boot chain, measurements and attestation (19 R440-R444). Digests, signatures, keys and certificates are functions of outside
standards (log 8); the order of SPDM requests and their codes are the SPDM standard's (log 32).
-/

namespace Sys2Proof.Machine

/-! ## Measurements (R442) -/

/-- The bytes of a digest, in the order of its standard: most significant first (log 8). -/
def bytes48 (x : BitVec 384) : List Byte := (toBytes 48 x.toNat).reverse

/-- A 384-bit value from its bytes, little-endian (R4). -/
def word48 (b : List Byte) : BitVec 384 := BitVec.ofNat 384 (fromBytes b)

/-- Measurement slot m: zero until it is extended. -/
def Boot.slot (b : Boot) (m : Nat) : BitVec 384 := sget 0 b.slots m

/-- Slot m is extended with an image (R442). -/
def Boot.extend (b : Boot) (m : Nat) (image : List Byte) : Boot :=
  { b with slots := sset 0 b.slots m (Config.sha384 (bytes48 (b.slot m) ++ bytes48 (Config.sha384 image))) }

/-! ## Firmware images (R441) -/

/-- n bytes of an image at an offset, as a number. -/
def imageField (b : List Byte) (off n : Nat) : Nat := fromBytes ((b.drop off).take n)

/-- A firmware image verifies (R441). -/
def Boot.verifies (b : Boot) (image : List Byte) : Bool :=
  let len := imageField image 12 4
  let key := (image.drop 16).take 96
  let slot := imageField image 112 1
  let part := fun off => word48 ((image.drop off).take 48)
  decide (352 + len ≤ image.length) && imageField image 0 4 == 0x4D524653 && !b.revoked.contains slot &&
  find? slot b.keyHash == some (Config.sha384 key) && decide (b.rollback ≤ imageField image 8 4) &&
  Config.ecdsaVerify (part 16) (part 64) (part 256) (part 304) (Config.sha384 (image.take 256 ++ (image.drop 352).take len))

/-! ## The chain (R440) -/

/-- Stage 0: the ROM reads the fuses and measures itself and them (R440, R442). -/
def Boot.stage0 (b : Boot) : Boot :=
  ({ b with slots := [], stage := .rom }.extend 1 b.rom).extend 5 (toBytes 8 b.fuseState ++ toBytes 8 b.rollback)

/-- The Alias certificate is issued and signed by the DeviceID key (R443). -/
def Boot.issue (b : Boot) : Boot :=
  let key := Config.aliasKey ([1, 2, 3, 4].map b.slot)
  { b with aliasCert := key ++ Config.deviceSign key }

/-- Stages 2 to 4 after Sett firmware runs from an image: base-die and optical firmware are verified and measured, and the package
comes up; an image that does not verify leaves the package in recovery (log 33). -/
def Boot.later (b : Boot) (image : List Byte) : Boot :=
  let b := b.extend 2 image
  if !b.verifies b.baseImage then { b with stage := .recovery }
  else
    let b := b.extend 3 b.baseImage
    if !b.verifies b.opticalImage then { b with stage := .recovery }
    else { (b.extend 4 b.opticalImage).issue with stage := .up }

/-- The whole chain from a cold reset: copy A, else copy B, else recovery (R440, R441). -/
def Boot.run (b : Boot) : Boot :=
  let b := b.stage0
  if b.verifies b.flashA then b.later b.flashA
  else if b.verifies b.flashB then b.later b.flashB
  else { b with stage := .recovery }

/-- What the security block keeps across a cold reset: fuses, flash and ROM. -/
def Boot.kept (b : Boot) : Boot :=
  { keyHash := b.keyHash, revoked := b.revoked, rollback := b.rollback, fuseState := b.fuseState, rom := b.rom, flashA := b.flashA,
    flashB := b.flashB, baseImage := b.baseImage, opticalImage := b.opticalImage }

/-- Bring-up of a die: its slices, banks, arrays and scratchpads are tested, the failing ones are fenced, and it comes online unless no
cluster is usable; its core region leaves reset now (R440, R422, R418, R209). -/
def State.bringUp (s : State) (d : Nat) : State :=
  let fails := (Config.coreTests s.free d).filter (fun st => Structure.exists_ st && st.kind != 2 && Structure.die st == d)
  let router := Config.routerFails s.free d
  let s := forEach fails { s with free := s.free + 1 } State.fence
  let now := s.clock
  s.onDie d (fun x => { x with start := now, st := if router || s.noCluster d then .fenced else x.st })

/-- Every ring link and spoke trains (R412, R440). -/
def State.trainLinks (s : State) : State :=
  forEach ((List.range 8).flatMap (fun d => [(d, 0), (d, 2)])) s (fun s p =>
    let o := Config.linkTraining s.free p.1 p.2
    { s with free := s.free + 1 }.trained p.1 p.2 (if o % 3 = 0 then .full else if o % 3 = 1 then .half else .down) (o / 3))

/-- Stage 4 brings the package up: links train, dies are tested and come online. -/
def State.openUp (s : State) : State := if s.boot.stage == .up then forEach (List.range 8) s.trainLinks State.bringUp else s

/-- A cold reset (R440, R413): both domains of every die restart; other packages' memory, what was sent out and what acts next stay. -/
def State.coldReset (s : State) : State :=
  let far := fun (p : Nat) (size : Nat) => decide (2 ^ 60 ≤ p * size)
  ({ State.reset with
    fresh := s.fresh
    free := s.free
    agenda := s.agenda
    focus := s.focus
    ev := s.ev
    mem := s.mem.filter (fun c => far c.1 1)
    poison := s.poison.filter (fun c => far c.1 16)
    versions := s.versions.filter (fun c => far c.1 128)
    lost := s.lost.filter (fun c => far c.1 128)
    outs := s.outs
    boot := s.boot.kept.run } : State).openUp

/-- COLD_RESET (R440). -/
def execColdReset (s : State) : Host.Outcome State Fault Refusal := .next s.coldReset

/-- DEBUG_ENABLE_CHANGE (R442): the debug-enable state becomes `v`, and a change extends slot 6. -/
def execDebugEnableChange (s : State) : Host.Outcome State Fault Refusal :=
  let v := s.ev.v.toNat
  if s.boot.debug = v then .next s else .next { s with boot := { s.boot with debug := v }.extend 6 (toBytes 8 v) }

/-- What may happen before the package is up, while every die is held in reset and the host port and the fabric are disabled (R440, R441): a
cold reset, a change of the debug state, the load of a recovery image. -/
def actsInReset (i : Instr) : Bool :=
  match i with
  | .coldReset => true
  | .recoveryImageLoad => true
  | .debugEnableChange => true
  | _ => false

/-- The model's own items that act before the package is up: clocks that pass, and what the outside sets. -/
def itemInReset (x : Item) : Bool :=
  match x with
  | .elapse _ => true
  | .firmware (.setFlash _ _ _ _) => true
  | .firmware (.setFuses _ _ _ _ _) => true
  | _ => false

/-- RECOVERY_IMAGE_LOAD (R441): in recovery, an image that verifies runs as Sett firmware. -/
def execRecoveryImageLoad (s : State) : Host.Outcome State Fault Refusal :=
  if s.boot.stage == .recovery && s.boot.verifies s.ev.data then .next { s with boot := s.boot.later s.ev.data }.openUp else .next s

/-! ## SPDM (R444) -/

/-- Response codes of the SPDM standard. -/
def spdmError : Nat := 0x7F

/-- An SPDM request is answered once the package is up. -/
def spdmEvent (s : State) (f : State → State) : Host.Outcome State Fault Refusal := portEvent s f

/-- Answers with an error: 1 InvalidRequest, 4 UnexpectedRequest, 6 DecryptError, 7 UnsupportedRequest. -/
def State.spdmFail (s : State) (code : Nat) : State := s.send (.spdm spdmError [BitVec.ofNat 8 code])

/-- Requests after NEGOTIATE_ALGORITHMS; an earlier one is unexpected. -/
def State.afterAlgs (s : State) (f : State → State) : State := if s.spdm.algs then f s else s.spdmFail 4

/-- The certificate chain of slot 0 (R443). -/
def State.chain (s : State) : List Byte := Config.certChain ++ s.boot.aliasCert

/-- The measurements of all six slots (R444). -/
def State.measured (s : State) : List Byte := ([1, 2, 3, 4, 5, 6].map s.boot.slot).flatMap bytes48

/-- A body signed by the Alias key over it and the requester's nonce (R444). -/
def State.signed (s : State) (body : List Byte) : List Byte := body ++ Config.aliasSign ([1, 2, 3, 4].map s.boot.slot) (s.ev.data ++ body)

/-- GET_VERSION (R444): version 1.3. -/
def execGetVersion (s : State) : Host.Outcome State Fault Refusal :=
  spdmEvent s (fun s => { s with spdm := { version := true, count := s.spdm.count } }.send (.spdm 0x04 [0x13]))

/-- GET_CAPABILITIES (R444). -/
def execGetCapabilities (s : State) : Host.Outcome State Fault Refusal :=
  spdmEvent s (fun s => if s.spdm.version then { s with spdm := { s.spdm with caps := true } }.send (.spdm 0x61 []) else s.spdmFail 4)

/-- NEGOTIATE_ALGORITHMS (R444): ECDSA P-384, SHA-384, ECDHE secp384r1 and AES-256-GCM. -/
def execNegotiateAlgorithms (s : State) : Host.Outcome State Fault Refusal :=
  spdmEvent s (fun s =>
    let a := s.ev.algs
    if !s.spdm.caps then s.spdmFail 4
    else if a.ecdsaP384 && a.sha384 && a.ecdheSecp384r1 && a.aes256Gcm then
      { s with spdm := { s.spdm with algs := true } }.send (.spdm 0x63 [])
    else s.spdmFail 1)

/-- GET_DIGESTS (R444): the digest of slot 0's chain. -/
def execGetDigests (s : State) : Host.Outcome State Fault Refusal :=
  spdmEvent s (fun s => s.afterAlgs (fun s => s.send (.spdm 0x01 (bytes48 (Config.sha384 s.chain)))))

/-- GET_CERTIFICATE (R444): `len` bytes from offset `va` of the chain in slot 0; no other slot exists. -/
def execGetCertificate (s : State) : Host.Outcome State Fault Refusal :=
  spdmEvent s (fun s => s.afterAlgs (fun s =>
    if s.ev.slot = 0 then s.send (.spdm 0x02 ((s.chain.drop s.ev.va).take s.ev.len)) else s.spdmFail 1))

/-- CHALLENGE (R444): slot 0's chain digest and the measurements, signed with the nonce `data`. -/
def execChallenge (s : State) : Host.Outcome State Fault Refusal :=
  spdmEvent s (fun s => s.afterAlgs (fun s =>
    if s.ev.slot = 0 then s.send (.spdm 0x03 (s.signed (bytes48 (Config.sha384 s.chain) ++ bytes48 (Config.sha384 s.measured)))) else s.spdmFail 1))

/-- GET_MEASUREMENTS (R444): the number of indices for 0, index 1-6, or all for 255; signed with the nonce `data` where there is one. -/
def execGetMeasurements (s : State) : Host.Outcome State Fault Refusal :=
  spdmEvent s (fun s => s.afterAlgs (fun s =>
    let sign := fun b => if s.ev.data.isEmpty then b else s.signed b
    if s.ev.slot = 0 then s.send (.spdm 0x60 (sign [6]))
    else if 1 ≤ s.ev.slot ∧ s.ev.slot ≤ 6 then s.send (.spdm 0x60 (sign (bytes48 (s.boot.slot s.ev.slot))))
    else if s.ev.slot = 255 then s.send (.spdm 0x60 (sign s.measured))
    else s.spdmFail 1))

/-- KEY_EXCHANGE (R444): a session begins, without mutual authentication. -/
def execKeyExchange (s : State) : Host.Outcome State Fault Refusal :=
  spdmEvent s (fun s => s.afterAlgs (fun s =>
    if s.ev.slot ≠ 0 then s.spdmFail 1
    else
      let n := s.spdm.count
      let body := s.signed (Config.ecdhePublic n)
      { s with spdm := { s.spdm with handshake := true, session := false, count := n + 1 } }.send (.spdm 0x64 body)))

/-- FINISH (R444): the session is established where its message verifies. -/
def execFinish (s : State) : Host.Outcome State Fault Refusal :=
  spdmEvent s (fun s => s.afterAlgs (fun s =>
    if !s.spdm.handshake then s.spdmFail 4
    else if Config.finishVerify (s.spdm.count - 1) s.ev.data then
      { s with spdm := { s.spdm with handshake := false, session := true } }.send (.spdm 0x65 [])
    else { s with spdm := { s.spdm with handshake := false } }.spdmFail 6))

/-- END_SESSION (R444). -/
def execEndSession (s : State) : Host.Outcome State Fault Refusal :=
  spdmEvent s (fun s => if s.spdm.session then { s with spdm := { s.spdm with session := false } }.send (.spdm 0x6C []) else s.spdmFail 4)

/-- UNSUPPORTED_REQUEST (R444): any other request. -/
def execUnsupportedRequest (s : State) : Host.Outcome State Fault Refusal := spdmEvent s (fun s => s.spdmFail 7)

end Sys2Proof.Machine
end

