-- ==== Sys2Proof/Machine/Control.lean ====
section
/-!
DEFINITION. Branches, calls, exits and the other control instructions (06 R203-R210; 01 R24-R27).
-/

namespace Sys2Proof.Machine

/-! ## Branches and calls -/

/-- The target of a B-format word (R153). -/
def targetOf (f : BFmt) (pc : DWord) : DWord := pc + (f.off.signExtend 64 <<< 3)

/-- A B-format condition holds for a thread (R153, R203). -/
def taken (f : BFmt) (s : State) (tid : Nat) : Bool :=
  branchCond (bitsOf f.cnd.toNat 3 0)
    (if f.cnd.getLsbD 4 then (s.band (bandOf tid)).sreg f.a.toNat else (s.thread tid).reg f.a.toNat)

/-- BRA (R203). -/
def execBra (f : BFmt) (s : State) : Host.Outcome State Fault Refusal :=
  lanewise (.bra f) s noCheck (fun x tid t => if taken f x tid then { t with pc := targetOf f x.cur.pc } else t)

/-- Trap 0x0D where a push would spill below the spill area or to a page that takes no write (R26). -/
def State.pushCheck (s : State) (tid : Nat) : Check :=
  let t := s.thread tid
  if t.stack.length < 4 then .pass
  else if t.csp.toNat < 8 then .trap 0x0D (t.csp.setWidth 64)
  else if s.privOk tid (t.csp.toNat - 8) 8 true then .pass
  else .trap 0x0D ((t.csp - 8).setWidth 64)

/-- The threads among some whose push spills. -/
def State.spillers (s : State) (tids : List Nat) : List Nat := tids.filter (fun t => 4 ≤ (s.thread t).stack.length)

/-- The spill stores of a bundle (R24, R108): the oldest entry at CSP - 8, one request per line, on stream 0. -/
def State.spill (s : State) (tids : List Nat) : State :=
  let xs := (s.spillers tids).map (fun t =>
    let a := (s.thread t).csp.toNat - 8
    (t, (s.privBytes t a 8).addrs, a, toBytes 8 ((s.thread t).stack.headD 0).toNat))
  let s := forEach xs s (fun s x => s.privWalks x.1 x.2.2.1 8)
  let s := s.issueLines s.cur.u 0 false 0 false (fun _ => .store)
    (xs.map (fun x => (.phys, [], none, { tid := x.1, va := x.2.2.1, addrs := x.2.1, data := x.2.2.2 })))
  forEach xs s (fun s x => s.l1Store s.cur.u (x.2.1.zip x.2.2.2))

/-- The call stack after a push (R24). -/
def Thread.push (t : Thread) (x : DWord) : Thread :=
  if t.stack.length < 4 then { t with stack := t.stack ++ [x] }
  else { t with stack := t.stack.drop 1 ++ [x], csp := t.csp - 8 }

/-- Pushes the return address for some threads. -/
def State.pushAll (s : State) (tids : List Nat) : State :=
  forEach tids (s.spill tids) (fun s t => s.onThread t (fun x => x.push (s.cur.pc + 8)))

/-- CALL (R203). -/
def execCall (f : BFmt) (s : State) : Host.Outcome State Fault Refusal :=
  .next (perform (.call f) s (fun x t => if taken f x t then x.pushCheck t else .pass)
    (fun x tids =>
      let go := tids.filter (taken f x)
      forEach go (x.pushAll go) (fun y t => y.onThread t (fun z => { z with pc := targetOf f y.cur.pc }))))

/-- Trap 0x04 for a target that is not a multiple of 8 (R163). -/
def targetCheck (x : DWord) : Check := if x.toNat % 8 != 0 then .trap 0x04 x else .pass

/-- BRX (R204). -/
def execBrx (f : RFmt) (s : State) : Host.Outcome State Fault Refusal :=
  lanewise (.brx f) s (fun x t => targetCheck ((x.thread t).reg64 f.a.toNat))
    (fun _ _ t => { t with pc := t.reg64 f.a.toNat })

/-- CALLX (R204). -/
def execCallx (f : RFmt) (s : State) : Host.Outcome State Fault Refusal :=
  .next (perform (.callx f) s (fun x t => (targetCheck ((x.thread t).reg64 f.a.toNat)).andThen (x.pushCheck t))
    (fun x tids => forEach tids (x.pushAll tids) (fun y t => y.onThread t (fun z => { z with pc := z.reg64 f.a.toNat }))))

/-- RET's checks (R25, R26, R163). -/
def State.popCheck (s : State) (tid : Nat) : Check :=
  let t := s.thread tid
  match t.stack.getLast? with
  | some x => targetCheck x
  | none =>
    if (s.band (bandOf tid)).spilltop ≤ t.csp then .trap 0x0D 0
    else if s.privOk tid t.csp.toNat 8 false then .pass
    else .trap 0x0D (t.csp.setWidth 64)

/-- A refill (R25, R108, R288): the thread waits at its RET for the loaded word. -/
def State.refill (s : State) (tid : Nat) : State :=
  let t := s.thread tid
  let x := s.privBytes tid t.csp.toNat 8
  let u := unitOf tid
  let r : Req := { id := 0, seq := s.fresh, u := u, place := .phys, kind := .refill,
                   parts := [{ tid := tid, va := t.csp.toNat, addrs := x.addrs, dests := [(0, 0), (1, 1)] }], l1 := x.cached }
  let held := s.reqs.any (fun q => q.of tid && q.before r tid)
  let id := s.fresh
  let s := (s.privWalks tid t.csp.toNat 8).waitHere tid (.refill id)
  if x.cached && !held && s.l1Has u x.addrs then
    let bs := x.addrs.map (fun a => (find? a (s.core u).l1).getD 0)
    { s with fresh := s.fresh + 1, lates := s.lates ++ [{ id := id, tid := tid, words := [(0, wordOf bs 0), (1, wordOf bs 1)] }] }
  else s.addReq r

/-- RET pops for a thread (R25). -/
def State.pop (s : State) (tid : Nat) : State :=
  match (s.thread tid).stack.getLast? with
  | some x => s.onThread tid (fun t => { t with pc := x, stack := t.stack.dropLast })
  | none => s.refill tid

/-- RET (R205). -/
def execRet (f : RFmt) (s : State) : Host.Outcome State Fault Refusal :=
  .next (perform (.ret f) s State.popCheck (fun x tids => forEach tids x State.pop))

/-- CALL_STACK_REFILL_RETURN (R288, R26): the loaded word is the thread's next pc; poison, an error reply or a misaligned
target traps at the RET with nothing changed. -/
def execCallStackRefillReturn (s : State) : Host.Outcome State Fault Refusal :=
  let tid := s.ev.tid
  let t := s.thread tid
  match t.wait with
  | .refill id =>
    match s.lates.find? (fun l => l.id == id && !s.carries .rsp id) with
    | none => .next s
    | some l =>
      let s := { s with lates := s.lates.filter (fun x => x.id != id) }
      let s := s.onThread tid (fun t => { t with wait := .none })
      let w := fun r => ((l.words.find? (fun x => x.1 == r)).map (·.2)).getD 0
      let x : DWord := w 1 ++ w 0
      if l.mark != 0 then .next (s.raise tid (if l.mark = 1 then 0x0F else 0x10) (t.csp.setWidth 64))
      else if x.toNat % 8 != 0 then .next (s.raise tid 0x04 x)
      else .next (s.onThread tid (fun t => { t with pc := x, csp := t.csp + 8 }))
  | _ => .next s

/-- EXIT (R206): a deferred store error of any stream traps first (R221). -/
def execExit (f : RFmt) (s : State) : Host.Outcome State Fault Refusal :=
  .next (perform (.exit f) s (fun x t => x.storeError t (fun _ => true)) (fun x tids => forEach tids x State.leave))

/-! ## Other control instructions (R207-R210) -/

/-- NOP (R207). -/
def execNop (f : RFmt) (s : State) : Host.Outcome State Fault Refusal := lanewise (.nop f) s noCheck (fun _ _ t => t)

/-- A word whose effect is a trap with TVAL = SignExtend(IMM24, 24). -/
def trapAlways (i : Instr) (cause : Nat) (imm : BitVec 24) (s : State) : Host.Outcome State Fault Refusal :=
  .next (perform i s (fun _ _ => .trap cause (imm.signExtend 64)) (fun x _ => x))

/-- TRAP (R207). -/
def execTrap (f : IFmt) (s : State) : Host.Outcome State Fault Refusal := trapAlways (.trap f) 0x11 f.imm s
/-- BKPT (R207). -/
def execBkpt (f : IFmt) (s : State) : Host.Outcome State Fault Refusal := trapAlways (.bkpt f) 0x12 f.imm s
/-- SVC (R337). -/
def execSvc (f : IFmt) (s : State) : Host.Outcome State Fault Refusal := trapAlways (.svc f) 0x17 f.imm s

/-- A die's cycle counter (R209); the Sett's counts from the cold reset. -/
def State.cycle (s : State) (u : Nat) : Nat := s.clock - (if isMgmt u then 0 else (s.die (dieOf u)).start)

/-- CLK (R209). -/
def execClk (f : RFmt) (s : State) : Host.Outcome State Fault Refusal :=
  lanewise (.clk f) s noCheck (fun x _ t => t.setReg64 f.d.toNat (BitVec.ofNat 64 (x.cycle x.cur.u)))

/-- How many values of a launch's step budget a unit has received: those that have reached it, and every one written 512 clocks ago
or earlier (R386). -/
def State.budgetsGot (s : State) (u lid : Nat) : Nat :=
  Nat.max ((s.launch lid).budgets.filter (fun p => decide (p.1 + 512 ≤ s.clock))).length ((find? lid (s.core u).budgets).getD 0)

/-- The step budget a unit holds for a launch: the latest value received, else STEPS (R386). -/
def State.budget (s : State) (u lid : Nat) : Nat :=
  let b := (s.launch lid).budgets
  match b[b.length - Nat.max 1 (s.budgetsGot u lid)]? with
  | some p => p.2.toNat
  | none => (s.launch lid).desc.steps

/-- The special values of R210. -/
def State.special (s : State) (tid idx : Nat) : Nat :=
  let bid := bandOf tid
  let b := s.band bid
  let k := s.team b.team
  let d := (s.launch k.lid).desc
  let t := s.thread tid
  match idx with
  | 0 => laneOf tid
  | 1 => b.index
  | 2 => k.x
  | 3 => k.y
  | 4 => k.z
  | 5 => d.gx
  | 6 => d.gy
  | 7 => d.gz
  | 8 => bandLoc bid
  | 9 => b.lanes
  | 10 => k.lid % 2 ^ 32
  | 11 => b.fpmode.toNat
  | 12 => s.budget (unitOf tid) k.lid
  | 13 => if isShader (unitOf tid) then b.psize else 0
  | 14 => k.alloc
  | 15 => t.csp.toNat
  | 16 => t.stack.length
  | _ => t.vset.length + (if t.vover then 16 else 0)

/-- SREG (R210). -/
def execSreg (f : IFmt) (s : State) : Host.Outcome State Fault Refusal :=
  lanewise (.sreg f) s noCheck (fun x tid t => t.setReg f.d.toNat (BitVec.ofNat 32 (x.special tid f.imm.toNat)))

/-- YIELD (R207, R208): unready until the next regroup on a shader core, nothing elsewhere. -/
def execYield (f : RFmt) (s : State) : Host.Outcome State Fault Refusal :=
  lanewise (.yield f) s noCheck (fun x _ t => if isShader x.cur.u then { t with wait := .regroup } else t)

/-- SLEEP (R208): with 0, as YIELD; otherwise the thread stays at the word until its clocks have passed. -/
def execSleep (f : IFmt) (s : State) : Host.Outcome State Fault Refusal :=
  lanewise (.sleep f) s noCheck (fun x _ t =>
    if f.imm == 0 then (if isShader x.cur.u then { t with wait := .regroup } else t)
    else { t with pc := x.cur.pc, wait := .sleep (x.clock + f.imm.toNat) })

/-- SLEEP_EXPIRE (R208): the clocks have passed; the thread goes on after its SLEEP. -/
def execSleepExpire (s : State) : Host.Outcome State Fault Refusal :=
  let tid := s.ev.tid
  match (s.thread tid).wait with
  | .sleep till =>
    .next (s.atClock till (fun s => s.onThread tid (fun t =>
      { t.advance with wait := if isShader (unitOf tid) then .regroup else .none })))
  | _ => .next s

end Sys2Proof.Machine
end

