-- ==== Sys2Proof/Machine/Gang.lean ====
section
/-!
DEFINITION. The gang matrix product and 2:4 compression (08 R258-R263; 03 R101-R105).
-/

namespace Sys2Proof.Machine

/-! ## GANG (R258) -/

/-- The list is valid for a band (R258). -/
def State.gangOk (s : State) (bid n : Nat) (w : Word) : Bool :=
  let b := s.band bid
  let l := gangList n w
  (distinct l).length == n && l.all (fun i => i < (s.team b.team).bands.length) && l.contains b.index &&
  w.toNat < 2 ^ (5 * n)

/-- The thread whose list a GANG takes: the lowest-numbered of those that perform it and pass its checks (R258). -/
def State.gangLeader (s : State) (f : RFmt) : Nat :=
  let is := s.cur
  32 * is.bid + lowest 0 (is.lanes.filter (fun l =>
    performs s f.ms l && laneCheck (.gang f) is.word is.u (s.band is.bid).nregs (s.thread (32 * is.bid + l)) == .pass))

/-- GANG (R258). -/
def execGang (f : RFmt) (s : State) : Host.Outcome State Fault Refusal :=
  let n := f.fn.toNat
  let w := (s.thread (s.gangLeader f)).reg f.a.toNat
  .next (perform (.gang f) s
    (fun x _ => if x.gangOk x.cur.bid n w then .pass else .trap 0x05 (w.setWidth 64))
    (fun x _ => x.onBand x.cur.bid (fun b => { b with gang := { n := n, list := w, count := 0, arrivals := b.gang.arrivals } })))

/-! ## GMMA (R259-R261) -/

/-- Format word fields (R102). -/
def fmtFa (w : Word) : Nat := bitsOf w.toNat 3 0
/-- See fmtFa. -/
def fmtFb (w : Word) : Nat := bitsOf w.toNat 7 4
/-- A valid format word (R102). -/
def fmtOk (w : Word) : Bool :=
  let fa := fmtFa w
  let fb := fmtFb w
  bitsOf w.toNat 31 24 == 0 && fa < 4 && fb < 4 && (fa / 2 == fb / 2) &&
  (fa / 2 == 1 || (bitsOf w.toNat 15 8 == 127 && bitsOf w.toNat 23 16 == 127))

/-- GMMA's own checks (R259): a gang, which is a check of the entry and so follows those of the operands (R159), then the marked
registers of D. -/
def gmmaCheck (f : RFmt) (s : State) (tid : Nat) : Check :=
  let t := s.thread tid
  if (s.band (bandOf tid)).gang.n == 0 then .trap 0x01 s.cur.word
  else match (runOf f.d.toNat 32).find? (fun r => t.markOf r != 0) with
    | some r => .trap (if t.markOf r = 1 then 0x0F else 0x10) (regTval .d r)
    | none => .pass

/-- Removes the first arrival of a band. -/
def Band.popArrival (b : Band) (counted : Bool) : Band :=
  { b with gang := { b.gang with arrivals := b.gang.arrivals.drop 1, count := b.gang.count + (if counted then 1 else 0) } }

/-- A trap is raised in every waiting thread of the listed bands (R103, R260). -/
def State.gangTrap (s : State) (bands : List Nat) (cause : Nat) (tval : DWord) : State :=
  forEach bands s (fun s b =>
    match s.arrival b with
    | none => s
    | some a =>
      let s := s.onBand b (Band.popArrival · false)
      forEach a.lanes s (fun s l => s.raise (32 * b + l) cause tval))

/-- The format words of an arrival's lanes. -/
def State.fmtWords (s : State) (b : Nat) (a : Arrival) : List (Nat × Word) :=
  a.lanes.map (fun l => (l, (s.thread (32 * b + l)).reg (a.regs.getD 3 0)))

/-- The TVAL of a format divergence (R103). -/
def divergence (first : Word) (pos lane : Nat) : DWord :=
  BitVec.ofNat 64 (first.toNat * 2 ^ 32 + pos * 256 + lane)

/-- The element of a fragment: registers from a, element i (R261). -/
def fragElem (t : Thread) (a fa i : Nat) : Nat :=
  if fa ≤ 1 then (t.reg (a + i / 2)).toNat / 65536 ^ (i % 2) % 65536 else (t.reg (a + i / 4)).toNat / 256 ^ (i % 4) % 256

/-- The element kinds of R102 in the numbering of `elemNum`. -/
def gangKind (f : Nat) : Nat := if f = 0 then 4 else if f = 1 then 5 else f - 2

/-- Row r (0-15) of a band's A operand: 32 elements, +0 where the lane does not perform. -/
def State.gangRow (s : State) (b : Nat) (a : Arrival) (w : Word) (r : Nat) : List Num :=
  (List.range 32).map (fun q =>
    let l := 2 * r + q / 16
    if a.lanes.contains l then
      elemNum (gangKind (fmtFa w)) (fragElem (s.thread (32 * b + l)) (a.regs.getD 1 0) (fmtFa w) (q % 16))
    else .fin false 0 0 false)

/-- The new accumulators of a lane (R101, R261). -/
def State.gangLane (s : State) (b : Nat) (a : Arrival) (w : Word) (bm : List (List Num)) (l : Nat) : List Word :=
  let t := s.thread (32 * b + l)
  let row := s.gangRow b a w (l / 2)
  (List.range 32).map (fun c =>
    let col := bm.getD (32 * (l % 2) + c) []
    let sum := blockSum (List.zipWith Num.mul row col) (some (bitsOf w.toNat 15 8, bitsOf w.toNat 23 16))
    BitVec.ofNat 32 (fadd32 (t.reg (a.regs.getD 0 0 + c)).toNat sum))

/-- The released product (R261): threads go on past their GMMA, accumulators empty, results on their way. -/
def State.gangProduct (s : State) (bands : List Nat) (w : Word) (base : Nat) : State :=
  let aid := (s.team (s.band (bands.headD 0)).team).aid
  let size := if fmtFa w ≤ 1 then 2 else 1
  let bm := (List.range 64).map (fun j => (List.range 32).map (fun q =>
    elemNum (gangKind (fmtFb w)) (s.readNat (.scratch aid) (base + (32 * j + q) * size) size)))
  let grp := s.fresh
  let old := s
  let s := { s with fresh := s.fresh + 1 }
  forEach bands s (fun s b =>
    match old.arrival b with
    | none => s
    | some a =>
      let s := s.onBand b (Band.popArrival · true)
      forEach a.lanes s (fun s l =>
        let tid := 32 * b + l
        let d := a.regs.getD 0 0
        let ws := old.gangLane b a w bm l
        let s := (s.release tid).onThread tid (fun t => t.emptyRegs d 32)
        { s with fresh := s.fresh + 1, lates := s.lates ++ [{
            id := s.fresh, tid := tid, words := (runOf d 32).zip ws, u := unitOfBand b, grp := grp }] }))

/-- The latch is evaluated for an arriving band (R260, R103, R261). A g[B] that is no multiple of 128 traps when the latch releases, in
every listed band, after the format words and before the range (log 93). -/
def State.tryLatch (s : State) (bid : Nat) : State :=
  let bands := s.gangBands bid
  let k := (s.band bid).gang.count
  if !(bands.all (fun b => (s.arrival b).isSome && (s.band b).gang.count == k)) then s
  else
    let firstB := bands.headD 0
    let words := bands.map (fun b => match s.arrival b with | some a => s.fmtWords b a | none => [])
    let first := (((words.headD []).head?).map (·.2)).getD 0
    let lists := bands.map (fun b => ((s.band b).gang.n, (s.band b).gang.list))
    let odd := (List.range bands.length).find? (fun p => lists[p]? != lists.head?)
    let diff := (List.range bands.length).findSome? (fun p =>
      ((words.getD p []).find? (fun x => x.2 != first)).map (fun x => (p, x.1)))
    match odd, diff with
    | some p, _ => s.gangTrap bands 0x0A (divergence first p 0xFE)
    | none, some (p, l) => s.gangTrap bands 0x0A (divergence first p l)
    | none, none =>
      if !fmtOk first then s.gangTrap bands 0x0A (divergence first 0xFF 0xFF)
      else
        let a0 := s.arrival firstB
        let lane := (a0.bind (fun a => a.lanes.head?)).getD 0
        let base := ((s.thread (32 * firstB + lane)).reg (((a0.map (·.regs)).getD []).getD 2 0)).toNat
        let bytes := 64 * 32 * (if fmtFa first ≤ 1 then 2 else 1)
        let t := s.team (s.band firstB).team
        let tval := BitVec.ofNat 64 base
        if base % 128 != 0 then s.gangTrap bands 0x04 tval
        else if t.alloc < base + bytes then s.gangTrap bands 0x05 tval
        else match (List.range (bytes / 4)).find? (fun i => s.poisoned (.scratch t.aid) (base + 4 * i)) with
          | some i => s.gangTrap bands 0x10 (BitVec.ofNat 64 (base + 4 * i))
          | none => s.gangProduct bands first base

/-- The listed bands of a band's gang that have not arrived, as a mask of band indices (R260). -/
def State.missing (s : State) (bid : Nat) : Word :=
  maskOf (((s.gangBands bid).filter (fun b => (s.arrival b).isNone)).map (fun b => (s.band b).index))

/-- Every waiting band of a gang takes trap 0x13 (R260). -/
def State.gangExpire (s : State) (bid : Nat) : State :=
  s.gangTrap ((s.gangBands bid).filter (fun b => (s.arrival b).isSome)) 0x13 ((s.missing bid).setWidth 64)

/-- A bundle arrives at the latch and waits there (R260). -/
def State.gangArrive (s : State) (f : RFmt) (tids : List Nat) : State :=
  let bid := s.cur.bid
  let a : Arrival := { lanes := tids.map laneOf, regs := [f.d.toNat, f.a.toNat, f.b.toNat, f.c.toNat], since := s.clock,
                       word := s.cur.word }
  let s := s.onBand bid (fun b => { b with gang := { b.gang with arrivals := b.gang.arrivals ++ [a] } })
  let s := forEach tids s (fun s t => s.waitWord t (.latch s.clock))
  let s := s.tryLatch bid
  if (s.arrival bid).isSome && s.gangDead bid then s.gangExpire bid else s

/-- GMMA (R259-R261). -/
def execGmma (f : RFmt) (s : State) : Host.Outcome State Fault Refusal :=
  .next (perform (.gmma f) s (gmmaCheck f) (fun x tids => x.gangArrive f tids))

/-- GANG_TIMEOUT (R260): band `bid` has waited GANGTO clocks, or a listed band has no live thread. -/
def execGangTimeout (s : State) : Host.Outcome State Fault Refusal :=
  let bid := s.ev.bid
  match s.gangDue bid with
  | none => .next s
  | some t => .next (s.atClock t (State.gangExpire · bid))

/-- GMMA_RESULT_DELIVERY (R261): the oldest released GMMA of unit `u` delivers its accumulators. -/
def execGmmaResultDelivery (s : State) : Host.Outcome State Fault Refusal :=
  let mine := s.lates.filter (fun l => l.grp != 0 && l.u == s.ev.u)
  match mine with
  | [] => .next s
  | l :: ls =>
    let g := ls.foldl (fun m x => Nat.min m x.grp) l.grp
    let due := mine.filter (fun x => x.grp == g)
    let s := { s with lates := s.lates.filter (fun x => !(x.grp == g && x.u == s.ev.u)) }
    .next (forEach due s (fun s x => s.onThread x.tid (fun t => t.deliver x.mark x.words)))

/-! ## Fragments (R262) -/

/-- Bytes between the two halves of a fragment row (R262). -/
def fragHalf (f : MFmt) : Nat := if f.sz == 0 then 16 else if f.sz == 1 then 32 else 128

/-- The address of a lane's share of a fragment (R262). -/
def fragAddr (f : MFmt) (t : Thread) (l : Nat) : Nat :=
  let stride := if f.b == 63 then 0 else (t.reg f.b.toNat).toNat
  ((t.reg f.a.toNat).toNat + (l / 2) * stride + (l % 2) * fragHalf f + (f.off.signExtend 32 * 16).toNat) % 2 ^ 32

/-- The checks of a fragment access (R262): alignment, then the allocation. -/
def fragCheck (f : MFmt) (s : State) (tid : Nat) : Check :=
  let a := fragAddr f (s.thread tid) (laneOf tid)
  let v := BitVec.ofNat 64 a
  firstTrap [(a % 16 != 0, 0x04, v), (!decide (a + 4 * fragRegs f.sz ≤ (s.team (s.teamOf tid)).alloc), 0x05, v)]

/-- GLDF of a thread: one load for each 16 bytes. -/
def State.loadFrag (s : State) (f : MFmt) (tid : Nat) : State :=
  let t := s.thread tid
  let a := fragAddr f t (laneOf tid)
  let n := fragRegs f.sz
  let aid := (s.team (s.teamOf tid)).aid
  let s := s.onThread tid (fun t => t.emptyRegs f.d.toNat n)
  forEach (List.range (n / 4)) s (fun s j => s.addReq
    { id := 0, seq := 0, u := unitOf tid, place := .scratch aid, kind := .load, st := f.st.toNat,
      parts := [{ tid := tid, va := a, addrs := runOf (a + 16 * j) 16,
                  dests := (List.range 4).map (fun i => (f.d.toNat + 4 * j + i, i)) }] })

/-- GLDF (R262). -/
def execGldf (f : MFmt) (s : State) : Host.Outcome State Fault Refusal :=
  .next (perform (.gldf f) s (fragCheck f) (fun x tids => forEach tids x (fun y t => y.loadFrag f t)))

/-- GSTF (R262). -/
def execGstf (f : MFmt) (s : State) : Host.Outcome State Fault Refusal :=
  .next (perform (.gstf f) s (fragCheck f) (fun x tids =>
    x.issueLines x.cur.u f.st.toNat false 0 false (fun _ => .store) (tids.map (fun t =>
      let a := fragAddr f (x.thread t) (laneOf t)
      let n := 4 * fragRegs f.sz
      (.scratch (x.team (x.teamOf t)).aid, [], none,
        { tid := t, va := a, addrs := runOf a n, data := dataBytes (x.thread t) f.d.toNat n })))))

/-! ## 2:4 compression (R104, R105, R263) -/

/-- Bits of an element of a type (R263). -/
def elemBits (ty : BitVec 4) : Nat :=
  if ty == 13 then 4 else if ty == 4 || ty == 11 || ty == 12 then 8 else if ty == 6 || ty == 8 then 32 else 16

/-- The value of an element's bits, for its magnitude. -/
def elemVal (ty : BitVec 4) (x : Nat) : Num :=
  if ty.toNat < 8 then ofInt (toSigned (elemBits ty) x) else (fmtOf ty).decode x

/-- n registers as one number, the first lowest. -/
def regsNat (t : Thread) (r n : Nat) : Nat :=
  (List.range n).foldl (fun acc i => acc + (t.reg (r + i)).toNat * 2 ^ (32 * i)) 0

/-- Writes a number over n registers. -/
def Thread.setNat (t : Thread) (r n x : Nat) : Thread :=
  t.setRegs r ((List.range n).map (fun i => BitVec.ofNat 32 (x / 2 ^ (32 * i))))

/-- CMPRS of a group (R104): the kept elements and the nibble. -/
def compress (ty : BitVec 4) (x : Nat) : Nat × Nat :=
  let w := elemBits ty
  let e := fun i => x / 2 ^ (w * i) % 2 ^ w
  let k := keepTwo ((List.range 4).map (fun i => elemVal ty (e i)))
  (e k.1 + 2 ^ w * e k.2, k.1 + 4 * k.2)

/-- DCMPRS of a group (R105): a later write wins on an equal index. -/
def expand (ty : BitVec 4) (kept nib : Nat) : Nat :=
  let w := elemBits ty
  let i0 := nib % 4
  let i1 := nib / 4 % 4
  let e0 := kept % 2 ^ w
  let e1 := kept / 2 ^ w % 2 ^ w
  (if i0 = i1 then 0 else e0 * 2 ^ (w * i0)) + e1 * 2 ^ (w * i1)

/-- Registers that hold the kept elements of a type before the nibble. -/
def keptHi (ty : BitVec 4) : Nat := if elemBits ty = 32 then 2 else 1

/-- CMPRS (R263). -/
def execCmprs (f : RFmt) (s : State) : Host.Outcome State Fault Refusal :=
  lanewise (.cmprs f) s noCheck (fun _ _ t =>
    let k := compress f.ty (regsNat t f.a.toNat (groupRegs f.ty))
    let h := keptHi f.ty
    t.setNat f.d.toNat (keptRegs f.ty) (k.1 + k.2 * 2 ^ (32 * h)))

/-- DCMPRS (R263). -/
def execDcmprs (f : RFmt) (s : State) : Host.Outcome State Fault Refusal :=
  lanewise (.dcmprs f) s noCheck (fun _ _ t =>
    let h := keptHi f.ty
    let x := regsNat t f.a.toNat (keptRegs f.ty)
    t.setNat f.d.toNat (groupRegs f.ty) (expand f.ty (x % 2 ^ (32 * h)) (x / 2 ^ (32 * h) % 16)))

end Sys2Proof.Machine
end

