-- ==== Sys2Proof/Machine/Image.lean ====
section
/-!
DEFINITION. Saved images and leg records (13 R321-R326; 08 R265): thread, entry and band records, the tile block, the header and its
sections, how an image is written and how its records are read back. Codes and packings that the tables leave open are the
model's (log 16).
-/

namespace Sys2Proof.Machine

/-! ## Bytes -/

/-- Bytes padded with zeros to a length. -/
def padTo (n : Nat) (b : List Byte) : List Byte := b ++ List.replicate (n - b.length) 0

/-- A Boolean as a number. -/
def bit (b : Bool) : Nat := if b then 1 else 0

/-- The set bits of a list of flags, bit i from element i. -/
def flagsOf (l : List Bool) : Nat := (l.zip (List.range l.length)).foldl (fun n p => n + bit p.1 * 2 ^ p.2) 0

/-- A sparse table from its first values. -/
def tableOf {α : Type} [DecidableEq α] (d : α) (l : List α) : List (Nat × α) :=
  ((List.range l.length).zip l).foldl (fun m p => sset d m p.1 p.2) []

/-- Word i of a run of words. -/
def wordsFrom (b : List Byte) (off n : Nat) : List Word := (List.range n).map (fun i => BitVec.ofNat 32 (fieldOf b (off + 4 * i) 4))

/-- A 64-bit field. -/
def dwordAt (b : List Byte) (off : Nat) : DWord := BitVec.ofNat 64 (fieldOf b off 8)

/-! ## Handles (R323) -/

/-- State and page of a handle in 8 bytes; its base stands before them. -/
def handlePage (h : Handle) : Nat :=
  let l := h.leaf
  let reps := ((List.range l.reps.length).zip l.reps).foldl (fun n p => n + p.2 % 8 * 8 ^ p.1) 0
  l.pa / 65536 % 2 ^ 32 + (match h.st with | .invalid => 0 | .pending => 1 | .valid => 2 | .faulted => 3 | .revoked => 4) * 2 ^ 32 +
  l.size % 4 * 2 ^ 35 + bit l.r * 2 ^ 37 + bit l.w * 2 ^ 38 + bit l.x * 2 ^ 39 + granCode l.gran * 2 ^ 40 + bit l.vd * 2 ^ 42 +
  bit l.c * 2 ^ 43 + l.sdef % 16 * 2 ^ 44 + l.reps.length % 4 * 2 ^ 48 + reps * 2 ^ 50

/-- A handle in 16 bytes. -/
def handleBytes (h : Handle) : List Byte := toBytes 8 h.base.toNat ++ toBytes 8 (handlePage h)

/-- A handle read back in an address space (R326): a valid or pending one is revoked where `stale` says that INVSEQ has passed
INVAT; a pending one walks again. -/
def handleFrom (b : List Byte) (off asid root : Nat) (stale : Bool) : Handle :=
  let w := fieldOf b (off + 8) 8
  let st : HState := match bitsOf w 34 32 with
    | 0 => .invalid
    | 1 => if stale then .revoked else .pending
    | 2 => if stale then .revoked else .valid
    | 3 => .faulted
    | _ => .revoked
  let leaf : Leaf :=
    { pa := bitsOf w 31 0 * 65536, size := bitsOf w 36 35, r := w.testBit 37, w := w.testBit 38, x := w.testBit 39,
      gran := granOf (bitsOf w 41 40), vd := w.testBit 42, c := w.testBit 43, sdef := bitsOf w 47 44,
      reps := ([bitsOf w 52 50, bitsOf w 55 53, bitsOf w 58 56]).take (bitsOf w 49 48) }
  if st == .invalid then {}
  else { st := st, base := dwordAt b off, asid := asid, leaf := leaf, walk := if st == .pending then some (3, root) else none }

/-! ## Wait records -/

/-- The kind and the captured values of a wait, of a thread whose gang arrival is the n-th of its band. -/
def waitBytes (w : Wait) (n : Nat) (addr : Nat) : Nat × List Byte :=
  match w with
  | .none => (0, [])
  | .regroup => (1, [])
  | .join m => (2, toBytes 1 m)
  | .waitm m g => (3, toBytes 1 m ++ toBytes 1 (bit g))
  | .sleep till => (4, toBytes 8 till)
  | .barrier kind bar g carry d trap since =>
    (5, toBytes 1 kind.code ++ toBytes 1 bar ++ toBytes 1 (bit g) ++ toBytes 1 carry ++ toBytes 1 d ++ toBytes 3 (bit trap) ++ toBytes 8 since)
  | .wpred => (6, [])
  | .twait k c => (7, toBytes 1 k ++ toBytes 2 c)
  | .tokens ts a =>
    (8, (match a with
      | .orel o => toBytes 1 0 ++ toBytes 1 o
      | .rngf q => toBytes 1 1 ++ toBytes 1 q) ++ toBytes 2 ts.length ++ ts.flatMap (fun p => toBytes 1 p.1 ++ toBytes 2 p.2.toNat))
  | .rnga q d => (9, toBytes 1 q ++ toBytes 1 d)
  | .evwait _ want d => (10, toBytes 4 d ++ toBytes 4 want.toNat ++ toBytes 8 addr)
  | .fxw k => (11, toBytes 1 k)
  | .refill _ => (0, [])
  | .latch since => (13, toBytes 8 n ++ toBytes 8 since)
  | .ray _ _ => (0, [])
  | .invw seq d => (15, toBytes 4 seq ++ toBytes 1 d)
  | .halted => (0, [])

/-- A wait read back; that of EVWAIT gets its request's name afterwards. -/
def waitFrom (k : Nat) (p : List Byte) : Wait :=
  let b := fun i => fieldOf p i 1
  match k with
  | 1 => .regroup
  | 2 => .join (b 0)
  | 3 => .waitm (b 0) (b 1 != 0)
  | 4 => .sleep (fieldOf p 0 8)
  | 5 => .barrier (if b 0 = 0 then .team else if b 0 = 1 then .cluster else .launch) (b 1) (b 2 != 0) (b 3) (b 4) (b 5 != 0) (fieldOf p 8 8)
  | 6 => .wpred
  | 7 => .twait (b 0) (fieldOf p 1 2)
  | 8 => .tokens ((List.range (fieldOf p 2 2 % 4)).map (fun i => (b (4 + 3 * i), BitVec.ofNat 16 (fieldOf p (5 + 3 * i) 2))))
      (if b 0 = 0 then .orel (b 1) else .rngf (b 1))
  | 9 => .rnga (b 0) (b 1)
  | 10 => .evwait 0 (BitVec.ofNat 32 (fieldOf p 4 4)) (b 0)
  | 11 => .fxw (b 0)
  | 13 => .latch (fieldOf p 8 8)
  | 15 => .invw (fieldOf p 0 4) (b 4)
  | _ => .none

/-! ## Thread records (R323) -/

/-- A hit in 16 bytes; none is identifier 0xFFFFFFFF. -/
def hitBytes (h : Option Hit) : List Byte :=
  match h with
  | some x => toBytes 4 x.t.toNat ++ toBytes 4 x.u.toNat ++ toBytes 4 x.v.toNat ++ toBytes 4 x.id.toNat
  | none => toBytes 12 0 ++ toBytes 4 0xFFFFFFFF

/-- A hit read back. -/
def hitFrom (b : List Byte) (off : Nat) (present : Bool) : Option Hit :=
  let w := wordsFrom b off 4
  if present then some ⟨w.getD 0 0, w.getD 1 0, w.getD 2 0, w.getD 3 0⟩ else none

/-- TSTATE of a thread (R312). -/
def Thread.tstate (t : Thread) : DWord := BitVec.ofNat 64 (16 * bit t.inh + 4 * t.pprv + t.prv)

/-- The record of a thread; `word` is the instruction at its pc, `n` its gang arrival and `addr` the event word it waits on. -/
def threadRecord (t : Thread) (word : DWord) (n addr : Nat) (registers : Nat) : List Byte :=
  let w := match t.parked with
    | some p => (32, toBytes 1 p.cause ++ toBytes 7 (bit p.d) ++ toBytes 8 p.tval.toNat)
    | none => waitBytes t.wait n addr
  let bara := (List.range 16).foldl (fun x i => match find? i t.bara with
    | some g => x + bit g * 2 ^ i + 2 ^ (16 + i)
    | none => x) 0
  toBytes 8 t.pc.toNat ++ toBytes 4 t.csp.toNat ++
  toBytes 4 (bit t.exited + 2 * bit t.parked.isSome + 4 * t.stack.length + 256 * t.age) ++
  padTo 32 (t.stack.flatMap (fun x => toBytes 8 x.toNat)) ++
  toBytes 8 (flagsOf ((List.range 64).map (fun i => decide (i < registers) && !t.isEmpty i))) ++
  toBytes 16 ((List.range 64).foldl (fun x i => x + (if i < registers then t.markOf i else 0) * 4 ^ i) 0) ++
  (match t.serr with
   | some e => toBytes 8 e.addr ++ toBytes 1 e.cause ++ toBytes 1 e.st ++ toBytes 6 1
   | none => toBytes 16 0) ++
  toBytes 8 t.tstate.toNat ++ toBytes 8 t.tcause.toNat ++ toBytes 8 t.tval.toNat ++ toBytes 8 t.tpc.toNat ++ toBytes 8 t.tscr.toNat ++
  toBytes 8 (t.vset.length + 16 * bit t.vover) ++
  padTo 128 (t.vset.flatMap (fun e => toBytes 8 (128 * e.line) ++ toBytes 8 e.ver.toNat)) ++
  toBytes 8 bara ++
  (List.range 8).flatMap (fun i => handleBytes (t.hdl i)) ++
  t.ray.o.flatMap (fun x => toBytes 4 x.toNat) ++ t.ray.dir.flatMap (fun x => toBytes 4 x.toNat) ++
  toBytes 4 t.ray.tmin.toNat ++ toBytes 4 t.ray.tmax.toNat ++
  toBytes 1 t.ray.hdl ++ toBytes 1 (bit t.ray.cand.isSome + 2 * bit t.ray.hit.isSome + 4 * bit t.ray.finished) ++
  toBytes 1 t.ray.stack.length ++ toBytes 5 t.ray.sub ++ toBytes 8 t.ray.cur.toNat ++ hitBytes t.ray.cand ++
  toBytes 1 w.1 ++ toBytes 7 t.efinfo.toNat ++ toBytes 8 word.toNat ++ padTo 16 w.2 ++ toBytes 8 t.efword.toNat ++ toBytes 8 t.efpc.toNat ++
  (List.range 64).flatMap (fun i => toBytes 4 (if i < registers then (t.reg i).toNat else 0)) ++
  hitBytes t.ray.hit ++ toBytes 48 0 ++ padTo 192 (t.ray.stack.reverse.flatMap (fun x => toBytes 4 x.toNat))

/-- A thread read back from its record (R326); bits of its registers that the tables of R312 reserve read as 0 (R5). The virtual addresses
of its version set come from beside the image (log 29). -/
def threadFrom (b : List Byte) (asid root : Nat) (stale : Bool) : Thread :=
  let flags := fieldOf b 0x0C 4
  let full := fieldOf b 0x30 8
  let marks := fieldOf b 0x38 16
  let ts := fieldOf b 0x58 8
  let vs := fieldOf b 0x80 8
  let bara := fieldOf b 0x108 8
  let rf := fieldOf b 0x1B1 1
  let kind := fieldOf b 0x1D0 1
  let p := (b.drop 0x1E0).take 16
  { pc := addrField (dwordAt b 0), wword := dwordAt b 0x1D8, csp := BitVec.ofNat 32 (fieldOf b 8 4), exited := flags.testBit 0,
    parked := if flags.testBit 1 then some ⟨fieldOf p 0 1, dwordAt p 8, fieldOf p 1 1 != 0⟩ else none,
    stack := (List.range (bitsOf flags 4 2)).map (fun i => dwordAt b (0x10 + 8 * i)), age := bitsOf flags 14 8,
    empty := tableOf false ((List.range 64).map (fun i => !full.testBit i)),
    mark := tableOf 0 ((List.range 64).map (fun i => marks / 4 ^ i % 4)),
    serr := if fieldOf b 0x52 1 = 1 then some ⟨fieldOf b 0x51 1, fieldOf b 0x50 1, fieldOf b 0x48 8⟩ else none,
    inh := ts.testBit 4, pprv := bitsOf ts 3 2, prv := bitsOf ts 1 0, tcause := dwordAt b 0x60 &&& 0x1DFF, tval := dwordAt b 0x68,
    tpc := addrField (dwordAt b 0x70), tscr := dwordAt b 0x78,
    efinfo := BitVec.ofNat 64 (fieldOf b 0x1D1 7 % 2 ^ 51), efword := dwordAt b 0x1F0, efpc := addrField (dwordAt b 0x1F8), vover := vs.testBit 4,
    vset := (List.range (vs % 16)).map (fun i =>
      ⟨fieldOf b (0x88 + 16 * i) 8 / 128, BitVec.ofNat 40 (fieldOf b (0x90 + 16 * i) 8), asid, 2 ^ 52⟩),
    bara := (List.range 16).foldl (fun m i => if bara.testBit (16 + i) then sput i (bara.testBit i) m else m) [],
    h := tableOf {} ((List.range 8).map (fun i => handleFrom b (0x110 + 16 * i) asid root stale)),
    ray := { o := wordsFrom b 0x190 3, dir := wordsFrom b 0x19C 3, tmin := (wordsFrom b 0x1A8 1).headD 0,
             tmax := (wordsFrom b 0x1AC 1).headD 0, hdl := fieldOf b 0x1B0 1, cur := dwordAt b 0x1B8, sub := fieldOf b 0x1B3 1,
             stack := (wordsFrom b 0x340 (Nat.min 48 (fieldOf b 0x1B2 1))).reverse,
             cand := hitFrom b 0x1C0 (rf.testBit 0), hit := hitFrom b 0x300 (rf.testBit 1), finished := rf.testBit 2 },
    wait := if flags.testBit 1 then .none else waitFrom kind p,
    g := tableOf 0 (wordsFrom b 0x200 64) }

/-! ## Entry records (R324) -/

/-- The record of a queue entry; a fault it has met stands in the last four of the register words, which no instruction captures, and bit 1
beside the started flag says that its TCB snapshot is taken (R66). -/
def entryRecord (e : Entry) : List Byte :=
  toBytes 8 e.word.toNat ++ toBytes 8 e.addr.toNat ++ toBytes 4 e.dno ++ toBytes 4 e.upc ++
  padTo 6 (e.waits.flatMap (fun w => toBytes 2 w.2.toNat)) ++ toBytes 1 (bit e.started + 2 * bit e.snap.isSome) ++
  toBytes 1 (laneOf e.tid + 32 * bit e.finished + 64 * bit e.nan + 128 * bit e.fault.isSome) ++
  padTo 48 ((e.regs.take 12).flatMap (fun w => toBytes 4 w.toNat)) ++
  toBytes 8 ((e.fault.map (·.1)).getD 0) ++ toBytes 8 ((e.fault.map (·.2.toNat)).getD 0) ++ padTo 32 (e.hdls.flatMap handleBytes) ++
  padTo 128 (e.snap.getD [])

/-- The records of a queue: 32, the empty ones all zeros. -/
def queueRecords (q : Queue) : List Byte := padTo 8192 (q.entries.flatMap entryRecord)

/-- The format E fields of an engine or copy word. -/
def efmtOf (w : DWord) : EFmt := unpackE w

/-- An entry read back for the first thread `tid0` of its band; none for an empty record. -/
def entryFrom (b : List Byte) (tid0 asid : Nat) (stale : Bool) : Option Entry :=
  let word := dwordAt b 0
  if b.all (· == 0) then none
  else
    let f := efmtOf word
    let toks := [f.w0, f.w1, f.w2].filter (· != 31)
    let flags := fieldOf b 0x1F 1
    let snap := (b.drop 0x80).take 128
    some {
      instr := ofWord word, word := word, addr := dwordAt b 8, tid := tid0 + flags % 32, dno := fieldOf b 0x10 4,
      upc := fieldOf b 0x14 4,
      waits := ((List.range toks.length).zip toks).map (fun p => (p.2.toNat, BitVec.ofNat 16 (fieldOf b (0x18 + 2 * p.1) 2))),
      tok := if f.d == 63 then none else some f.d.toNat, started := (fieldOf b 0x1E 1).testBit 0, regs := wordsFrom b 0x20 12,
      hdls := [handleFrom b 0x60 asid 0 stale, handleFrom b 0x70 asid 0 stale],
      snap := if (fieldOf b 0x1E 1).testBit 1 then some snap else none, nan := flags.testBit 6, finished := flags.testBit 5,
      fault := if flags.testBit 7 then some (fieldOf b 0x50 8, dwordAt b 0x58) else none }

/-- A queue read back: halted, in Fault, and its fault reported as three flags say. -/
def queueFrom (b : List Byte) (tid0 asid : Nat) (stale : Bool) (flags : Nat) : Queue :=
  { entries := (List.range 32).filterMap (fun i => entryFrom ((b.drop (256 * i)).take 256) tid0 asid stale),
    halted := flags.testBit 0, faulted := flags.testBit 1, reported := flags.testBit 2 }

/-! ## Band sections (R322) -/

/-- The header of a band. -/
def bandHeader (b : Band) (parked : Word) : List Byte :=
  let words := fun (l : List Word) => l.flatMap (fun w => toBytes 4 w.toNat)
  words ((List.range 12).map b.mask) ++ words ((List.range 12).map b.arr) ++
  toBytes 4 (flagsOf ((List.range 12).map b.gen)) ++ toBytes 4 parked.toNat ++
  toBytes 4 b.gang.list.toNat ++ toBytes 4 b.gang.n ++ toBytes 8 b.fpmode.toNat ++ toBytes 8 b.tvec.toNat ++ toBytes 8 b.pkqb.toNat ++
  toBytes 4 b.gang.count ++ toBytes 4 (bit (!b.gang.arrivals.isEmpty)) ++ toBytes 48 (flagsOf [b.cq.halted, b.cq.faulted, b.cq.reported]) ++
  (List.range 16).flatMap (fun i => toBytes 2 (b.tok i).done.toNat ++ toBytes 2 (b.tok i).issued.toNat) ++
  words ((List.range 64).map b.sreg)

/-- Tokens read back from words of issued << 16 | done. -/
def tokensFrom (b : List Byte) (off n : Nat) : List (Nat × Token) :=
  tableOf {} ((List.range n).map (fun i =>
    let dn := fieldOf b (off + 4 * i) 2
    let is := fieldOf b (off + 4 * i + 2) 2
    ({ issued := BitVec.ofNat 16 is, done := BitVec.ofNat 16 dn, acq := is != 0 } : Token)))

/-- A band read back over the one its launch gives it (R326); its gang arrivals and queue follow from the other records. -/
def bandFrom (b : List Byte) (base : Band) : Band :=
  let fp := BitVec.ofNat 64 (fieldOf b 0x70 8 % 2)
  { base with
    m := tableOf 0 (wordsFrom b 0 12), arrived := tableOf 0 (wordsFrom b 0x30 12),
    gens := tableOf false ((List.range 12).map (fun i => (fieldOf b 0x60 4).testBit i)), fpmode := fp, fpLive := fp,
    tvec := addrField (dwordAt b 0x78), pkqb := dwordAt b 0x80 &&& 0xFFFFFFFFFF00F,
    gang := { n := fieldOf b 0x6C 4, list := (wordsFrom b 0x68 1).headD 0, count := fieldOf b 0x88 4, arrivals := [] },
    k := tokensFrom b 0xC0 16, s := tableOf 0 (wordsFrom b 0x100 64) }

/-- The event word that a thread waits on, as the address of its request. -/
def State.eventAddr (s : State) (t : Thread) : Nat :=
  match t.wait with
  | .evwait id _ _ => ((s.req? id).map Req.first).getD 0
  | _ => 0

/-- Which gang arrival of its band a lane waits in. -/
def Band.arrivalOf (b : Band) (l : Nat) : Nat := b.gang.arrivals.findIdx (fun a => a.lanes.contains l)

/-- The instruction word of a thread's record: of a wait that takes its fields from it, the word that waits (R253). -/
def State.imageWord (s : State) (bid : Nat) (t : Thread) : DWord :=
  match t.wait with
  | .evwait _ _ _ => t.wword
  | .latch _ => t.wword
  | _ => (s.fetch (unitOfBand bid) (s.asidOf (32 * bid)) t.pc.toNat).getD 0

/-- The records of a band's 32 threads, those that do not exist as zeros; registers from `keep` on as 0. -/
def State.threadRecords (s : State) (bid : Nat) (keep : Nat → Nat) : List Byte :=
  let b := s.band bid
  (List.range 32).flatMap (fun l =>
    if l < b.lanes then
      let t := s.thread (32 * bid + l)
      threadRecord t (s.imageWord bid t) (b.arrivalOf l) (s.eventAddr t) (keep (32 * bid + l))
    else List.replicate 1024 0)

/-- A band section; a kind 3 section omits the copy queue. -/
def State.bandSection (s : State) (bid : Nat) (queue : Bool) (keep : Nat → Nat) : List Byte :=
  bandHeader (s.band bid) (s.parkedMask bid) ++ (if queue then queueRecords (s.band bid).cq else []) ++ s.threadRecords bid keep

/-! ## The tile block (R322) -/

/-- The code of a queue's state in R50's order; an engine reset that the thread has not taken reads as Reset. -/
def queueState (q : Queue) (reset : Bool) : Nat :=
  if reset then 5
  else if q.faulted then 3
  else if q.halted then 4
  else if q.entries.isEmpty then 0
  else if q.entries.any (·.started) then 2 else 1

/-- A ring descriptor in 32 bytes; its last byte says that it is defined. -/
def ringBytes (r : Option Ring) : List Byte :=
  match r with
  | some r => toBytes 4 r.base ++ toBytes 4 r.size ++ toBytes 2 r.count ++ toBytes 2 r.fill ++ toBytes 2 r.acq ++ toBytes 2 r.free ++
      toBytes 2 r.filled ++ toBytes 2 r.acquired ++ toBytes 11 r.part ++ toBytes 1 1
  | none => toBytes 32 0

/-- A ring descriptor read back with its channel. -/
def ringFrom (b : List Byte) (chan : Option Nat) : Option Ring :=
  if fieldOf b 31 1 = 0 then none
  else some { base := fieldOf b 0 4, size := fieldOf b 4 4, count := Nat.max 1 (fieldOf b 8 2), fill := fieldOf b 10 2, acq := fieldOf b 12 2,
              free := fieldOf b 14 2, filled := fieldOf b 16 2, acquired := fieldOf b 18 2, part := fieldOf b 20 4, chan := chan }

/-- The tile block; its bytes from 0x240 hold what the other tables leave without a place: s0-s63, TVEC, FPMODE and PKQB of the
control thread (R77). -/
def tileBlock (t : Tile) (b : Band) : List Byte :=
  let qs := [t.lq, t.aq, t.sq, t.mq, t.cq]
  padTo 0x80 ((List.range 31).flatMap (fun i => toBytes 2 (sget {} t.k i).done.toNat ++ toBytes 2 (sget {} t.k i).issued.toNat)) ++
  padTo 8 (engineQs.flatMap (fun e => toBytes 1 (t.slipOf e))) ++ toBytes 8 (bit t.nanM + 2 * bit t.nanV) ++
  padTo 0x70 ((List.range 5).flatMap (fun i => toBytes 1 (queueState (qs.getD i {}) (i == 3 && t.resetTrap))) ++
    toBytes 1 (flagsOf (qs.map (·.faulted))) ++ toBytes 1 (flagsOf (qs.map (·.reported)))) ++
  (List.range 8).flatMap (fun q => ringBytes (find? q t.rings)) ++
  padTo 0x20 ((List.range 8).flatMap (fun q => toBytes 2 (((find? q t.rings).bind (·.chan)).getD 0xFFFF))) ++
  toBytes 8 (flagsOf ((List.range 16).map t.claimed)) ++
  padTo 24 ((List.range 16).flatMap (fun o => toBytes 1 (sget 0 t.marks o))) ++
  (List.range 64).flatMap (fun i => toBytes 4 (b.sreg i).toNat) ++
  padTo 0xC0 (toBytes 8 b.tvec.toNat ++ toBytes 8 b.fpmode.toNat ++ toBytes 8 b.pkqb.toNat)

/-! ## Writing images (R320-R322) -/

/-- HALTED of a shader team: bit b for band b. -/
def State.haltedBits (s : State) (k : Nat) : Nat := flagsOf ((s.team k).bands.map (fun b => (s.band b).halted))

/-- HALTED of a tile: bit 0 for LQ, then AQ, SQ, MQ and CQ, bit 5 for the control thread (log 104). -/
def Tile.haltedBits (t : Tile) : Nat := flagsOf ([t.lq, t.aq, t.sq, t.mq, t.cq].map (·.halted) ++ [t.ctlHalted])

/-- The header of an image. -/
def imageHeader (kind n pctx lid x y z alloc sbytes invat halted size bars : Nat) : List Byte :=
  toBytes 4 (kind + 256 + 65536 * n) ++ toBytes 4 pctx ++ toBytes 4 lid ++ toBytes 4 x ++ toBytes 4 y ++ toBytes 4 z ++
  toBytes 4 alloc ++ toBytes 4 sbytes ++ toBytes 4 invat ++ toBytes 4 halted ++ toBytes 8 size ++ toBytes 16 bars ++ toBytes 192 0

/-- Offset of the scratch image. -/
def scratchAt (kind n : Nat) : Nat := if kind = 2 then 0x5E900 else if kind = 3 then 0x100 + n * 0x8200 else 0x100 + n * 0xA200

/-- The chunks of a team's image by offset: kind 1 full shader, 2 full tensor, 3 leg (R322). -/
def State.imageChunks (s : State) (k kind : Nat) : List (Nat × List Byte) :=
  let t := s.team k
  let bands := t.bands
  let n := if kind = 2 then 1 else bands.length
  let sbytes := if kind = 3 then t.carry else t.alloc
  let at_ := scratchAt kind n
  let b0 := s.band (bands.headD 0)
  let u := unitOfBand (bands.headD 0)
  let hdr := imageHeader kind n b0.pctx.toNat (t.lid % 2 ^ 32) t.x t.y t.z t.alloc sbytes s.invseq.toNat
    (if kind = 2 then (s.tile u).haltedBits else s.haltedBits k) (at_ + sbytes)
    (flagsOf ((List.range 16).map (fun i => (sget {} t.bars i).gen)))
  let carry := fun tid => match (s.thread tid).wait with
    | .barrier _ _ _ c _ _ _ => if kind = 3 then c else 64
    | _ => 64
  let scratch := (at_, (List.range sbytes).map (fun i => Memory.read t.scratch i))
  if kind = 2 then
    let x := s.tile u
    [(0, hdr), (0x100, (s.threadRecords (64 * u) (fun _ => 64)).take 1024),
     (0x500, queueRecords x.lq ++ queueRecords x.aq ++ queueRecords x.sq ++ queueRecords x.mq ++ queueRecords x.cq),
     (0xA500, tileBlock x b0),
     (0xA900, (List.range 16384).flatMap (fun i => toBytes 4 (sget 0 x.acc i).toNat)),
     (0x1A900, (List.range 2048).flatMap (fun i => toBytes 4 (sget 0 x.v i).toNat))] ++
    ((List.range 16).filter x.claimed).map (fun o => (0x1C900 + 0x4200 * o, (List.range slotSize).map (fun i => x.slotByte o i))) ++
    [scratch]
  else [(0, hdr), (0x100, bands.flatMap (fun b => s.bandSection b (kind == 1) carry)), scratch]

/-- Bytes of a team's image. -/
def State.imageSize (s : State) (k kind : Nat) : Nat :=
  let t := s.team k
  scratchAt kind (if kind = 2 then 1 else t.bands.length) + (if kind = 3 then t.carry else t.alloc)

/-- The offsets of an image whose elements are poisoned (R423). -/
def State.imagePoison (s : State) (k kind : Nat) : List Nat :=
  let t := s.team k
  let n := if kind = 2 then 1 else t.bands.length
  let u := unitOfBand (t.bands.headD 0)
  let x := s.tile u
  let lim := if kind = 3 then t.carry else t.alloc
  ((skeys t.poison).map (fun e => 4 * e)).filterMap (fun a => if a < lim then some (scratchAt kind n + a) else none) ++
  (if kind = 2 then
    (skeys x.accPoison).map (fun e => 0xA900 + 4 * e) ++ (skeys x.vPoison).map (fun e => 0x1A900 + 4 * e) ++
    ((skeys x.slotPoison).filter (fun e => x.claimed (4 * e / slotSize))).map (fun e => 0x1C900 + 4 * e)
  else [])

/-- The version-set entries of a team's threads. -/
def State.vasOf (s : State) (k : Nat) : List (Nat × VEntry) :=
  (s.teamTids k).flatMap (fun t => (s.thread t).vset.map (fun e => (32 * (s.band (bandOf t)).index + laneOf t, e)))

/-- The valid handles of a team's threads and queue entries. -/
def State.hdlsOf (s : State) (k : Nat) : List Handle :=
  ((s.teamTids k).flatMap (fun t => (s.thread t).h.map (·.2)) ++
    (s.teamQueues k).flatMap (fun q => (s.queue q).entries.flatMap (·.hdls))).filter (·.st == .valid)

/-- What a team's images hold beside the state that is written: the virtual addresses of its version sets and its valid handles. -/
def State.noteImage (s : State) (k : Nat) : State :=
  let now := s.invseq.toNat
  let hs := (s.hdlsOf k).map (fun h => (now, h))
  let vs := s.vasOf k
  s.onTeam k (fun t => { t with vas := (vs ++ t.vas).eraseDups, hdls := (hs ++ t.hdls).eraseDups })

/-- Writes a team's image at a physical address. -/
def State.writeImage (s : State) (k kind base : Nat) : State :=
  let s := s.noteImage k
  let bad := s.imagePoison k kind
  let s' := forEach (s.imageChunks k kind) s (fun x c => if c.2.isEmpty then x else x.writeCtl (base + c.1) c.2)
  forEach bad s' (fun x a => x.setPoison .phys (base + a) true)

/-! ## Reading images (R326) -/

/-- A thread resumes after its leg-ending barrier where its generation has completed while it was away (R30, R33, R240, R334), or goes on
waiting (R253); one that broke in its generation ends with status 1, or with `.trap` traps at its word (R244). -/
def State.resumeBarrier (s : State) (tid : Nat) : State :=
  match (s.thread tid).wait with
  | .barrier kind bar g carry d trap _ =>
    let k := s.teamOf tid
    let broken := s.barBroken kind k bar
    let st := s.barState kind k bar
    if st.gen == g && broken && trap then s.onThread tid (fun t => { t with wait := .none })
    else if st.gen != g || broken then
      let s := s.endLeg tid carry d (if st.gen == g then 1 else 0)
      if kind == .team then s.onThread tid (fun t => { t with bara := t.bara.filter (fun p => p.1 != bar) }) else s
    else
      let r := s.rid tid
      let s := s.onBar kind k bar (fun b => { b with arrived := if b.arrived.contains r then b.arrived else b.arrived ++ [r] })
      s.onThread tid (fun t => { t with wait := .barrier kind bar g carry d trap s.clock })
  | _ => s

/-- The event wait of a restored thread reads its word again (R238, R253) at the physical address that was captured at the save; no handle
is translated again for it (log 92). `b` is the thread's record. -/
def State.resumeEvent (s : State) (tid : Nat) (b : List Byte) : State :=
  match (s.thread tid).wait with
  | .evwait _ want d =>
    let f := unpackM (dwordAt b 0x1D8)
    let addr := fieldOf b 0x1E8 8
    let id := s.fresh
    let pl := if f.sp == 4 then Place.phys else .scratch (s.team (s.teamOf tid)).aid
    let s := s.addReq { id := 0, seq := 0, u := unitOf tid, place := pl, kind := .evwait,
                        parts := [{ tid := tid, va := addr, addrs := runOf addr 4 }], st := f.st.toNat, acq := acqOf f,
                        rel := relOf f, scope := f.sc.toNat }
    s.onThread tid (fun t => { t with wait := .evwait id want d })
  | _ => s

/-- The gang arrivals of a restored band, from the waits of its threads (R260). -/
def State.resumeLatch (s : State) (bid : Nat) (recs : List (Nat × List Byte)) : State :=
  let waiting := recs.filter (fun p => bandOf p.1 == bid && (match (s.thread p.1).wait with | .latch _ => true | _ => false))
  let groups := (List.range 32).filterMap (fun n =>
    match waiting.filter (fun p => fieldOf p.2 0x1E0 8 == n) with
    | [] => none
    | p :: ps =>
      let word := dwordAt p.2 0x1D8
      let f := unpackR word
      some ({ lanes := (p :: ps).map (fun x => laneOf x.1), regs := [f.d.toNat, f.a.toNat, f.b.toNat, f.c.toNat],
              since := match (s.thread p.1).wait with | .latch x => x | _ => 0, word := word } : Arrival))
  s.onBand bid (fun b => { b with gang := { b.gang with arrivals := groups } })

/-- The target allocations of a restored copy entry are those that its cluster destination names now. -/
def State.retarget (s : State) (tid : Nat) (e : Entry) : Entry :=
  let f := efmtOf e.word
  let addr := (e.regs.getD 2 0).toNat
  let mask := (e.regs.getD 5 0).toNat
  let ts := match e.instr with
    | .cpy _ => if bitsOf f.c.toNat 5 3 = 2 then s.targetTeams tid false addr mask else []
    | .cpym _ => s.targetTeams tid true addr mask
    | _ => []
  { e with aids := ts.filterMap (fun k => k.map (fun j => (s.team j).aid)) }

/-- Reads an image: n bytes from an offset, and whether the byte at an offset is poisoned. -/
structure Reader where
  bytes : Nat → Nat → List Byte
  bad : Nat → Bool

/-- An image at a physical address. -/
def State.physReader (s : State) (base : Nat) : Reader :=
  ⟨fun off n => s.readN .phys (base + off) n, fun off => s.readsPoison .phys [base + off]⟩

/-- Scratchpad bytes and their poison from an image. -/
def State.loadScratch (s : State) (k off n : Nat) (rd : Reader) : State :=
  let bad := (List.range ((n + 3) / 4)).filter (fun e => rd.bad (off + 4 * e))
  s.onTeam k (fun t => { t with scratch := Memory.writeAll [] (cellsAt 0 (rd.bytes off n)),
                                poison := bad.foldl (fun m e => sset false m e true) [] })

/-- A recorded arrival of a BARA whose generation has not completed counts again (R241, R323). -/
def State.resumeBara (s : State) (tid : Nat) : State :=
  let k := s.teamOf tid
  let r := s.rid tid
  forEach (s.thread tid).bara s (fun s p =>
    if (s.barState .team k p.1).gen == p.2 then
      s.onBar .team k p.1 (fun b => { b with arrived := if b.arrived.contains r then b.arrived else b.arrived ++ [r] })
    else s)

/-- What follows the restoring of a team's bands and threads from their records: waits, latches, arrivals and copy targets take
effect again. -/
def State.resumeTeam (s : State) (k : Nat) (recs : List (Nat × List Byte)) : State :=
  let bids := (s.team k).bands
  let s := forEach bids s (fun s b => s.resumeLatch b recs)
  let s := forEach bids s (fun s b => let s0 := s
    s.onQueue (.band b) (fun q => { q with entries := q.entries.map (s0.retarget (32 * b)) }))
  forEach recs s (fun s p => ((s.resumeEvent p.1 p.2).resumeBara p.1).resumeBarrier p.1)

/-- The section of band i in an image. -/
def sectionOf (img : List Byte) (kind i : Nat) : List Byte :=
  let n := if kind = 3 then 0x8200 else 0xA200
  (img.drop (0x100 + i * n)).take n

/-- The record of lane l in a band section. -/
def recordOf (sec : List Byte) (kind l : Nat) : List Byte :=
  ((sec.drop (0x200 + (if kind = 3 then 0 else 0x2000) + 1024 * l)).take 1024)

/-- INVSEQ has passed an image's INVAT (R326). -/
def State.staleFor (s : State) (invat : Nat) : Bool := decide (s.invseq.toNat ≠ invat)

/-! ## Commands and restored handles (R215, R352, R353) -/

/-- Two ranges of bytes overlap. -/
def overlaps2 (a m b n : Nat) : Bool := decide (a < b + n) && decide (b < a + m)

/-- A command matches a translation of an address space (R352). -/
def InvCmd.matches (c : InvCmd) (asid va : Nat) (l : Leaf) : Bool :=
  c.asid == asid && (c.kind == 1 ||
    (c.kind == 0 && overlaps2 (pageBase l va) (pageBytes l.size) c.base (c.count * 65536) && (c.hint == 0 || l.size + 1 == c.hint)))

/-- A handle that a command reaches: a valid one whose page it covers is revoked; a pending one with a dropped translation walks
again (R215, R353). -/
def InvCmd.revoke (c : InvCmd) (root : Nat) (h : Handle) : Handle :=
  if h.st == .valid && c.matches h.asid h.base.toNat h.leaf then { h with st := .revoked }
  else if h.st == .pending && h.due.isSome && c.matches h.asid h.base.toNat h.leaf then { h with due := none, walk := some (3, root) }
  else h

/-- The handles that an entry goes through: those it captured, but for a side of CPY and CPYM outside the global space, and that of its TCB
also once the snapshot is taken (log 105). The destination's comes first (R282). -/
def usedHandles (e : Entry) : List Handle :=
  match e.instr with
  | .cpy f => (if bitsOf f.c.toNat 5 3 = 4 then e.hdls.take 1 else []) ++ (if bitsOf f.c.toNat 2 0 = 4 then (e.hdls.drop 1).take 1 else [])
  | .cpym f => if bitsOf f.c.toNat 2 0 = 4 then (e.hdls.drop 1).take 1 else []
  | _ => e.hdls

/-- What a command does to an entry of an address space: its matched handles are revoked, and a started one that uses them, or a
matched region, stops with cause 0x06 (R353, R355); TVAL names the first matched handle, else the region (log 106). -/
def InvCmd.stopEntry (c : InvCmd) (asid root : Nat) (e : Entry) : Entry :=
  let hit := (usedHandles e).find? (fun h => h.st == .valid && c.matches h.asid h.base.toNat h.leaf)
  let id := ((e.snap.map tcbOf).map (·.region)).getD 0
  let region := c.asid == asid && e.region.isSome && (c.kind == 1 || (c.kind == 2 && id == c.count % 65536))
  let e := { e with hdls := e.hdls.map (c.revoke root) }
  if !e.started || e.finished || e.fault.isSome then e
  else match hit with
    | some h => { e with fault := some (0x06, h.base), region := if region then none else e.region }
    | none => if region then { e with fault := some (0x06, BitVec.ofNat 64 (2 ^ 63 + id)), region := none } else e

/-! ## What a command takes (R356) -/

/-- The physical ranges that a leaf maps, with its replicas (R356). -/
def Leaf.frames (l : Leaf) : List (Nat × Nat) := (l.pa :: l.reps.map (onStackOf l.pa)).map (fun a => (a, pageBytes l.size))

/-- Changes the command with a sequence number. -/
def State.onInv (s : State) (seq : Nat) (f : InvCmd → InvCmd) : State :=
  { s with invq := s.invq.map (fun c => if c.seq = seq ∧ !c.complete then f c else c) }

/-- Frames that a command dropped are remembered for INVW (R356). -/
def State.noteFrames (s : State) (seq : Nat) (fs : List (Nat × Nat)) : State :=
  s.onInv seq (fun c => { c with frames := c.frames ++ fs.filter (fun f => !c.frames.contains f) })

/-- The pages of the handles that a command revokes. -/
def InvCmd.handleFrames (c : InvCmd) (hs : List Handle) : List (Nat × Nat) :=
  (hs.filter (fun h => h.st == .valid && c.matches h.asid h.base.toNat h.leaf)).flatMap (fun h => h.leaf.frames)

/-- The regions and pages that a command takes from an entry (R356). -/
def InvCmd.entryFrames (c : InvCmd) (asid : Nat) (e : Entry) : List (Nat × Nat) :=
  let id := ((e.snap.map tcbOf).map (·.region)).getD 0
  c.handleFrames (usedHandles e) ++ (if c.asid == asid && c.kind == 2 && id == c.count % 65536 then e.region.toList else [])

/-- A command acts on the handles of some threads. -/
def State.revokeThreads (s : State) (c : InvCmd) (tids : List Nat) : State :=
  let root := (s.space c.asid).root
  forEach tids s (fun s t =>
    let fs := c.handleFrames ((s.thread t).h.map (·.2))
    (s.onThread t (fun x => { x with h := x.h.map (fun p => (p.1, c.revoke root p.2)) })).noteFrames c.seq fs)

/-- A command acts on the entries of some queues. -/
def State.revokeQueues (s : State) (c : InvCmd) (qs : List QRef) : State :=
  let root := (s.space c.asid).root
  forEach qs s (fun s q =>
    let asid := s.asidOf (queueTid q)
    let fs := (s.queue q).entries.flatMap (c.entryFrames asid)
    (s.onQueue q (fun x => { x with entries := x.entries.map (c.stopEntry asid root) })).noteFrames c.seq fs)

/-- The queues of a unit that copy. -/
def State.copyQueues (s : State) (u : Nat) : List QRef :=
  if isTile u then [.tile u .cq] else if isShader u then (s.bandsOn u).map QRef.band else []

/-- A command that a unit has received and that has not completed acts on the handles of a team that comes back to it, too, so that none
outlives the command (R215, R353). -/
def State.revokePending (s : State) (k u : Nat) : State :=
  forEach (s.invq.filter (fun c => c.broadcast && !c.complete && c.received.contains (.unit u))) s (fun s c =>
    (s.revokeThreads c (s.teamTids k)).revokeQueues c (s.teamQueues k))

/-- The virtual address of an entry that a restored thread's version set holds, from beside the image of its team or of the team it is a
copy of; none where the image holds a line that was not there (log 29). -/
def State.vaOf (s : State) (k rid line : Nat) (ver : Version) : Option VEntry :=
  (s.teams.filter (fun p => p.2.lid == (s.team k).lid && p.2.index == (s.team k).index)).findSome? (fun p =>
    (p.2.vas.find? (fun e => e.1 == rid && e.2.line == line && e.2.ver == ver)).map (·.2))

/-- The restored version sets of a team get their virtual addresses back (R142, R226). -/
def State.revive (s : State) (k : Nat) : State :=
  forEach (s.teamTids k) s (fun s t =>
    let rid := 32 * (s.band (bandOf t)).index + laneOf t
    s.onThread t (fun x => { x with vset := x.vset.map (fun e => match s.vaOf k rid e.line e.ver with
      | some v => { e with asid := v.asid, va := v.va }
      | none => e) }))

/-- A bridge copy whose last beat landed while its team was out is done (R293, R326). -/
def State.settleCopies (s : State) (k : Nat) : State :=
  forEach (s.team k).bands s (fun s b =>
    let i := (s.band b).index
    s.onQueue (.band b) (fun q => { q with entries := q.entries.map (fun e =>
      if e.handedOver && !s.beatsLeft k i e.dno then { e with finished := true } else e) }))

/-- Team barriers with the generations of a header; arrivals come from the threads' records. -/
def barsFrom (bars : Nat) : List (Nat × BarState) := tableOf {} ((List.range 16).map (fun i => ({ gen := bars.testBit i } : BarState)))

/-- The clocks that a team spent with a halted role do not count for its waits (R327). -/
def Thread.pause (t : Thread) (now since : Nat) : Thread :=
  let d := fun x => x + (now - Nat.max x since)
  { t with wait := match t.wait with
      | .barrier kind bar g c r trap x => .barrier kind bar g c r trap (d x)
      | .latch x => .latch (d x)
      | w => w }

/-- A role of a team has been halted or has gone on: the team's clocks stop with the first halted role and run again with the last
(R327). -/
def State.noteHalt (s : State) (k : Nat) : State :=
  let now := s.clock
  if s.teamHalted k then s.onTeam k (fun t => { t with haltedAt := some (t.haltedAt.getD now) })
  else match (s.team k).haltedAt with
  | none => s
  | some since =>
    let s := forEach (s.teamTids k) s (fun s t => s.onThread t (fun x => x.pause now since))
    let s := forEach (s.team k).bands s (fun s b => s.onBand b (fun x => { x with gang := { x.gang with
      arrivals := x.gang.arrivals.map (fun a => { a with since := a.since + (now - Nat.max a.since since) }) } }))
    s.onTeam k (fun t => { t with haltedAt := none })

/-- Restores a shader team from an image of kind 1 or 3 onto a core: bands in some slots, threads, scratchpad (R326). -/
def State.restoreShader (s : State) (k u kind : Nat) (slots : List Nat) (rd : Reader) : State :=
  let n := slots.length
  let img := rd.bytes 0 (scratchAt kind n)
  let stale := s.staleFor (fieldOf img 32 4)
  let asid := bitsOf (fieldOf img 4 4) 31 16
  let root := (s.space asid).root
  let halted := fieldOf img 36 4
  let bands := (List.range n).map (fun i =>
    let sec := sectionOf img kind i
    let b := bandFrom sec (s.newBand k i)
    let q := if kind = 3 then {} else
      queueFrom ((sec.drop 0x200).take 0x2000) (32 * (64 * u + slots.getD i 0)) asid stale (fieldOf sec 0x90 1)
    { b with halted := halted.testBit i, cq := q, nextDno := 1 + q.entries.foldl (fun m e => Nat.max m e.dno) 0,
             boxes := ((s.team k).boxes.filter (fun p => p.1 == i)).map (·.2) })
  let recs := fun i l => recordOf (sectionOf img kind i) kind l
  let s := s.install k u slots bands (fun i l => threadFrom (recs i l) asid root stale)
  let s := s.onTeam k (fun t => { t with boxes := [], alloc := fieldOf img 24 4, bars := barsFrom (fieldOf img 48 16) })
  let s := s.loadScratch k (scratchAt kind n) (fieldOf img 28 4) rd
  let s := ((s.revive k).revokePending k u).settleCopies k
  (s.resumeTeam k ((s.team k).bands.flatMap (fun b => (lanesList (s.band b).lanes).map (fun l => (32 * b + l, recs (s.band b).index l))))).noteHalt k

/-- A tile read back from its block and sections. The tables hold no next dispatch number: it is one more than the greatest of the queued
entries (R46; log 87). -/
def State.tileFrom (s : State) (rd : Reader) (u asid : Nat) (stale : Bool) (halted : Nat) : Tile :=
  let blk := rd.bytes 0xA500 0x400
  let st := fun i => fieldOf blk (0x90 + i) 1
  let flag := fun (b : Bool) n => if b then 2 ^ n else 0
  let q := fun i => queueFrom (rd.bytes (0x500 + 8192 * i) 8192) (2048 * u) asid stale
    (flag (halted.testBit i) 0 + flag ((fieldOf blk 0x95 1).testBit i) 1 + flag ((fieldOf blk 0x96 1).testBit i) 2)
  let claims := fieldOf blk 0x220 2
  let acc := rd.bytes 0xA900 0x10000
  let v := rd.bytes 0x1A900 0x2000
  let slot := fun o => rd.bytes (0x1C900 + 0x4200 * o) 0x4200
  let chan := fun i => let c := fieldOf blk (0x200 + 2 * i) 2; if c = 0xFFFF then none else some c
  let bad := fun off n => (List.range n).filter (fun e => rd.bad (off + 4 * e))
  let poison := fun (l : List Nat) => l.foldl (fun m e => sset false m e true) []
  let claimed := (List.range 16).filter (fun o => claims.testBit o)
  let dnos := (List.range 5).flatMap (fun i => (q i).entries.map (·.dno))
  { lq := q 0, aq := q 1, sq := q 2, mq := q 3, cq := q 4,
    slip := tableOf 160 ((List.range 5).map (fun i => fieldOf blk (0x80 + i) 1)), k := tokensFrom blk 0 31,
    claims := tableOf false ((List.range 16).map (fun o => claims.testBit o)),
    marks := tableOf 0 ((List.range 16).map (fun o => fieldOf blk (0x228 + o) 1)),
    slots := claimed.foldl (fun m o => ((List.range slotSize).zip (slot o)).foldl (fun m p => sset 0 m (slotSize * o + p.1) p.2) m) [],
    acc := tableOf 0 (wordsFrom acc 0 16384), v := tableOf 0 (wordsFrom v 0 2048),
    slotPoison := poison (claimed.flatMap (fun o => (bad (0x1C900 + 0x4200 * o) (slotSize / 4)).map (fun e => slotSize / 4 * o + e))),
    accPoison := poison (bad 0xA900 16384), vPoison := poison (bad 0x1A900 2048),
    nanM := (fieldOf blk 0x88 1).testBit 0, nanV := (fieldOf blk 0x88 1).testBit 1,
    rings := (List.range 8).foldl (fun m i => match ringFrom ((blk.drop (0x100 + 32 * i)).take 32) (chan i) with
      | some r => sput i r m
      | none => m) [],
    nextDno := 1 + dnos.foldl Nat.max 0, resetTrap := st 3 == 5, ctlHalted := halted.testBit 5, lastProgress := s.clock }

/-- Slots that were not claimed hold unspecified bytes (R326): each gets a free one. -/
def State.freeSlots (s : State) (u : Nat) : State :=
  let n := s.free
  let open_ := (List.range 16).filter (fun o => !(s.tile u).claimed o)
  let s := { s with free := n + 16 * slotSize }
  s.onTile u (fun t => { t with
    slots := open_.foldl (fun m o => (List.range slotSize).foldl (fun m i => sset 0 m (slotSize * o + i) (Config.freeByte (n + slotSize * o + i))) m) t.slots })

/-- The channels that a restored tile's rings name are bound to them (R77); one that is bound to another team's ring leaves the ring
unbound (R71). -/
def State.rebind (s : State) (k u : Nat) : State :=
  forEach (s.tile u).rings s (fun s p =>
    match p.2.chan with
    | none => s
    | some c =>
      let ch := (find? c s.channels).getD {}
      if ch.bound.isNone || ch.team == k then { s with channels := sput c { ch with bound := some (u, p.1), team := k } s.channels }
      else s.onTile u (fun t => { t with rings := smod p.1 (fun r => { r with chan := none }) t.rings }))

/-- Restores a tensor team from an image of kind 2 onto its tile (R77, R326). -/
def State.restoreTensor (s : State) (k u : Nat) (rd : Reader) : State :=
  let hdr := rd.bytes 0 0x500
  let stale := s.staleFor (fieldOf hdr 32 4)
  let asid := bitsOf (fieldOf hdr 4 4) 31 16
  let t := s.tileFrom rd u asid stale (fieldOf hdr 36 4)
  let recd := (hdr.drop 0x100).take 1024
  let more := rd.bytes (0xA500 + 0x240) 0x118
  let fp := BitVec.ofNat 64 (fieldOf more 0x108 8 % 2)
  let b := { s.newBand k 0 with s := tableOf 0 (wordsFrom more 0 64), tvec := addrField (dwordAt more 0x100), fpmode := fp, fpLive := fp,
                                pkqb := dwordAt more 0x110 &&& 0xFFFFFFFFFF00F }
  let s := { s with tiles := sput u t s.tiles }
  let s := s.install k u [0] [b] (fun _ _ => threadFrom recd asid (s.space asid).root stale)
  let s := s.onTeam k (fun t => { t with alloc := fieldOf hdr 24 4, bars := barsFrom (fieldOf hdr 48 16) })
  let s := (s.loadScratch k 0x5E900 (fieldOf hdr 28 4) rd).freeSlots u
  let s := ((s.revive k).revokePending k u).rebind k u
  let s0 := s
  let s := s.onQueue (.tile u .cq) (fun q => { q with entries := q.entries.map (s0.retarget (2048 * u)) })
  (s.resumeTeam k [(2048 * u, recd)]).noteHalt k

end Sys2Proof.Machine
end

