-- ==== Sys2Proof/Machine/System.lean ====
section
/-!
DEFINITION. The system instructions (13 R309-R340, 17 R414-R424): control registers, the return from a trap, invalidation commands,
saved images, halts, parked threads, staging pins, die resets and self-tests.
-/

namespace Sys2Proof.Machine

/-! ## Frames of the family -/

/-- A word whose status result arrives late (R328, R175): `act` gives the status, or none where no result comes now. -/
def statusWord (i : Instr) (s : State) (own : State → Nat → Check) (d : Nat) (act : State → Nat → Option Word × State) :
    Host.Outcome State Fault Refusal :=
  .next (performEach i s own (fun x t =>
    let r := act x t
    match r.1 with
    | some w => if (r.2.thread t).exited || (find? t r.2.threads).isNone then r.2 else r.2.deliverLate t d [w]
    | none => r.2))

/-- A general register of a thread as a number. -/
def State.greg (s : State) (tid : Nat) (r : BitVec 6) : Nat := ((s.thread tid).reg r.toNat).toNat

/-! ## Control registers (R311, R312, R330, R424, R436) -/

/-- The state code of SYNRST (R424). -/
def DieState.code : DieState → Nat
  | .online => 0
  | .quiesced => 1
  | .flushed => 2
  | .ready => 3
  | .fenced => 4

/-- Register i of a die's syndrome registers (R424). -/
def Die.syndrome (d : Die) (i : Nat) : DWord :=
  match i with
  | 0 => d.syncnt
  | 1 => d.synrec
  | 2 => d.synslc
  | 3 => d.synclu
  | 4 => d.syndse
  | 5 => d.synlnk
  | _ => BitVec.ofNat 64 (d.st.code * 2 ^ 32 + d.resets.toNat)

/-- The value of control register n for a thread. -/
def State.csr (s : State) (tid n : Nat) : DWord :=
  let t := s.thread tid
  let b := s.band (bandOf tid)
  let c := s.core (unitOf tid)
  if 0x40 ≤ n then (s.die ((n - 0x40) / 8)).syndrome (n % 8)
  else match n with
    | 0x000 => t.tstate
    | 0x001 => t.tcause
    | 0x002 => t.tval
    | 0x003 => t.tpc
    | 0x004 => t.tscr
    | 0x008 => t.efword
    | 0x009 => t.efpc
    | 0x00A => t.efinfo
    | 0x010 => b.tvec
    | 0x011 => b.fpmode
    | 0x012 => b.pkqb
    | 0x020 => b.pctx
    | 0x021 => c.swapth
    | 0x022 => c.gangto
    | 0x030 => s.invseq.setWidth 64
    | _ => s.fabid

/-- A write to TSTATE (R312): PRV stays, PPRV is at most PRV. -/
def Thread.writeTstate (t : Thread) (v : DWord) : Thread :=
  { t with inh := v.getLsbD 4, pprv := Nat.min (bitsOf v.toNat 3 2) t.prv }

/-- Keeps the bits of a mask (R5). -/
def keepBits (v : DWord) (m : Nat) : DWord := v &&& BitVec.ofNat 64 m

/-- Writes control register n for a thread; bits that a register does not have are discarded (R5). -/
def State.writeCsr (s : State) (tid n : Nat) (v : DWord) : State :=
  let onT := s.onThread tid
  let onB := s.onBand (bandOf tid)
  let onC := s.onCore (unitOf tid)
  if 0x40 ≤ n then
    s.onDie ((n - 0x40) / 8) (fun d => match n % 8 with
      | 0 => { d with syncnt := v }
      | 1 => { d with synrec := v }
      | _ => { d with syndse := v })
  else match n with
    | 0x000 => onT (fun t => t.writeTstate v)
    | 0x001 => onT (fun t => { t with tcause := keepBits v 0x1DFF })
    | 0x002 => onT (fun t => { t with tval := v })
    | 0x003 => onT (fun t => { t with tpc := addrField v })
    | 0x004 => onT (fun t => { t with tscr := v })
    | 0x010 => onB (fun b => { b with tvec := addrField v })
    | 0x011 => onB (fun b => { b with fpmode := keepBits v 1 })
    | 0x012 => onB (fun b => { b with pkqb := keepBits v 0xFFFFFFFFFF00F })
    | 0x020 => onB (fun b => { b with pctx := keepBits v 0xFFFFFFFF })
    | 0x021 => onC (fun c => { c with swapth := keepBits v 0xFFFFFFFF })
    | 0x022 => onC (fun c => { c with gangto := keepBits v 0xFFFFFFFF })
    | _ => { s with fabid := keepBits v 0x83FF }

/-- The read level of a control register (R311, R424, R436). -/
def csrReadLevel (n : Nat) : Nat := if 0x40 ≤ n then 2 else 1
/-- The write level of a control register. -/
def csrWriteLevel (n : Nat) : Nat := if 0x40 ≤ n || n == 0x012 || n == 0x020 || n == 0x031 then 2 else 1

/-- Trap 0x02 below a register's level (R330); an access to a die's registers waits while its spoke retrains (R412). -/
def csrCheck (f : IFmt) (write : Bool) (s : State) (tid : Nat) : Check :=
  let n := f.imm.toNat
  let level := Nat.max (csrReadLevel n) (if write then csrWriteLevel n else 0)
  if (s.thread tid).prv < level then .trap 0x02 s.cur.word
  else if 0x40 ≤ n && s.spokeBusy ((n - 0x40) / 8) then .wait else .pass

/-- A control register access of a thread: one step that reads the old value and writes the new (R330). -/
def csrAccess (f : IFmt) (new : DWord → DWord → DWord) (s : State) (tid : Nat) : State :=
  let n := f.imm.toNat
  let old := s.csr tid n
  let a := (s.thread tid).reg64 f.a.toNat
  (s.writeCsr tid n (new old a)).onThread tid (fun t => t.setReg64 f.d.toNat old)

/-- CSRR (R330). -/
def execCsrr (f : IFmt) (s : State) : Host.Outcome State Fault Refusal :=
  .next (performEach (.csrr f) s (csrCheck f false) (fun x t =>
    let v := x.csr t f.imm.toNat
    x.onThread t (fun y => y.setReg64 f.d.toNat v)))

/-- CSRW (R330). -/
def execCsrw (f : IFmt) (s : State) : Host.Outcome State Fault Refusal :=
  .next (performEach (.csrw f) s (csrCheck f true) (csrAccess f (fun _ a => a)))
/-- CSRS (R330). -/
def execCsrs (f : IFmt) (s : State) : Host.Outcome State Fault Refusal :=
  .next (performEach (.csrs f) s (csrCheck f true) (csrAccess f (fun o a => o ||| a)))
/-- CSRC (R330). -/
def execCsrc (f : IFmt) (s : State) : Host.Outcome State Fault Refusal :=
  .next (performEach (.csrc f) s (csrCheck f true) (csrAccess f (fun o a => o &&& ~~~a)))

/-- TSTATE_WRITE (R312): a value reaches TSTATE of thread `tid`. -/
def execTstateWrite (s : State) : Host.Outcome State Fault Refusal :=
  .next (s.onThread s.ev.tid (fun t => t.writeTstate s.ev.v))

/-! ## The return from a trap (R329) -/

/-- TRET with INH = 0 is illegal (R329). -/
def tretCheck (s : State) (tid : Nat) : Check := if (s.thread tid).inh then .pass else .trap 0x01 s.cur.word

/-- TRET.skip after a broken barrier completes it with status 1 (R240, R244). -/
def State.skipBarrier (s : State) (tid : Nat) : State :=
  match s.fetch (unitOf tid) (s.asidOf tid) ((s.thread tid).pc - 8).toNat with
  | none => s
  | some w =>
    let f := unpackI w
    let s := s.onThread tid (fun t => { t with pc := t.pc - 8 })
    (s.endLeg tid (carryOf f) f.d.toNat 1).teamLegEnds (s.teamOf tid)

/-- A return of a thread: as R329, with the barrier of a trap 0x0E completed by `.skip`. -/
def State.tret (fn : Nat) (s : State) (tid : Nat) : State :=
  let t := s.thread tid
  let r := s.trapReturn tid fn
  if fn = 1 ∧ !t.tcause.getLsbD 8 ∧ bitsOf t.tcause.toNat 7 0 = 0x0E then r.skipBarrier tid else r

/-- TRET.retry (R329). -/
def execTretRetry (f : RFmt) (s : State) : Host.Outcome State Fault Refusal :=
  .next (performEach (.tretRetry f) s tretCheck (State.tret 0))
/-- TRET.skip (R329). -/
def execTretSkip (f : RFmt) (s : State) : Host.Outcome State Fault Refusal :=
  .next (performEach (.tretSkip f) s tretCheck (State.tret 1))
/-- TRET.kill (R329). -/
def execTretKill (f : RFmt) (s : State) : Host.Outcome State Fault Refusal :=
  .next (performEach (.tretKill f) s tretCheck (State.tret 2))

/-! ## Invalidation commands (R331, R332) -/

/-- A release at package scope on all streams (R122, R221). -/
def pkgRelease (s : State) (tid : Nat) : Check := s.releaseAll tid 5

/-- A command's fields are legal (R331). -/
def invOk (a b : Word) (x : DWord) : Bool :=
  let kind := bitsOf a.toNat 19 16
  bitsOf a.toNat 31 22 == 0 &&
  (match kind with
   | 0 => b != 0 && x.toNat % 65536 == 0 && decide (x.toNat < 2 ^ 52)
   | 1 => b == 0 && x == 0
   | 2 => decide (b.toNat < 65536) && x == 0
   | _ => false)

/-- Commands of the queue that are not complete (R331). -/
def State.invPending (s : State) : Nat := (s.invq.filter (fun c => !c.complete)).length

/-- INVQ's checks (R331). -/
def invqCheck (f : RFmt) (s : State) (tid : Nat) : Check :=
  let t := s.thread tid
  let r := f.a.toNat
  let a := t.reg r
  (firstTrap [(!invOk a (t.reg (r + 1)) (t.reg64 (r + 2)), 0x05, a.setWidth 64),
    (decide (t.prv < 2) && bitsOf a.toNat 15 0 != s.asidOf tid, 0x08, a.setWidth 64)]).andThen
    ((pkgRelease s tid).andThen (if 256 ≤ s.invPending then .wait else .pass))

/-- A command joins the invalidation queue; its sequence number. -/
def State.queueInv (s : State) (a b : Word) (x : DWord) : Word × State :=
  let n := s.invNext
  let c : InvCmd := { seq := n, asid := bitsOf a.toNat 15 0, kind := bitsOf a.toNat 19 16, hint := bitsOf a.toNat 21 20,
                      count := b.toNat, base := x.toNat }
  (BitVec.ofNat 32 n, { s with invq := s.invq ++ [c], invNext := n + 1 })

/-- INVQ (R331). -/
def execInvq (f : RFmt) (s : State) : Host.Outcome State Fault Refusal :=
  statusWord (.invq f) s (invqCheck f) f.d.toNat (fun x t =>
    let y := x.thread t
    let r := x.queueInv (y.reg f.a.toNat) (y.reg (f.a.toNat + 1)) (y.reg64 (f.a.toNat + 2))
    (some r.1, r.2))

/-- The newest command with a sequence number, if INVQ has issued one. -/
def State.invCmd (s : State) (w : Word) : Option InvCmd := s.invq.reverse.find? (fun c => BitVec.ofNat 32 c.seq == w)

/-- A backed pin holds a command's INVW at status 1 (R356). -/
def State.pinBlocks (s : State) (c : InvCmd) : Bool :=
  s.parts.any (fun q => q.2.any (fun (p : Partition) => p.asid == c.asid &&
    (match p.backing with
     | none => false
     | some base => c.kind == 1 || c.frames.any (fun r => overlaps2 r.1 r.2 base p.size))))

/-- INVW's check (R332). -/
def invwCheck (f : RFmt) (s : State) (tid : Nat) : Check :=
  let w := (s.thread tid).reg f.a.toNat
  if (s.invCmd w).isNone then .trap 0x05 (w.setWidth 64) else .pass

/-- The status of a complete command; status 0 acts as an acquire at package scope (R332). -/
def State.invwStatus (s : State) (c : InvCmd) (u : Nat) : Word × State :=
  if s.pinBlocks c then (1, s) else (0, s.dropL1 u)

/-- INVW (R332): it waits for its command. -/
def execInvw (f : RFmt) (s : State) : Host.Outcome State Fault Refusal :=
  statusWord (.invw f) s (invwCheck f) f.d.toNat (fun x t =>
    match x.invCmd ((x.thread t).reg f.a.toNat) with
    | none => (none, x)
    | some c =>
      if c.complete then let r := x.invwStatus c (unitOf t); (some r.1, r.2)
      else (none, x.waitHere t (.invw c.seq f.d.toNat)))

/-- INVW_RETURN (R332): the command that thread `tid` waits for is complete. -/
def execInvwReturn (s : State) : Host.Outcome State Fault Refusal :=
  let tid := s.ev.tid
  match (s.thread tid).wait with
  | .invw seq d =>
    match s.invCmd (BitVec.ofNat 32 seq) with
    | some c =>
      if c.complete then
        let r := s.invwStatus c (unitOf tid)
        .next ((r.2.release tid).deliverLate tid d [r.1])
      else .next s
    | none => .next s
  | _ => .next s

/-! ## Targets (R328) -/

/-- A target word's reserved bits are 0. -/
def targetOk (w : Word) : Bool := bitsOf w.toNat 31 22 == 0 && bitsOf w.toNat 12 11 == 0
/-- Trap 0x05 for a target word with reserved bits (R328). -/
def targetWordCheck (a : BitVec 6) (s : State) (tid : Nat) : Check :=
  let w := (s.thread tid).reg a.toNat
  if targetOk w then .pass else .trap 0x05 (w.setWidth 64)

/-- The issuer sees a band: it lies in its address space, or the issuer runs at level 2 (R328). -/
def State.sees (s : State) (tid bid : Nat) : Bool :=
  (find? bid s.bands).isSome && ((s.thread tid).prv == 2 || bitsOf (s.band bid).pctx.toNat 31 16 == s.asidOf tid)

/-- The band of a target role that exists for the issuer. -/
def State.targetRole (s : State) (tid : Nat) (w : Word) : Option Nat :=
  let u := targetUnit w
  let k := targetKind w
  if (if k = 0 ∨ k = 7 then isShader u else isTile u) && s.sees tid (roleBand w) then some (roleBand w) else none

/-! ## Saved images (R320, R333, R334) -/

/-- Where CTXS and CTXL take their image: trap 0x04 for an address that is no multiple of 4096, 0x05 for one that local memory
does not hold (log 19). -/
def imageCheck (f : MFmt) (s : State) (tid : Nat) : Check :=
  let x := (s.thread tid).reg64 f.b.toNat
  (targetWordCheck f.a s tid).andThen (firstTrap [(x.toNat % 4096 != 0, 0x04, x), (!isLocal x.toNat, 0x05, x)])

/-- The team that CTXS names: that of a band (kind 0) or of a tile's control thread (kind 6). -/
def State.savedTeam (s : State) (tid : Nat) (w : Word) : Option Nat :=
  if targetKind w = 0 ∨ targetKind w = 6 then (s.targetRole tid w).map (fun b => (s.band b).team) else none

/-- The unit of a resident team. -/
def State.unitOfTeam (s : State) (k : Nat) : Nat := match (s.team k).place with | .resident u => u | _ => 0

/-- A team no longer resident has no unit. -/
def State.isResident (s : State) (k : Nat) : Bool := match (s.team k).place with | .resident _ => true | _ => false

/-- Answers a save request with a status. -/
def State.answerSave (s : State) (r : SaveReq) (w : Word) : State :=
  let s := { s with saves := s.saves.filter (fun p => p.id != r.id) }
  let s := s.onTeam r.team (fun t => { t with stopping := s.saves.any (fun p => p.team == r.team && !p.leg) })
  s.answerLate r.tid r.d w

/-- A later CTXS on the same team supersedes outstanding ones (R333). -/
def State.supersede (s : State) (k : Nat) : State :=
  forEach (s.saves.filter (fun p => p.team == k)) s (fun s p => s.answerSave p 3)

/-- CTXS (R333): the status arrives once the team has stopped and its image is written. -/
def execCtxs (f : MFmt) (s : State) : Host.Outcome State Fault Refusal :=
  statusWord (.ctxs f) s (imageCheck f) f.d.toNat (fun x t =>
    match x.savedTeam t ((x.thread t).reg f.a.toNat) with
    | none => (some 1, x)
    | some k =>
      if (x.die (dieOf (x.unitOfTeam k))).st != .online then (some 2, x)
      else
        let x := x.supersede k
        let (id, x) := x.fresh1
        let leg := f.off.getLsbD 1
        let r : SaveReq := { id := id, team := k, image := ((x.thread t).reg64 f.b.toNat).toNat, copy := f.off.getLsbD 0, leg := leg,
                             tid := t, d := f.d.toNat }
        let x := (x.onThread t (fun y => y.emptyRegs f.d.toNat 1)).onTeam k (fun y => { y with stopping := !leg })
        (none, { x with saves := x.saves ++ [r] }))

/-- A thread waits at a leg-ending barrier. -/
def atBarrier (t : Thread) : Bool := match t.wait with | .barrier _ _ _ _ _ _ _ => true | _ => false

/-- The team has stopped (R320, R253): its bundles have ended, its issued instructions have completed, and their late results, errors
and deliveries have arrived, those of its exited threads too; a started vector entry has completed (R77). -/
def State.teamQuiet (s : State) (k : Nat) (id : Nat) : Bool :=
  let tids := s.teamTids k
  (s.team k).bands.all (fun b =>
    (isTile (unitOfBand b) || (s.band b).bundle.isEmpty) && (s.band b).fxis.all (·.posted) && (s.band b).boxes.all (fun m => !m.pending)) &&
  s.reqs.all (fun r => r.team != k || (r.kind == .evwait && r.performed)) &&
  (isShader (s.unitOfTeam k) || (let q := (s.tile (s.unitOfTeam k)).aq
    q.faulted || q.halted || q.entries.all (fun e => !e.started || e.fault.isSome))) &&
  s.lates.all (fun l => !tids.contains l.tid) &&
  s.saves.all (fun p => p.id == id || !tids.contains p.tid) && s.halts.all (fun p => !tids.contains p.tid) &&
  tids.all (fun t => match (s.thread t).wait with
    | .refill _ => false
    | .ray _ _ => false
    | _ => true)

/-- Lasting names of the live threads of a resident team. -/
def State.outNames (s : State) (k : Nat) : List Nat := s.liveRids k

/-- The status of a written image: its size in units of 4096 bytes in bits 31:8 (R333). -/
def savedStatus (size : Nat) : Word := BitVec.ofNat 32 ((size + 4095) / 4096 * 256)

/-- A team's image is written, of kind 3 for `.leg` on either kind of unit (log 109); without `.copy` its place is freed and it is out (R333, R34). -/
def State.saveTeam (s : State) (r : SaveReq) : State :=
  let k := r.team
  let u := s.unitOfTeam k
  let kind := if r.leg then 3 else if isTile u then 2 else 1
  let w := savedStatus (s.imageSize k kind)
  let own := (s.teamTids k).contains r.tid
  let s := if own then s.onThread r.tid (fun t => t.setReg r.d w) else s
  let s := s.writeImage k kind r.image
  let s := if own then { s with saves := s.saves.filter (fun p => p.id != r.id) }.onTeam k (fun t => { t with stopping := false })
    else s.answerSave r w
  if r.copy then s
  else
    let live := s.outNames k
    let boxes := (s.team k).bands.flatMap (fun b => ((s.band b).boxes.filter (·.holds)).map (fun m => ((s.band b).index, m)))
    let s := { s with reqs := s.reqs.filter (fun (q : Req) => q.team != k) }
    let s := (s.freeTeam k).onTeam k (fun t => { t with place := .savedOut u r.image, outLive := live, boxes := boxes, stopping := false,
                                                        aid := 0, scratch := [], poison := [] })
    if isTile u then { s with tiles := serase u s.tiles } else s

/-- A save request goes on: refused once its die is in warm reset, without a team once it has ended, done once the team has stopped or,
with `.leg`, waits at leg-ending barriers (R333, R414). -/
def State.trySave (s : State) (r : SaveReq) : State :=
  let k := r.team
  if !s.isResident k then s.answerSave r 1
  else if (s.die (dieOf (s.unitOfTeam k))).st != .online then s.answerSave r 2
  else
    let live := (s.teamTids k).filter (fun t => !(s.thread t).exited)
    if r.leg && !live.all (fun t => atBarrier (s.thread t)) then s
    else if s.teamQuiet k r.id then s.saveTeam r else s

/-- A save request of any kind goes on, by its name. -/
def State.saveStep (s : State) (id : Nat) (leg : Bool) : State :=
  match s.saves.find? (fun p => p.id == id && p.leg == leg) with
  | some r => s.trySave r
  | none => s

/-- CTXS_LEG_SAVE (R333): a pending leg save writes its image once every live thread of the team waits at a leg-ending barrier. -/
def execCtxsLegSave (s : State) : Host.Outcome State Fault Refusal := .next (s.saveStep s.ev.id true)

/-- Every pending save of a team whose threads stop: the model's own item (R320). -/
def State.saveDone (s : State) (id : Nat) : State := s.saveStep id false

/-- The team that an image's header names: one that is saved out, if there is one, else a new one (log 20). -/
def State.imageTeam (s : State) (hdr : List Byte) : Option (Nat × State) :=
  let lid := 2 ^ 32 * bitsOf (fieldOf hdr 4 4) 15 0 + fieldOf hdr 8 4
  if (find? lid s.launches).isNone then none
  else
    let x := fieldOf hdr 12 4
    let y := fieldOf hdr 16 4
    let z := fieldOf hdr 20 4
    let same := fun (t : Team) => t.lid == lid && t.x == x && t.y == y && t.z == z
    match s.teams.find? (fun p => same p.2 && (match p.2.place with | .savedOut _ _ => true | _ => false) && !p.2.done) with
    | some p => some (p.1, s)
    | none =>
      let d := (s.launch lid).desc
      let (k, s) := s.fresh1
      let t : Team := { lid := lid, index := x + d.gx * (y + d.gy * z), x := x, y := y, z := z, carry := d.carry, alloc := fieldOf hdr 24 4 }
      some (k, { s with teams := sput k t s.teams })

/-- The tile of a tensor team's place in its launch's rectangle (R375). -/
def Desc.tileOf (d : Desc) (x : Nat) : Nat :=
  let r := fun i => d.trect.getD i 0
  let p := Nat.max 1 (r 5)
  let w := Nat.max 1 (r 2)
  256 * r 0 + 8 * (r 1 + x / p % w + 8 * (r 3 + x / p / w)) + x % p

/-- The tensor image's bound channels reach the die (R286): die 4 has channels 0-63, die 7 channels 64-127. -/
def channelsReach (blk : List Byte) (u : Nat) : Bool :=
  (List.range 8).all (fun i => let c := fieldOf blk (0x200 + 2 * i) 2
    c == 0xFFFF || (dieOf u == 4 && decide (c < 64)) || (dieOf u == 7 && decide (64 ≤ c ∧ c < 128)))

/-- The launch that an image's header names. -/
def imageLaunch (hdr : List Byte) : Nat := 2 ^ 32 * bitsOf (fieldOf hdr 4 4) 15 0 + fieldOf hdr 8 4

/-- An image may be loaded onto a unit by an issuer (R334); an image of no launch that stands, of other bands than its launch's, or with more
saved bytes than its allocation is no image either (log 110). Bits 31:24 of FORMAT, which the header does not have, are not looked at (R5). -/
def State.imageFits (s : State) (tid u : Nat) (base : Nat) : Bool :=
  let hdr := s.readN .phys base 256
  let fmt := fieldOf hdr 0 4
  let kind := fmt % 256
  let n := bitsOf fmt 23 16
  let d := (s.launch (imageLaunch hdr)).desc
  (if isTile u then kind == 2 else kind == 1 || kind == 3) && bitsOf fmt 15 8 == 1 &&
  decide (1 ≤ n ∧ n ≤ 32) && fieldOf hdr 4 4 == (s.band (bandOf tid)).pctx.toNat && (find? (imageLaunch hdr) s.launches).isSome &&
  decide (fieldOf hdr 28 4 ≤ fieldOf hdr 24 4) &&
  (if isTile u then channelsReach (s.readN .phys (base + 0xA500) 0x400) u && d.tensor && d.tileOf (fieldOf hdr 12 4) == u
   else !d.tensor && n == d.bands)

/-- The unit has room for the team of an image (R334). -/
def State.imageRoom (s : State) (u base : Nat) : Bool :=
  let hdr := s.readN .phys base 256
  let alloc := fieldOf hdr 24 4
  (s.die (dieOf u)).st == .online && !s.unitFenced u &&
  (if isTile u then s.teams.all (fun p => p.2.place != .resident u) && decide (s.allocBytes u + alloc ≤ scratchSize u)
   else s.coreRoom u (bitsOf (fieldOf hdr 0 4) 23 16) (s.launch (imageLaunch hdr)).desc.regs alloc)

/-- The status of a CTXL onto a unit (R334): 3 for a die in warm reset, then 2 for what is no image, then 1 for no room (log 110), else 0. -/
def State.loadStatus (s : State) (tid u base : Nat) : Nat :=
  let st := (s.die (dieOf u)).st
  if st == .quiesced || st == .flushed || st == .ready then 3
  else if !s.imageFits tid u base then 2
  else if !s.imageRoom u base then 1 else 0

/-- CTXL's work: status and state, with the lines that hold what is read of the image at their slices (R390, R400). -/
def State.loadImage (s : State) (tid u base : Nat) : Word × State :=
  let st := s.loadStatus tid u base
  let hdr := s.readN .phys base 256
  let fmt := fieldOf hdr 0 4
  let n := bitsOf fmt 23 16
  let f := if st = 3 then s else s.fillRange settWho base (if st = 0 then scratchAt (fmt % 256) n + fieldOf hdr 28 4 else 256)
  if st ≠ 0 then (BitVec.ofNat 32 st, f)
  else match f.imageTeam hdr with
    | none => (2, f)
    | some (k, s) =>
      let rd := s.physReader base
      if isTile u then (0, s.restoreTensor k u rd)
      else match s.slotsFor u n with
        | none => (1, s)
        | some sl => (0, s.restoreShader k u (fmt % 256) sl rd)

/-- A target word names a core with kind 0, or a tile with kind 6 (R328, R334). -/
def loadTarget (w : Word) : Bool := (targetKind w == 0 && isShader (targetUnit w)) || (targetKind w == 6 && isTile (targetUnit w))

/-- CTXL's checks: its operands; it waits while the cluster it would load onto makes no team resident (R385; log 111). -/
def ctxlCheck (f : MFmt) (s : State) (tid : Nat) : Check :=
  let t := s.thread tid
  let w := t.reg f.a.toNat
  let u := targetUnit w
  (imageCheck f s tid).andThen (if loadTarget w && s.throttled (clusterOf u) && s.loadStatus tid u (t.reg64 f.b.toNat).toNat == 0 then .wait else .pass)

/-- CTXL (R334); a target word whose kind does not fit its location names nothing that has room: status 1 (log 110). -/
def execCtxl (f : MFmt) (s : State) : Host.Outcome State Fault Refusal :=
  statusWord (.ctxl f) s (ctxlCheck f) f.d.toNat (fun x t =>
    let w := (x.thread t).reg f.a.toNat
    if loadTarget w then
      let r := x.loadImage t (targetUnit w) ((x.thread t).reg64 f.b.toNat).toNat
      (some r.1, r.2)
    else (some 1, x))

/-! ## Debug halt (R327, R335) -/

/-- The engine queue of a target kind. -/
def kindQueue (k : Nat) : EngineQ := if k = 1 then .lq else if k = 2 then .aq else if k = 3 then .sq else if k = 4 then .mq else .cq

/-- The role of a target is halted. -/
def State.roleHalted (s : State) (w : Word) : Bool :=
  let u := targetUnit w
  match targetKind w with
  | 0 => (s.band (targetBand w)).halted
  | 7 => (s.band (targetBand w)).cq.halted
  | 6 => (s.tile u).ctlHalted
  | k => (s.queue (.tile u (kindQueue k))).halted

/-- The role is told to stop. -/
def State.askHalt (s : State) (w : Word) (b : Bool) : State :=
  let u := targetUnit w
  match targetKind w with
  | 0 => s.onBand (targetBand w) (fun x => { x with haltReq := b })
  | 6 => s.onTile u (fun x => { x with ctlHaltReq := b })
  | _ => s

/-- Halts the role, or lets it continue. -/
def State.setHalt (s : State) (w : Word) (b : Bool) : State :=
  let u := targetUnit w
  match targetKind w with
  | 0 => s.onBand (targetBand w) (fun x => { x with halted := b })
  | 7 => s.onQueue (.band (targetBand w)) (fun x => { x with halted := b })
  | 6 => s.onTile u (fun x => { x with ctlHalted := b })
  | k => s.onQueue (.tile u (kindQueue k)) (fun x => { x with halted := b })

/-- The team of a target role. -/
def State.targetTeam (s : State) (w : Word) : Nat := (s.band (roleBand w)).team

/-- HALT (R335): the status arrives once the role has stopped. -/
def execHalt (f : RFmt) (s : State) : Host.Outcome State Fault Refusal :=
  statusWord (.halt f) s (targetWordCheck f.a) f.d.toNat (fun x t =>
    let w := (x.thread t).reg f.a.toNat
    if (x.targetRole t w).isNone then (some 2, x)
    else if x.roleHalted w then (some 1, x)
    else
      let (id, x) := x.fresh1
      let x := (x.onThread t (fun y => y.emptyRegs f.d.toNat 1)).askHalt w true
      (none, { x with halts := x.halts ++ [{ id := id, target := w, tid := t, d := f.d.toNat }] }))

/-- The role of a halt request has stopped (R327): a band with its window's bundle; queues stand at a boundary between any two
events, a control thread between any two instructions. -/
def State.roleStopped (s : State) (w : Word) : Bool := targetKind w != 0 || (s.band (targetBand w)).bundle.isEmpty

/-- HALT_STOPPED (R327): the role of halt `id` has reached its stop boundary, and the HALT reports done. -/
def execHaltStopped (s : State) : Host.Outcome State Fault Refusal :=
  match s.halts.find? (fun p => p.id == s.ev.id) with
  | none => .next s
  | some r =>
    if !s.roleStopped r.target then .next s
    else
      let s := ((s.setHalt r.target true).askHalt r.target false).noteHalt (s.targetTeam r.target)
      .next ({ s with halts := s.halts.filter (fun p => p.id != r.id) }.answerLate r.tid r.d 0)

/-- A role goes on; the time that its matrix engine stood halted is none without progress (R421). -/
def State.resumeRole (s : State) (w : Word) : State :=
  let now := s.clock
  let s := s.setHalt w false
  if targetKind w = 4 then s.onTile (targetUnit w) (fun t => { t with lastProgress := now }) else s

/-- RESM (R335). -/
def execResm (f : RFmt) (s : State) : Host.Outcome State Fault Refusal :=
  statusWord (.resm f) s (targetWordCheck f.a) f.d.toNat (fun x t =>
    let w := (x.thread t).reg f.a.toNat
    if (x.targetRole t w).isNone then (some 2, x)
    else if x.roleHalted w then (some 0, (x.resumeRole w).noteHalt (x.targetTeam w))
    else (some 1, x))

/-! ## Parked threads (R28, R319, R336) -/

/-- The handles a parked thread's word reaches the global space through; a ray's for RAYQ. -/
def parkedHandles (t : Thread) (w : DWord) : List Nat :=
  match ofWord w with
  | .rayq _ => [t.ray.hdl]
  | i => handlesOf i

/-- A retry of cause 0x06 or 0x07 first translates the handle again (R215). -/
def State.retranslate (s : State) (tid : Nat) : State :=
  let t := s.thread tid
  match s.fetch (unitOf tid) (s.asidOf tid) t.pc.toNat with
  | none => s
  | some w => forEach (parkedHandles t w) s (fun s h =>
      let x := (s.thread tid).hdl h
      if x.st == .revoked || x.st == .faulted then s.translate tid h x.base else s)

/-- PRKR of one parked thread: 0 retry, 1 skip, 2 kill (R28). -/
def State.unpark (s : State) (tid fn : Nat) : State :=
  match (s.thread tid).parked with
  | none => s
  | some p =>
    if fn = 2 then s.leave tid
    else
      let s := if fn = 0 ∧ (p.cause = 6 ∨ p.cause = 7) then s.retranslate tid else s
      s.onThread tid (fun t => { t with parked := none, pc := if fn = 1 then t.pc + 8 else t.pc, wait := .regroup })

/-- The band copy-queue entry of an exited thread that stands reported in Fault (R256, R336). -/
def State.reportedEntry (s : State) (bid l : Nat) : Bool :=
  let q := (s.band bid).cq
  q.faulted && q.reported && (match q.faultedEntry with
    | some e => e.tid == 32 * bid + l && (s.thread e.tid).exited
    | none => false)

/-- That entry is resolved. -/
def State.resolveEntry (s : State) (bid fn : Nat) : State :=
  if fn = 0 then s.restartEntry (.band bid)
  else if fn = 1 then s.completeEntry (.band bid)
  else s.endTeam (s.band bid).team

/-- PRKR of a mask of lanes of a band: the lanes resumed or resolved. -/
def State.prkr (s : State) (bid fn : Nat) (mask : Word) : Word × State :=
  (lanesList (s.band bid).lanes).foldl (fun (acc : Word × State) l =>
    let s := acc.2
    if !hasLane mask l then acc
    else if (s.thread (32 * bid + l)).parked.isSome then (setLane acc.1 l true, s.unpark (32 * bid + l) fn)
    else if s.reportedEntry bid l then (setLane acc.1 l true, s.resolveEntry bid fn)
    else acc) (0, s)

/-- A PRKR word (R336). -/
def prkrWord (i : Instr) (f : RFmt) (fn : Nat) (s : State) : Host.Outcome State Fault Refusal :=
  statusWord i s (fun x t => (targetWordCheck f.a x t).andThen (pkgRelease x t)) f.d.toNat (fun x t =>
    let w := (x.thread t).reg f.a.toNat
    match (if targetKind w = 0 then x.targetRole t w else none) with
    | none => (some 0, x)
    | some bid => let r := x.prkr bid fn ((x.thread t).reg f.b.toNat); (some r.1, r.2))

/-- PRKR.retry (R336). -/
def execPrkrRetry (f : RFmt) (s : State) : Host.Outcome State Fault Refusal := prkrWord (.prkrRetry f) f 0 s
/-- PRKR.skip (R336). -/
def execPrkrSkip (f : RFmt) (s : State) : Host.Outcome State Fault Refusal := prkrWord (.prkrSkip f) f 1 s
/-- PRKR.kill (R336). -/
def execPrkrKill (f : RFmt) (s : State) : Host.Outcome State Fault Refusal := prkrWord (.prkrKill f) f 2 s

/-- Two notices go to the same park queue. -/
def Notice.sameQueue (a b : Notice) : Bool := a.pkqb == b.pkqb && a.asid == b.asid

/-- The oldest notice of each park queue (R317). -/
def oldestNotices (ns : List Notice) : List Notice := ns.foldl (fun acc n => if acc.any n.sameQueue then acc else acc ++ [n]) []

/-- The extended address of a byte of a notice's park queue, as the hardware of unit `u` writes it: the page's R and W permissions decide. -/
def State.noticePa (s : State) (u : Nat) (n : Notice) (va : Nat) : Option Nat :=
  match s.walk n.asid va with
  | some l => if l.w then (s.extend (l.near u va)).bind (fun x => if s.farOff x then none else some x) else none
  | none => none

/-- Where a notice goes: the addresses of the write count and of its place, and the write count; a page that cannot be written is a park-queue
fault, and nothing stands for a full queue (R317). -/
inductive NoticeTo where
  | fault
  | full
  | place (count at_ wr : Nat)
  deriving DecidableEq, Repr

/-- Where a notice of unit `u` goes now. -/
def State.noticeTo (s : State) (u : Nat) (n : Notice) : NoticeTo :=
  let base := n.pkqb.toNat / 4096 * 4096
  let cap := 2 ^ (Nat.min 8 (n.pkqb.toNat % 16) + 4)
  match s.noticePa u n base with
  | none => .fault
  | some b =>
    let wr := s.readNat .phys b 4
    if (wr + 2 ^ 32 - s.readNat .phys (b + 4) 4) % 2 ^ 32 = cap then .full
    else match s.noticePa u n (base + 128 + 32 * (wr % cap)) with
      | none => .fault
      | some x => .place b x wr

/-- The bytes of a notice (R318). -/
def Notice.bytes (n : Notice) : List Byte :=
  toBytes 1 n.cause ++ toBytes 1 n.flags ++ toBytes 1 n.slot ++ toBytes 1 n.lane ++ toBytes 4 n.loc ++
    toBytes 8 n.tval.toNat ++ toBytes 8 n.pc.toNat ++ toBytes 4 n.lid ++ toBytes 4 n.index

/-- The notice has a place. -/
def State.canWrite (s : State) (u : Nat) (n : Notice) : Bool :=
  match s.noticeTo u n with
  | .place _ _ _ => true
  | _ => false

/-- What a look at a notice's park queue does at the slices: the walks, and the read of its counts (R390, R405). -/
def State.noticeFill (s : State) (u : Nat) (n : Notice) : State :=
  let base := n.pkqb.toNat / 4096 * 4096
  let s' := s.walkFill (dataWho u) n.asid base
  match s.noticePa u n base with
  | some b => s'.fillFor (dataWho u) .phys (runOf b 8)
  | none => s'

/-- A notice is written, then the write count advances; the band's park queue has no fault any more (R317). -/
def State.putNotice (s : State) (u : Nat) (n : Notice) : State :=
  match s.noticeTo u n with
  | .place b x wr =>
    (((s.noticeFill u n).writeCtl x n.bytes).writeCtl b (toBytes 4 (wr + 1))).onCore u (fun c =>
      { c with notices := c.notices.erase n, pkqFaults := c.pkqFaults.filter (· != n.bid) })
  | _ => s

/-- The oldest notice of a park queue that has room is written, each queue waiting for itself alone; queues that cannot be written
fault (R317). -/
def State.writeNotice (s : State) (u : Nat) : State :=
  let ns := oldestNotices (s.core u).notices
  match ns.find? (s.canWrite u) with
  | some n => s.putNotice u n
  | none =>
    let bad := (ns.filter (fun n => s.noticeTo u n == .fault)).map (·.bid)
    s.onCore u (fun c => { c with pkqFaults := distinct (c.pkqFaults ++ bad) })

/-- PARK_NOTICE_WRITE (R317): the oldest held notice of a park queue of unit `u` is written, once room or a mapping exists. -/
def execParkNoticeWrite (s : State) : Host.Outcome State Fault Refusal := .next (s.writeNotice s.ev.u)

/-! ## Staging pins (R338) -/

/-- Die, slice and offset of a PSET range. -/
def stagingOf (a : Nat) : Nat × Nat × Nat := (bitsOf a 30 28, bitsOf a 27 22, bitsOf a 21 0)

/-- A staging access that passed its bound check is still to be performed in a range (R338). -/
def State.stagingBusy (s : State) (d sl off n : Nat) : Bool :=
  s.reqs.any (fun r => r.place == .staging d sl && !r.performed && r.parts.any (fun p => p.addrs.any (fun a => off ≤ a && a < off + n)))

/-- PSET's checks (R338): offset, count and backing; the release on all streams; a release of a partition waits for the accesses that
passed their check. -/
def psetCheck (f : MFmt) (s : State) (tid : Nat) : Check :=
  let t := s.thread tid
  let a := t.reg f.a.toNat
  let n := (t.reg (f.a.toNat + 1)).toNat
  let x := if f.off == 1 then t.reg64 f.b.toNat else 0
  let p := stagingOf a.toNat
  (firstTrap [(p.2.2 % 65536 != 0, 0x04, a.setWidth 64), (n % 65536 != 0, 0x04, BitVec.ofNat 64 n), (x.toNat % 65536 != 0, 0x04, x),
    (a.getLsbD 31, 0x05, a.setWidth 64), (decide (n < 65536 ∨ 2 ^ 22 < n), 0x05, BitVec.ofNat 64 n),
    (f.off == 1 && !(isLocal x.toNat && isLocal (x.toNat + n - 1)), 0x05, x)]).andThen
    ((pkgRelease s tid).andThen (if 2 ≤ f.off.toNat && s.stagingBusy p.1 p.2.1 p.2.2 n then .wait else .pass))

/-- PSET's work: status and state (R338). -/
def State.pset (s : State) (op : Nat) (a n backing asid : Nat) : Word × State :=
  let p := stagingOf a
  let d := p.1
  let sl := p.2.1
  let off := p.2.2
  let ps := sget [] s.parts (64 * d + sl)
  if (s.die d).st != .online then (3, s)
  else if op ≤ 1 then
    let total := (ps.map (·.size)).foldl (· + ·) 0
    if ps.any (fun q => overlaps2 q.off q.size off n) || decide (2 ^ 22 < total + n) || decide (2 ^ 22 < off + n) || (s.die d).synslc.getLsbD sl
    then (1, s)
    else (0, s.pin d sl { off := off, size := n, backing := if op = 1 then some backing else none, asid := asid })
  else match ps.find? (fun q => q.off == off && q.size == n) with
    | none => (2, s)
    | some q =>
      if op = 2 then (0, s.release1 d sl q)
      else if q.backing.isNone then (2, s)
      else (0, (s.writeBack d sl q).release1 d sl q)

/-- A PSET word: an acquire-release at package scope (R338). -/
def psetWord (i : Instr) (f : MFmt) (op : Nat) (s : State) : Host.Outcome State Fault Refusal :=
  statusWord i s (psetCheck f) f.d.toNat (fun x t =>
    let y := x.thread t
    let r := (x.dropL1 (unitOf t)).pset op (y.reg f.a.toNat).toNat (y.reg (f.a.toNat + 1)).toNat
      (if op = 1 then (y.reg64 f.b.toNat).toNat else 0) (x.asidOf t)
    (some r.1, r.2))

/-- PSET.pin (R338). -/
def execPsetPin (f : MFmt) (s : State) : Host.Outcome State Fault Refusal := psetWord (.psetPin f) f 0 s
/-- PSET.pinb (R338). -/
def execPsetPinb (f : MFmt) (s : State) : Host.Outcome State Fault Refusal := psetWord (.psetPinb f) f 1 s
/-- PSET.unpin (R338). -/
def execPsetUnpin (f : MFmt) (s : State) : Host.Outcome State Fault Refusal := psetWord (.psetUnpin f) f 2 s
/-- PSET.unpinb (R338). -/
def execPsetUnpinb (f : MFmt) (s : State) : Host.Outcome State Fault Refusal := psetWord (.psetUnpinb f) f 3 s

/-! ## Die resets (R339, R414-R419) -/

/-- A die number of 8 or more traps (R339); a step waits while the die's spoke retrains (R412). -/
def dieCheck (f : RFmt) (s : State) (tid : Nat) : Check :=
  let w := (s.thread tid).reg f.a.toNat
  if 8 ≤ w.toNat then .trap 0x05 (w.setWidth 64) else if s.spokeBusy w.toNat then .wait else .pass

/-- The thread's own `drst.quiesce` of a die is under way. -/
def State.quiescingBy (s : State) (d tid : Nat) : Bool := (s.die d).st == .quiesced && (s.die d).quiescing == some tid

/-- A quiesce that has begun goes on once every request of the die has been performed and acknowledged (R414). -/
def quiesceCheck (f : RFmt) (s : State) (tid : Nat) : Check :=
  let d := s.greg tid f.a
  (dieCheck f s tid).andThen (if s.quiescingBy d tid && !s.dieQuiet d then .wait else .pass)

/-- DRST.quiesce (R414): the die leaves the online state at once, and the step returns when its requests are done: until then the
thread stays at the word. -/
def execDrstQuiesce (f : RFmt) (s : State) : Host.Outcome State Fault Refusal :=
  statusWord (.drstQuiesce f) s (quiesceCheck f) f.d.toNat (fun x t =>
    let d := x.greg t f.a
    let end_ := fun (x : State) => (some (0 : Word), x.onDie d (fun y => { y with quiescing := none }))
    if x.quiescingBy d t then end_ x
    else if (x.die d).st != .online then (some 1, x)
    else
      let x := x.beginQuiesce d t
      if x.dieQuiet d then end_ x else (none, x.onThread t (fun y => { y with pc := x.cur.pc })))

/-- A step of a die from one state; status 1 from any other (R339). -/
def drstStep (i : Instr) (f : RFmt) (ready : Die → Bool) (work : Nat → State → Nat × State) (s : State) :
    Host.Outcome State Fault Refusal :=
  statusWord i s (dieCheck f) f.d.toNat (fun x t =>
    let d := x.greg t f.a
    if ready (x.die d) then let r := work d x; (some (BitVec.ofNat 32 r.1), r.2) else (some 1, x))

/-- DRST.flush (R415). -/
def execDrstFlush (f : RFmt) (s : State) : Host.Outcome State Fault Refusal :=
  drstStep (.drstFlush f) f (fun d => d.st == .quiesced && d.quiescing.isNone) (fun d s => (0, s.flushDie d)) s
/-- DRST.core (R418): the status arrives once the die's links are retrained. -/
def execDrstCore (f : RFmt) (s : State) : Host.Outcome State Fault Refusal :=
  statusWord (.drstCore f) s (dieCheck f) f.d.toNat (fun x t =>
    let d := x.greg t f.a
    if (x.die d).st != .flushed || (x.die d).resetting.isSome then (some 1, x)
    else
      let r := x.resetCore d
      if r.1 = 2 then (some 2, r.2.onDie d (fun y => { y with st := .fenced }))
      else (none, ((r.2.onThread t (fun y => y.emptyRegs f.d.toNat 1)).onDie d (fun y => { y with resetting := some (t, f.d.toNat) })).endCore d))
/-- DRST.admit (R419). -/
def execDrstAdmit (f : RFmt) (s : State) : Host.Outcome State Fault Refusal :=
  drstStep (.drstAdmit f) f (fun d => d.st == .ready) (fun d s => (0, s.onDie d (fun x => { x with st := .online }))) s

/-- DRST.engine's checks (R328): the target word; it waits while the spoke of the target's die retrains (R412). -/
def engineResetCheck (f : RFmt) (s : State) (tid : Nat) : Check :=
  (targetWordCheck f.a s tid).andThen (if s.spokeBusy (dieOf (targetUnit ((s.thread tid).reg f.a.toNat))) then .wait else .pass)

/-- DRST.engine (R79, R339): a target word whose kind is none of a tile's names no tile (log 49). -/
def execDrstEngine (f : RFmt) (s : State) : Host.Outcome State Fault Refusal :=
  statusWord (.drstEngine f) s (engineResetCheck f) f.d.toNat (fun x t =>
    let w := (x.thread t).reg f.a.toNat
    let u := targetUnit w
    if !isTile u || !within 1 6 (targetKind w) || x.unitFenced u || (x.die (dieOf u)).st != .online then (some 1, x) else (some 0, x.resetMatrix u))

/-! ## Self-test (R340) -/

/-- The structure that STEST names. -/
def structOf (w : Word) : Structure := ⟨bitsOf w.toNat 31 28, bitsOf w.toNat 10 0, bitsOf w.toNat 27 11⟩

/-- STEST (R340): 2 for a reserved kind, a structure that does not exist (log 18) or a busy one; else the outcome of the test, which
the specification does not give. -/
def execStest (f : RFmt) (s : State) : Host.Outcome State Fault Refusal :=
  statusWord (.stest f) s noCheck f.d.toNat (fun x t =>
    let st := structOf ((x.thread t).reg f.a.toNat)
    if !Structure.exists_ st || x.structBusy st then (some 2, x)
    else
      let pass := Config.selfTest x.free
      (some (if pass then 0 else 1), ({ x with free := x.free + 1 }).testDone st pass))

/-! ## Words without an instruction, and the regroup -/

/-- UNASSIGNED_OPCODE (R158, R159): every performing thread of the bundle traps 0x01; a word whose MS is bad traps every
member. -/
def execUnassignedOpcode (w : DWord) (s : State) : Host.Outcome State Fault Refusal :=
  let is := s.cur
  let ms : BitVec 4 := w.extractLsb' 52 4
  if !maskSelectOk ms is.u then .next (s.stopAll 0x01 w)
  else
    let act := is.lanes.filter (performs s ms)
    let idle := is.lanes.filter (fun l => !performs s ms l)
    let moved := forEach idle s (fun s l => s.onThread (32 * is.bid + l) Thread.advance)
    .next ((forEach act moved (fun s l => s.raise (32 * is.bid + l) 0x01 w)).keepBundle is.bid is.lanes)

end Sys2Proof.Machine
end

