-- ==== Sys2Proof/Machine/Invalidate.lean ====
section
/-!
DEFINITION. Walks, invalidation and migration (14 R349-R361): the end of a translation, the walk cache, commands and their receivers, and
the migration of frames.
-/

namespace Sys2Proof.Machine

/-! ## The end of a translation (R345-R349) -/

/-- TLB_HIT_VALID (R349): handle `hdl` of thread `tid` becomes valid 12 clocks after its TRN. -/
def execTlbHitValid (s : State) : Host.Outcome State Fault Refusal :=
  let tid := s.ev.tid
  let h := (s.thread tid).hdl s.ev.hdl
  match h.st, h.due with
  | .pending, some d =>
    .next (s.atClock d (fun s => s.onThread tid (fun t => t.setHdl s.ev.hdl { h with st := .valid, due := none })))
  | _, _ => .next s

/-- The key of a cached table entry. -/
def walkKey (die asid pa : Nat) : Nat := (die * 2 ^ 16 + asid) * 2 ^ 48 + pa

/-- The walker of a die remembers a table entry; the oldest key leaves a full cache (R349; replacement is not architected). -/
def State.walkKeep (s : State) (die asid pa : Nat) (e : DWord) : State :=
  let mine := s.walkCache.filter (fun p => p.1 / 2 ^ 64 == die)
  let m := if 256 ≤ mine.length then (match mine with | (k, _) :: _ => serase k s.walkCache | [] => s.walkCache) else s.walkCache
  { s with walkCache := sput (walkKey die asid pa) e m }

/-- A handle's walk has ended without a leaf (R346). -/
def State.walkFault (s : State) (tid i : Nat) : State :=
  s.onThread tid (fun t => let h := t.hdl i; t.setHdl i { h with st := .faulted, walk := none })

/-- A handle's walk has found its leaf, which fills the TLB (R349); one that ends between a command's receipt by its unit's TLB and by its
walker keeps what it found (log 107). -/
def State.walkLeaf (s : State) (tid i : Nat) (l : Leaf) : State :=
  let h := (s.thread tid).hdl i
  let (id, s) := s.tlbFill (unitOf tid) h.asid h.base.toNat l
  s.onThread tid (fun t => t.setHdl i { h with st := .valid, leaf := l, walk := none, tlb := id })

/-- The end that a unit's walks start from: its die's walker, at the shell; a management core's walks start at the Sett. -/
def walkerEnd (u : Nat) : Nat := if isMgmt u then settEnd else shellEnd (dieOf u)

/-- One read of the walk of handle i of a thread (R345, R347): of the walk cache where it holds the entry, else of memory, which the read
reaches (R412). -/
def State.walkRead (s : State) (tid i : Nat) : State :=
  let h := (s.thread tid).hdl i
  match h.st, h.walk with
  | .pending, some (level, table) =>
    let a := s.space h.asid
    let d := dieOf (unitOf tid)
    let pa := entryAddr table h.base.toNat level
    let next := fun (s : State) (t : Nat) => s.onThread tid (fun x => x.setHdl i { h with walk := some (level - 1, t) })
    if !a.valid then s.walkFault tid i
    else
      let cached := find? (walkKey d h.asid pa) s.walkCache
      if cached.isNone && !s.reaches (walkerEnd (unitOf tid)) .phys [pa] then s
      else
      let s := if cached.isSome then s else s.readFill (dataWho (unitOf tid)) pa
      match (match cached with | some e => some e.toNat | none => s.readEntry pa) with
      | none => s.walkFault tid i
      | some e => match s.entryKind a e level with
        | .bad => s.walkFault tid i
        | .leaf l => s.walkLeaf tid i l
        | .table t => next (s.walkKeep d h.asid pa (BitVec.ofNat 64 e)) t
  | _, _ => s

/-- PAGE_WALK_END (R346): the walk of handle `hdl` of thread `tid` does the reads that are left, at most four. -/
def execPageWalkEnd (s : State) : Host.Outcome State Fault Refusal :=
  .next ((List.range 4).foldl (fun s _ => s.walkRead s.ev.tid s.ev.hdl) s)

/-- An entry of a walk cache is replaced. -/
def State.dropWalk (s : State) (die key : Nat) : State :=
  { s with walkCache := s.walkCache.filter (fun p => !(p.1 == key && p.1 / 2 ^ 64 == die)) }

/-- An entry of a TLB is replaced: its count is merged (R351). -/
def State.dropTlb (s : State) (u idx : Nat) : State :=
  match (s.core u).tlb[idx]? with
  | none => s
  | some e => (s.onCore u (fun c => { c with tlb := c.tlb.eraseIdx idx })).hotMerge e

/-! ## Commands (R352) -/

/-- INVALIDATION_BROADCAST (R352): the sequencer broadcasts its next command, which a packet takes to each die; for a region, the table's entry counts for INVW (R356). -/
def execInvalidationBroadcast (s : State) : Host.Outcome State Fault Refusal :=
  match s.invq.find? (fun c => !c.broadcast) with
  | none => .next s
  | some c =>
    let s := s.onInv c.seq (fun c => { c with broadcast := true })
    let s := forEach (List.range 8) s (fun s d => s.sendPacket .req (invRef c.seq) settEnd (dieEnd d))
    .next (if c.kind = 2 then
        (match s.regionOf c.asid (c.count % 65536) with
         | some (base, size, _, _) => s.noteFrames c.seq [(base, size)]
         | none => s)
      else s)

/-! ## Receivers (R353) -/

/-- Every receiver of the package; walker 8 is the management cores' (log 9). -/
def receivers : List Receiver :=
  (List.range 2052).map .unit ++ (List.range 9).map .walker ++ (List.range 8).map .layout ++ [.port]

/-- The threads of a unit. -/
def State.unitTids (s : State) (u : Nat) : List Nat := (skeys s.threads).filter (fun t => unitOf t == u)

/-- The TLB of a unit drops what a command matches, merging hotness counts (R351, R353). -/
def State.invTlb (s : State) (u : Nat) (c : InvCmd) : State :=
  let gone := (s.core u).tlb.filter (fun e => c.matches e.asid e.va e.leaf)
  let s := s.onCore u (fun x => { x with tlb := x.tlb.filter (fun e => !c.matches e.asid e.va e.leaf) })
  forEach gone s (fun s e => (s.hotMerge e).noteFrames c.seq e.leaf.frames)

/-- The accesses of a unit's threads in the address space that a command's acknowledgement waits for (R215). -/
def State.invOutstanding (s : State) (u : Nat) (c : InvCmd) : List Nat :=
  (s.reqs.filter (fun r => r.u == u && r.place == .phys && !(r.kind == .evwait && r.performed) && r.asid == c.asid)).map (·.id)

/-- The die of a receiver, when it has one. -/
def receiverDie : Receiver → Option Nat
  | .unit u => if isMgmt u then none else some (dieOf u)
  | .walker d => some d
  | .layout d => some d
  | .port => none

/-- The Sett answers for a die whose core region is flushed or ready (R353); a layout unit lies on the base die. -/
def State.answered (s : State) (r : Receiver) : Bool :=
  match (match r with | .layout _ => none | _ => receiverDie r) with
  | some d => (s.die d).st == .flushed || (s.die d).st == .ready
  | none => false

/-- A walk in progress in the address space restarts (R353). -/
def State.invWalks (s : State) (d : Nat) (c : InvCmd) : State :=
  let root := (s.space c.asid).root
  forEach ((skeys s.threads).filter (fun t => dieOf (unitOf t) == d)) s (fun s t => s.onThread t (fun x => { x with
    h := x.h.map (fun p => (p.1, if p.2.st == .pending && p.2.walk.isSome && p.2.asid == c.asid then { p.2 with walk := some (3, root) } else p.2)) }))

/-- The pages of the handles in leg records, of record stores and rings, and in images, that revoke as they come back because INVSEQ passes
their INVAT with a command (R326, R353, R356). -/
def State.heldFrames (s : State) (c : InvCmd) : List (Nat × Nat) :=
  s.teams.flatMap (fun p => c.handleFrames
    ((match p.2.leg with
      | some g => if g.invat = s.invseq.toNat then g.threads.flatMap (fun t => t.2.h.map (·.2)) else []
      | none => []) ++
     (if p.2.done then [] else (p.2.hdls.filter (fun h => h.1 == s.invseq.toNat)).map (·.2))))

/-- What a command does at a receiver (R353). -/
def State.receive (s : State) (r : Receiver) (c : InvCmd) : State :=
  match r with
  | .unit u =>
    let ids := s.invOutstanding u c
    let s := ((s.invTlb u c).revokeThreads c (s.unitTids u)).revokeQueues c (s.copyQueues u)
    s.onInv c.seq (fun c => { c with pending := c.pending ++ [(r, ids)] })
  | .walker d =>
    if c.kind = 2 then s
    else { s.invWalks d c with walkCache := s.walkCache.filter (fun p => p.1 / 2 ^ 48 != d * 2 ^ 16 + c.asid) }
  | .layout _ => s
  | .port =>
    let gone := s.portTlb.filter (fun e => c.matches e.asid e.va e.leaf)
    { s with portTlb := s.portTlb.filter (fun e => !c.matches e.asid e.va e.leaf) }.noteFrames c.seq (gone.flatMap (fun (e : TlbEntry) => e.leaf.frames))

/-- A command has come to a receiver's die, or needs no packet to (R352, R408). -/
def State.cmdThere (s : State) (r : Receiver) (seq : Nat) : Bool :=
  match receiverDie r with
  | some d => 8 ≤ d || !s.onWay .req (invRef seq) (dieEnd d)
  | none => true

/-- INVALIDATION_RECEIVE (R353): command `id` reaches receiver `r`, after the ones before it. -/
def execInvalidationReceive (s : State) : Host.Outcome State Fault Refusal :=
  let r := s.ev.r
  match s.invq.find? (fun c => c.broadcast && !c.complete && !c.received.contains r) with
  | none => .next s
  | some c =>
    if c.seq ≠ s.ev.id || !s.cmdThere r c.seq then .next s
    else
      let s := if s.answered r then s else s.receive r c
      .next (s.onInv c.seq (fun c => { c with received := c.received ++ [r] }))

/-- The end of a receiver: a unit's own, the shell of a walker's or layout unit's die, the Sett of a port and of walker 8. -/
def receiverEnd : Receiver → Nat
  | .unit u => u
  | .walker d => if d < 8 then shellEnd d else settEnd
  | .layout d => shellEnd d
  | .port => settEnd

/-- The condition of a receiver's acknowledgement (R353), which crosses the network to the Sett (R412), or from the Sett itself where it
answers for a die. -/
def State.mayAck (s : State) (r : Receiver) (c : InvCmd) : Bool :=
  (s.answered r || s.crossing .rsp (receiverEnd r) settEnd) && c.pending.all (fun p => p.1 != r || p.2.all (fun id => (match s.req? id with
    | some q => q.kind == .evwait && q.performed
    | none => true)))

/-- Commands complete in sequence order, once every receiver has acknowledged (R354). -/
def completeInv : List InvCmd → Word → List InvCmd × Word
  | [], w => ([], w)
  | c :: rest, w =>
    if c.complete then let r := completeInv rest w; (c :: r.1, r.2)
    else if receivers.all (fun r => c.acked.contains r) then
      let r := completeInv rest (BitVec.ofNat 32 c.seq); ({ c with complete := true } :: r.1, r.2)
    else (c :: rest, w)

/-- The commands that every receiver has acknowledged complete; the first of them revokes what leg records and images hold (R326, R354,
R356). -/
def State.completeInvs (s : State) : State :=
  match s.invq.find? (fun c => !c.complete) with
  | none => s
  | some c =>
    if !receivers.all (fun r => c.acked.contains r) then s
    else
      let s := s.noteFrames c.seq (s.heldFrames c)
      let d := completeInv s.invq s.invseq
      { s with invq := d.1, invseq := d.2 }

/-- INVALIDATION_ACKNOWLEDGE (R353, R354): receiver `r` acknowledges command `id`. -/
def execInvalidationAcknowledge (s : State) : Host.Outcome State Fault Refusal :=
  let r := s.ev.r
  match s.invq.find? (fun c => c.seq == s.ev.id && c.received.contains r && !c.complete && !c.acked.contains r) with
  | none => .next s
  | some c =>
    if !s.mayAck r c then .next s
    else .next (s.onInv c.seq (fun c => { c with acked := c.acked ++ [r] })).completeInvs

/-! ## Migration (R359-R361) -/

/-- A range of one or more frames lies on populated memory of one stack, inside the partition (R359; 0 frames are refused like a bad range:
log 108). -/
def framesOk (a : ASpace) (pa n : Nat) : Bool :=
  let last := pa + 65536 * n - 1
  pa % 65536 == 0 && decide (1 ≤ n) && isLocal pa && isLocal last && homeDie pa == homeDie last &&
  (List.range 6).all (fun j =>
    let lo := homeDie pa * 2 ^ 37 + j * 2 ^ 34
    !overlaps2 pa (65536 * n) lo (2 ^ 34) || a.blocks.testBit (6 * homeDie pa + j))

/-- A backed pin overlaps a range. -/
def State.pinned (s : State) (pa n : Nat) : Bool :=
  s.parts.any (fun q => q.2.any (fun (p : Partition) => match p.backing with
    | some base => overlaps2 base p.size pa n
    | none => false))

/-- The status with which a request is refused, 0 where it is not (R359). -/
def State.migRefusal (s : State) (a : ASpace) (src dst n g : Nat) : Nat :=
  if !framesOk a src n || !framesOk a dst n || 3 < g then 2
  else if s.pinned src (65536 * n) then 3
  else if overlaps2 src (65536 * n) dst (65536 * n) then 4 else 0

/-- The extended address of a byte of an address space's migration queue, where firmware reaches it (R342, R359, R439). -/
def State.migPa (s : State) (asid off : Nat) : Option Nat :=
  if (find? asid s.spaces).isNone || !isSpace asid then none
  else (s.extend ((s.space asid).migq + off)).bind (fun x => if s.farOff x then none else some x)

/-- A request's end: the read count passes it, then its status is written (R359). Either write raises its line's version, as every
hardware write of a control structure (log 83). -/
def State.migAnswer (s : State) (asid slot status : Nat) : State :=
  match s.migPa asid 4, s.migPa asid (128 + 64 * slot + 24) with
  | some rd, some at_ =>
    let r := s.readNat .phys rd 4
    (((s.fillFor settWho .phys (runOf rd 4)).writeCtl rd (toBytes 4 (r + 1)))).writeCtl at_ (toBytes 4 status)
  | _, _ => s

/-- What a queue holds next for an address space, counts and requests read at their memory points (R359): the slot and its 64 bytes, and the
state after the reads; none while it holds nothing. -/
def State.migNext (s : State) (asid : Nat) : Option (Nat × List Byte) × State :=
  match s.migPa asid 0, s.migPa asid 4 with
  | some wr, some rd =>
    let r := s.readNat .phys rd 4
    let f := s.fillFor settWho .phys (runOf wr 4 ++ runOf rd 4)
    let slot := r % 2 ^ ((s.space asid).migqCap + 4)
    if s.readNat .phys wr 4 = r then (none, f)
    else match s.migPa asid (128 + 64 * slot) with
      | some x => (some (slot, s.readN .phys x 64), f.fillFor settWho .phys (runOf x 64))
      | none => (none, f)
  | _, _ => (none, s)

/-- MIGRATION_REQUEST (R359): firmware takes the next request of address space `asid`: it is refused, or its migration begins. -/
def execMigrationRequest (s : State) : Host.Outcome State Fault Refusal :=
  let asid := s.ev.asid
  if (find? asid s.migrations).isSome then .next s
  else match s.migNext asid with
  | (none, s) => .next s
  | (some (slot, b), s) =>
    let src := fieldOf b 0 8
    let dst := fieldOf b 8 8
    let n := fieldOf b 16 4
    let st := s.migRefusal (s.space asid) src dst n (fieldOf b 20 1)
    if st ≠ 0 then .next (s.migAnswer asid slot st)
    else
      let m : Migration := { asid := asid, slot := slot, src := src, dst := dst, frames := n, gran := granOf (fieldOf b 20 1) }
      .next { s with migrations := sput asid m s.migrations }

/-- A sector of a source line is poisoned, or is filled from a fenced bank (R360, R422). -/
def State.sectorBad (s : State) (a : Nat) : Bool :=
  s.readsPoison .phys [a]

/-- One line is copied in one step at its home slice, with its poison and its version (R360, R394), read and decoded where the slice does
not hold it (R400). -/
def State.migLine (s : State) (src dst : Nat) (g : Gran) : State :=
  let s := s.readThrough src (List.range 8) (sliceWho (sliceOf (128 * src)))
  let gone := sget false s.lost src
  let v := if gone then s.version dst + 1 else s.version src
  let bytes := s.readN .phys (128 * src) 128
  let bad := (List.range 8).filter (fun i => gone || s.sectorBad (128 * src + 16 * i))
  let s := s.store .phys (cellsAt (128 * dst) bytes)
  let s := forEach bad s (fun s i => s.setPoison .phys (128 * dst + 16 * i) true)
  let s := { s with
    l2 := serase dst (if gone then serase src s.l2 else s.l2)
    lost := serase dst s.lost
    versions := if g == .s32 then serase dst s.versions else sput dst v s.versions }
  let s := forEach (if s.granule (128 * dst) == .s32 then List.range 4 else [0]) s (fun s u => s.writeUnit (128 * dst + 32 * u))
  if g == .s32 then s.raiseFloor (sliceOf (128 * dst)) v else s

/-- MIGRATION_LINE_COPY (R360): the migration of address space `asid` copies its next line; after the last one the destination frames
take their granule and the status is written. -/
def execMigrationLineCopy (s : State) : Host.Outcome State Fault Refusal :=
  let asid := s.ev.asid
  match find? asid s.migrations with
  | none => .next s
  | some m =>
    let s := s.migLine (m.src / 128 + m.line) (m.dst / 128 + m.line) m.gran
    if m.line + 1 < 512 * m.frames then .next { s with migrations := sput asid { m with line := m.line + 1 } s.migrations }
    else
      let s := { s with
        granules := (List.range m.frames).foldl (fun t i => sset .l128 t (m.dst / 65536 + i) m.gran) s.granules
        migrations := serase asid s.migrations }
      .next (s.migAnswer asid m.slot 1)

end Sys2Proof.Machine
end

