-- ==== Sys2Proof/Machine/Regroup.lean ====
section
/-!
DEFINITION. Which threads are ready, and the regroup of a sub-partition (01 R12-R15, R22).
-/

namespace Sys2Proof.Machine

/-- A thread of a band is ready (R12): nothing holds it, and the word at its pc would not wait. -/
def State.ready (s : State) (tid : Nat) : Bool :=
  let t := s.thread tid
  let b := s.band (bandOf tid)
  t.free && !b.halted && !b.haltReq && !(s.team b.team).stopping &&
  match s.fetch (unitOf tid) (s.asidOf tid) t.pc.toNat with
  | none => true
  | some w => !s.fetchedWaits w tid

/-- The ready threads of a band. -/
def State.readyTids (s : State) (bid : Nat) : List Nat := (s.bandTids bid).filter s.ready

/-- The PC group that a picked band chooses (R13 step 3). -/
def State.choose (s : State) (bid : Nat) : List Nat :=
  let r := s.readyTids bid
  let pc := fun t => (s.thread t).pc.toNat
  let old := r.filter (fun t => 64 ≤ (s.thread t).age)
  let best := if old.isEmpty then mostCommon (r.map pc)
    else old.foldl (fun m t => match m with | none => some (pc t) | some x => some (Nat.min x (pc t))) none
  match best with
  | none => []
  | some x => r.filter (fun t => pc t == x)

/-- Ages after a choice (R13 step 4) and the band's new bundle (R14). -/
def State.pickBand (s : State) (bid : Nat) : State :=
  let r := s.readyTids bid
  let g := s.choose bid
  let s := forEach r s (fun s t => s.onThread t (fun x =>
    { x with age := if g.contains t then 0 else Nat.min 127 (x.age + 1) }))
  s.onBand bid (fun b => { b with bundle := g.map laneOf })

/-- The regroup of a sub-partition (R13), at the clock it falls due: masks are evaluated (R22), up to 4 bands are picked in round-robin order, and
each chooses its PC group. A regroup that picks no band leaves the last band of an earlier one as the one that the next pick starts after
(log 96). -/
def State.regroup (s : State) (u sub : Nat) : State :=
  let s := s.onCore u (fun c => { c with swapLive := c.swapth, gangLive := c.gangto })
  let bs := s.bandsOf u sub
  let s := forEach bs s (fun s b =>
    let s := s.onBand b (fun x => { x with fpLive := x.fpmode })
    let s := s.evalJoins b
    forEach (s.bandTids b) s (fun s t =>
      if (s.thread t).wait == .regroup then s.onThread t (fun x => { x with wait := .none }) else s))
  let last := (s.window u sub).last
  let order := (List.range 16).map (fun i => 64 * u + sub + 4 * ((last + 1 + i) % 16))
  let cand := order.filter (fun b => bs.contains b && !(s.readyTids b).isEmpty)
  let picked := cand.take 4
  let s := forEach bs s (fun s b => if picked.contains b then s.pickBand b else s.onBand b (fun x => { x with bundle := [] }))
  let now := s.clock
  s.onWindow u sub (fun w =>
    { picked := picked, next := if picked.isEmpty then 4 else 0,
      last := match picked.getLast? with | some b => slotOf b / 4 | none => w.last,
      start := now,
      at_ := if picked.isEmpty then now + 4 else now })

/-- The issue slot of this clock is used up: the following one is due a clock later. -/
def State.takeSlot (s : State) (u sub : Nat) : State :=
  let now := s.clock
  s.onWindow u sub (fun w => { w with next := w.slot now + 1, at_ := now + 1 })

end Sys2Proof.Machine
end

