-- ==== Sys2Proof/Machine/Launches.lean ====
section
/-!
DEFINITION. Submission and the lottery (15 R363-R370, R381, R449): queue tables, launch descriptors and their checks, counters, the
draw, and the placing of teams in cluster queues.
-/

namespace Sys2Proof.Machine

/-! ## A context's virtual memory, as the distributor reaches it -/

/-- n bytes of a context's virtual space; none where some page cannot be read. -/
def State.ctxBytes (s : State) (c va n : Nat) : Option (List Byte) :=
  (List.range n).mapM (fun i => (s.ctxPa c (va + i) false).map (s.readByte .phys))

/-- A little-endian value of n bytes. -/
def State.ctxNat (s : State) (c va n : Nat) : Option Nat := (s.ctxBytes c va n).map fromBytes

/-- The addresses and bytes of a write to a context's virtual space; none where some page cannot be written. -/
def State.ctxCells (s : State) (c va : Nat) (bs : List Byte) : Option (List (Nat × Byte)) :=
  (cellsAt va bs).mapM (fun p => (s.ctxPa c p.1 true).map (fun a => (a, p.2)))

/-- Writes bytes there, one write of each line (R133). -/
def State.ctxWrite (s : State) (c va : Nat) (bs : List Byte) : Option State := (s.ctxCells c va bs).map ((s.ctxWalks c va bs.length).writeHome settWho)

/-! ## Queue tables (R364) -/

/-- A field of entry q of a context's queue table. -/
def State.queueField (s : State) (c q off n : Nat) : Option Nat := s.ctxNat c ((s.ctx c).qtab + 64 * q + off) n

/-- The queue may be drawn: bit 0 of EN. -/
def State.queueOn (s : State) (c q : Nat) : Bool := ((s.queueField c q 9 1).getD 0).testBit 0

/-- TICKETS of a queue. -/
def State.tickets (s : State) (c q : Nat) : Nat := (s.queueField c q 10 1).getD 0

/-- Every team of a launch has been placed, withdrawn or discarded. -/
def State.drained (s : State) (lid : Nat) : Bool := (s.launch lid).total ≤ (s.launch lid).next

/-- The distributor raises the read count of a queue whose head is drained, and the queue has no head. -/
def State.retire (s : State) (c q : Nat) : State :=
  match find? q (s.ctx c).heads with
  | none => s
  | some lid =>
    if !s.drained lid then s
    else match s.queueField c q 16 4 with
    | none => s
    | some r => match (s.ctxFill c ((s.ctx c).qtab + 64 * q + 16) 4).ctxWrite c ((s.ctx c).qtab + 64 * q + 16) (toBytes 4 (r + 1)) with
      | none => s
      | some s => s.onCtx c (fun x => { x with heads := serase q x.heads })

/-! ## Descriptors (R365, R366) -/

/-- The fields of a descriptor's 256 bytes. -/
def Desc.parse (b : List Byte) : Desc :=
  let f := fieldOf b
  { entry := f 0 8, tensor := f 8 1 == 1, priv := (f 9 1).testBit 0, pkgbar := (f 9 1).testBit 1, cgroup := f 10 1, regs := f 11 1,
    bands := f 12 1, last := f 13 1, gx := f 16 4, gy := f 20 4, gz := f 24 4, scratch := f 28 4, carry := f 32 4, psize := f 36 4,
    spilltop := f 40 4, steps := f 44 4, ppool := f 48 8, tvec := f 56 8, pkqb := f 64 8, fpmode := f 72 4, job := f 76 2,
    jcount := f 78 2, graph := f 80 2, gcount := f 82 2, predn := f 84 1,
    preds := (List.range (Nat.min 4 (f 84 1))).map (fun i => f (88 + 4 * i) 4), args := wordsFrom b 104 16,
    trect := (List.range 6).map (fun i => f (168 + i) 1), compl := f 176 8 }

/-- The reserved bytes and values of a descriptor are 0. -/
def reservedZero (b : List Byte) : Bool :=
  let f := fieldOf b
  decide (f 8 1 ≤ 1) && f 9 1 / 4 == 0 && f 14 2 == 0 && f 85 3 == 0 && f 174 2 == 0 && f 184 72 == 0

/-- Every field of a descriptor lies in its range (R365, R10, R30, R108). -/
def Desc.inRange (d : Desc) : Bool :=
  (d.cgroup == 0 || within 2 8 d.cgroup) && within 8 64 d.regs && d.regs % 8 == 0 &&
  within 1 (if d.tensor then 1 else 32) d.bands && within 1 (if d.tensor then 1 else 32) d.last &&
  within 1 65535 d.gx && within 1 65535 d.gy && within 1 65535 d.gz &&
  d.scratch % 128 == 0 && decide (d.scratch ≤ (if d.tensor then 2 ^ 21 else 2 ^ 18)) && decide (d.carry ≤ d.scratch) &&
  d.psize % 128 == 0 && decide (d.psize ≤ 2 ^ 20) && d.spilltop % 8 == 0 && decide (d.spilltop ≤ d.psize) &&
  decide (1 ≤ d.jcount) && decide (1 ≤ d.gcount) && decide (d.predn ≤ 4)

/-- The addresses of a descriptor are aligned (R365, R366). -/
def Desc.aligned (d : Desc) : Bool := d.entry % 8 == 0 && d.ppool % 65536 == 0 && d.compl % 64 == 0

/-- The teams of a launch. -/
def Desc.teams (d : Desc) : Nat := d.gx * d.gy * d.gz

/-- A tensor launch's rectangle lies wholly in some quarters of the tensor dies, and its grid is that of its tiles. -/
def Desc.rectOk (d : Desc) (rect : Nat) : Bool :=
  let r := fun i => d.trect.getD i 0
  within 4 7 (r 0) && within 0 7 (r 1) && within 1 8 (r 2) && within 0 3 (r 3) && within 1 4 (r 4) && within 1 8 (r 5) &&
  decide (r 1 + r 2 ≤ 8) && decide (r 3 + r 4 ≤ 4) && (List.range (r 4)).all (fun i => rect.testBit (8 * (r 0 - 4) + r 3 + i)) &&
  d.gx == r 2 * r 4 * r 5 && d.gy == 1 && d.gz == 1 && d.cgroup == 0 && !d.pkgbar

/-- Bytes of a launch's leg records (R366, R377). -/
def Desc.legBytes (d : Desc) : Nat := (0x100 + d.bands * 0x8200 + d.carry + 4095) / 4096 * 4096

/-- The graph of the launch that an identifier names, where it has been submitted and has not become head of its queue (R364, R367): the
descriptor at its write count. The head itself stands at the read count until all its teams are placed. -/
def State.submittedGraph (s : State) (c p : Nat) : Option Nat :=
  let q := p / 2 ^ 24
  let w := p % 2 ^ 24
  if q = 64 then
    (s.machineWait.find? (fun x => x.1 == c && x.2.1 % 2 ^ 24 == w)).map (fun x => (Desc.parse x.2.2).graph)
  else if 64 < q then none
  else match s.queueField c q 0 8, s.queueField c q 8 1, s.queueField c q 12 4, s.queueField c q 16 4 with
    | some ring, some cap, some wr, some rd =>
      let i := (w + 2 ^ 24 - rd % 2 ^ 24) % 2 ^ 24
      if i < (wr + 2 ^ 32 - rd) % 2 ^ 32 && !(i == 0 && (find? q (s.ctx c).heads).isSome) then
        (s.ctxNat c (ring + 8 * ((rd + i) % 2 ^ cap)) 8).bind (fun a => s.ctxNat c (a + 80) 2)
      else none
    | _, _, _, _ => none

/-- An identifier names a launch of a graph (R366): one that the graph's counter has accepted, or one that is submitted and waits. -/
def State.namesLaunch (s : State) (c graph inst p : Nat) : Bool :=
  (match find? (2 ^ 32 * c + p) s.launches with
   | some l => l.desc.graph == graph && l.inst == inst
   | none => false) || s.submittedGraph c p == some graph

/-- A descriptor of a queue of context c passes the checks of R366, but for its graph's and job's counts; the machine queue may set PRIV,
and its RECT is the whole package (R449). `inst` names the graph's counter. -/
def State.descOk (s : State) (c : Nat) (machine : Bool) (inst : Nat) (b : List Byte) : Bool :=
  let d := Desc.parse b
  let x := s.ctx c
  reservedZero b && d.inRange && d.aligned && (machine || !d.priv) &&
  (!d.tensor || d.rectOk (if machine then 0x0F0F0F0F else x.rect)) &&
  (!d.pkgbar || (decide (d.teams ≤ 2 ^ x.bcap) && decide (d.legBytes ≤ x.rsize))) &&
  d.preds.all (s.namesLaunch c d.graph inst)

/-! ## Counters (R367) -/

/-- An open counter. -/
def openCounter (m : List (Nat × Counter)) (k : Nat) : Option Counter :=
  match find? k m with
  | some c => if c.remaining = 0 then none else some c
  | none => none

/-- The counters take a launch of their context: whether they count it, and whether they agree with it. -/
def State.countsOk (s : State) (l : Launch) : Bool × Bool :=
  let g := openCounter s.graphs l.graphKey
  let j := openCounter s.jobs l.jobKey
  let full := fun (c : Option Counter) => match c with | some x => decide (x.count ≤ x.accepted) | none => false
  let agrees := fun (c : Option Counter) n => match c with | some x => x.count == n | none => true
  (!full g && !(g.isNone && full j),
   agrees g l.desc.gcount && agrees j l.desc.jcount)

/-- A counter accepts one more, or is created. -/
def acceptCount (m : List (Nat × Counter)) (k n name : Nat) : List (Nat × Counter) :=
  match openCounter m k with
  | some c => sput k { c with accepted := c.accepted + 1 } m
  | none => sput k { remaining := n, accepted := 1, count := n, inst := name } m

/-- The graph, and with a graph's first launch its job, accept a launch. A graph whose GCOUNT is 0 counts its one launch, which is refused;
a job whose JCOUNT is 0 is not created (R366; log 102). -/
def State.accept (s : State) (l : Launch) : State :=
  let first := (openCounter s.graphs l.graphKey).isNone
  let newJob := (openCounter s.jobs l.jobKey).isNone
  { s with
    fresh := s.fresh + 1
    graphs := acceptCount s.graphs l.graphKey (Nat.max 1 l.desc.gcount) s.fresh
    jobs := if (first || newJob) && !(newJob && l.desc.jcount == 0) then acceptCount s.jobs l.jobKey l.desc.jcount s.fresh else s.jobs }

/-! ## Launches (R366, R367) -/

/-- A refused launch: its counter records failed with remaining 0, and its graph counts it as completed if it counts it at all. -/
def State.refuse (s : State) (lid : Nat) (l : Launch) (counted : Bool) : State :=
  let s := { s with launches := sput lid { l with status := 3 } s.launches }
  let s := if l.desc.compl % 64 = 0 then s.levelRecord lid 1 0 0 0 3 else s
  let s := s.cancelDependants lid
  if counted then s.graphDec lid else s

/-- A launch whose graph or job has been cancelled loses its teams, one whose predecessor was cancelled or failed is cancelled (R36,
R376). -/
def State.cancelLate (s : State) (lid : Nat) : State :=
  let l := s.launch lid
  let bad := l.desc.preds.any (fun p => let q := s.launch (2 ^ 32 * l.ctx + p); q.inst == l.inst && (q.status == 2 || q.status == 3))
  let gone := (match find? l.graphKey s.graphs with | some c => c.status == 2 | none => false) ||
    (match find? l.jobKey s.jobs with | some c => c.status == 2 | none => false)
  if bad then s.cancelOne lid else if gone then s.discardUnplaced lid else s

/-- A launch becomes head of its queue: its counters are created, or it is refused. The completed teams of an earlier launch that had its
identifier (R367) are forgotten. -/
def State.takeLaunch (s : State) (lid c q : Nat) (b : List Byte) : State :=
  let s := { s with teams := s.teams.filter (fun p => !(p.2.lid == lid && p.2.done)) }
  let d := Desc.parse b
  let l : Launch := { ctx := c, queue := q, desc := d }
  let k := s.countsOk l
  let s := if k.1 then s.accept l else s
  let l := { l with inst := if k.1 then ((find? l.graphKey s.graphs).map (·.inst)).getD 0 else 0 }
  let good := s.descOk c (q == 64) l.inst b && k.1 && k.2
  if !good then s.refuse lid l k.1
  else
    let now := s.clock
    let s := { s with launches := sput lid { l with
      remaining := d.teams, total := d.teams, budgets := [(now, BitVec.ofNat 32 d.steps)] } s.launches }
    s.cancelLate lid

/-- The identifier of a launch (R367). -/
def launchId (c q wcnt : Nat) : Nat := 2 ^ 32 * c + 2 ^ 24 * q + wcnt % 2 ^ 24

/-- The machine queue's head: its launch with unplaced teams. -/
def State.machineHead (s : State) : Option Nat := s.machineQ.find? (fun lid => !s.drained lid)

/-- The oldest launch that waits on the machine queue becomes head once the one before it is placed (R364, R449). -/
def State.machineTurn (s : State) : State :=
  if s.machineHead.isSome then s
  else match s.machineWait with
    | [] => s
    | (c, w, b) :: rest =>
      let lid := launchId c 64 w
      { { s with machineWait := rest }.takeLaunch lid c 64 b with machineQ := [lid] }

/-- Firmware places a launch on the machine queue, in a context (R366, R449). -/
def State.machineLaunch (s : State) (c wcnt : Nat) (b : List Byte) : State :=
  { s with machineWait := s.machineWait ++ [(c, wcnt, b)] }.machineTurn

/-- The distributor looks at a queue: a drained head leaves, and the launch at the read count becomes head once the write count has
passed it (R364). -/
def State.submit (s : State) (c q : Nat) : State :=
  let s := s.retire c q
  let x := s.ctx c
  if !x.valid || 64 ≤ q || (find? q x.heads).isSome then s
  else
    let f := s.ctxFill c (x.qtab + 64 * q) 64
    match s.ctxBytes c (x.qtab + 64 * q) 64 with
    | none => f
    | some e =>
      let r := fieldOf e 16 4
      let slot := fieldOf e 0 8 + 8 * (r % 2 ^ fieldOf e 8 1)
      if fieldOf e 12 4 = r then f
      else match s.ctxNat c slot 8 with
      | none => f.ctxFill c slot 8
      | some a =>
        let f := f.ctxReads c [(slot, 8), (a, 256)]
        match s.ctxBytes c a 256 with
        | none => f
        | some b =>
          let lid := launchId c q r
          let s := (f.takeLaunch lid c q b).onCtx c (fun x => { x with heads := sput q lid x.heads })
          s.retire c q

/-- LAUNCH_SUBMIT (R364): the distributor reads queue `queue` of context `ctx`; 64 is the machine queue. -/
def execLaunchSubmit (s : State) : Host.Outcome State Fault Refusal :=
  .next (if s.ev.queue = 64 then s.machineTurn else s.submit s.ev.ctx s.ev.queue)

/-! ## Readiness and cluster queues (R368, R371, R372) -/

/-- Every predecessor of a launch has reached its hint count (R298), or has completed; one that is not yet head of its queue has not. -/
def State.predsHinted (s : State) (lid : Nat) : Bool :=
  let l := s.launch lid
  l.desc.preds.all (fun p => match find? (2 ^ 32 * l.ctx + p) s.launches with
    | some q => q.inst == l.inst && (decide (q.total ≤ q.hints) || q.remaining == 0)
    | none => false)

/-- Free places of a cluster queue. -/
def State.freePlaces (s : State) (cl : Nat) : Nat := 16 - (sget [] s.clusterQ cl).length

/-- A cluster takes teams: its die is online and it is not fenced whole (R371). -/
def State.clusterOpen (s : State) (cl : Nat) : Bool :=
  (s.die (cl / 32)).st == .online && (List.range 8).any (fun p => !s.unitFenced (8 * cl + p))

/-- A context's SHADERSET holds the quarter of a cluster (R363). -/
def Ctx.has (x : Ctx) (cl : Nat) : Bool := x.shaderset.testBit (8 * (cl / 32) + cl % 32 / 8)

/-- A launch's teams may run in a cluster. -/
def State.mayRun (s : State) (lid cl : Nat) : Bool :=
  let l := s.launch lid
  s.clusterOpen cl && (l.queue == 64 || (s.ctx l.ctx).has cl)

/-- The places a draw of a launch needs: one, or those of a cluster group (R372). -/
def Desc.places (d : Desc) : Nat := if d.cgroup = 0 then 1 else d.cgroup

/-- The cluster queue with the most free places that a launch's next team goes to, ties to the lowest (R371, R372). -/
def State.clusterFor (s : State) (lid : Nat) : Option Nat :=
  let need := (s.launch lid).desc.places
  (List.range 128).foldl (fun best cl =>
    if !s.mayRun lid cl || decide (s.freePlaces cl < need) then best
    else match best with
      | none => some cl
      | some b => if s.freePlaces b < s.freePlaces cl then some cl else best) none

/-- A head is ready but for its queue (R368, R449): its context is not suspended. -/
def State.headReady (s : State) (lid : Nat) : Bool :=
  let l := s.launch lid
  !(s.ctx l.ctx).suspended && !l.desc.tensor && !s.drained lid && s.predsHinted lid && (!l.desc.pkgbar || l.reserved) && (s.clusterFor lid).isSome

/-- The ready queues of a context with their heads and tickets, in index order (R368). -/
def State.readyQueues (s : State) (c : Nat) : List (Nat × Nat × Nat) :=
  let x := s.ctx c
  if !x.valid || x.suspended then []
  else (x.heads.filter (fun p => s.queueOn c p.1 && s.headReady p.2)).map (fun p => (p.1, p.2, s.tickets c p.1))

/-- The next state of the lottery's generator (R369). -/
def xorshift (x : Word) : Word :=
  let x := x ^^^ (x <<< 13)
  let x := x ^^^ (x >>> 17)
  x ^^^ (x <<< 5)

/-- The queue whose tickets hold number r (R369). -/
def walkTickets : List (Nat × Nat × Nat) → Nat → Option Nat
  | [], _ => none
  | (_, lid, t) :: rest, r => if t = 0 then walkTickets rest r else if r < t then some lid else walkTickets rest (r - t)

/-- A draw among ready queues: the chosen head, and the generator's state after it (R369). -/
def drawFrom (x : Word) (qs : List (Nat × Nat × Nat)) : Option Nat × Word :=
  let t := (qs.map (fun q => q.2.2)).foldl (· + ·) 0
  if t = 0 then ((qs.head?).map (fun q => q.2.1), x)
  else
    let y := xorshift x
    (walkTickets qs (y.toNat % t), y)

/-! ## Placing teams (R369-R372, R414) -/

/-- Team i of a launch, as it is drawn. -/
def State.drawTeam (s : State) (lid i cl : Nat) : State :=
  let d := (s.launch lid).desc
  let (k, s) := s.fresh1
  let c := coordsOf d i
  { s with
    teams := sput k { lid := lid, index := i, x := c.1, y := c.2.1, z := c.2.2, place := .queued cl } s.teams
    clusterQ := sput cl (sget [] s.clusterQ cl ++ [k]) s.clusterQ }

/-- The next team of a launch, or the rest of its cluster group, goes into a cluster queue (R369, R372). -/
def State.queueNext (s : State) (lid cl : Nat) : State :=
  let l := s.launch lid
  let g := l.desc.places
  let stop := Nat.min l.total ((l.next / g + 1) * g)
  let s := forEach ((List.range (stop - l.next)).map (l.next + ·)) s (fun s i => s.drawTeam lid i cl)
  s.onLaunch lid (fun l => { l with next := stop })

/-- Teams that came back from a quiesced die, of a context or of the machine queue, oldest first (R414). -/
def State.returnedTeams (s : State) (mine : Launch → Bool) : List Nat :=
  (s.teams.filter (fun p => p.2.place == .returned && !p.2.done && mine (s.launch p.2.lid))).map (·.1)

/-- A returned team, with its cluster group, goes into a cluster queue again (R414, R372). -/
def State.requeue (s : State) (k : Nat) : State :=
  let lid := (s.team k).lid
  match s.clusterFor lid with
  | none => s
  | some cl =>
    let d := (s.launch lid).desc
    let ks := if d.cgroup = 0 then [k]
      else (s.teams.filter (fun p => p.2.lid == lid && p.2.place == .returned && p.2.index / d.cgroup == (s.team k).index / d.cgroup)).map (·.1)
    forEach ks s (fun s j => { s.onTeam j (fun t => { t with place := .queued cl }) with
      clusterQ := sput cl (sget [] s.clusterQ cl ++ [j]) s.clusterQ })

/-- The contexts that want a place of a cluster's queue now. -/
def State.rivals (s : State) (cl : Nat) : List Nat :=
  (s.ctxs.filter (fun p => p.2.valid && p.2.has cl && !(s.readyQueues p.1).isEmpty)).map (·.1)

/-- A context whose turn it is at a cluster: the next one in increasing id after the last that drew there (R370). -/
def State.turnAt (s : State) (cl : Nat) : Option Nat :=
  let rs := s.rivals cl
  match find? cl s.drawTurn with
  | none => rs.head?
  | some last => match rs.find? (fun c => decide (last < c)) with
    | some c => some c
    | none => rs.head?

/-- The machine queue's shader head takes places before any draw (R449). -/
def State.machineFirst (s : State) : Bool :=
  match s.machineHead with
  | some lid => s.headReady lid
  | none => false

/-- One draw of a context, or the placing of a team that came back (R369, R370, R414). -/
def State.draw (s : State) (c : Nat) : State :=
  let x := s.ctx c
  if !x.valid || x.suspended || s.machineFirst then s
  else match s.returnedTeams (fun l => l.ctx == c && l.queue != 64) with
  | k :: _ => s.requeue k
  | [] =>
    let qs := s.readyQueues c
    match drawFrom x.x qs with
    | (none, _) => s
    | (some lid, y) => match s.clusterFor lid with
      | none => s
      | some cl =>
        if s.turnAt cl != some c then s
        else
          let s := (s.onCtx c (fun x => { x with x := y })).queueNext lid cl
          { s with drawTurn := sput cl c s.drawTurn }.retire c (s.launch lid).queue

/-- LOTTERY_DRAW (R369): context `ctx` draws. -/
def execLotteryDraw (s : State) : Host.Outcome State Fault Refusal := .next (s.draw s.ev.ctx)

/-- MACHINE_QUEUE_PLACE (R449): the machine queue's head places a team, a returned one first. -/
def execMachineQueuePlace (s : State) : Host.Outcome State Fault Refusal :=
  match s.returnedTeams (fun l => l.queue == 64 && !(s.ctx l.ctx).suspended) with
  | k :: _ => .next (s.requeue k)
  | [] => match s.machineHead with
    | none => .next s
    | some lid =>
      if !s.headReady lid then .next s
      else match s.clusterFor lid with
        | none => .next s
        | some cl => .next (s.queueNext lid cl).machineTurn

/-- A launch is the head of its queue. -/
def State.isHead (s : State) (lid : Nat) : Bool :=
  let l := s.launch lid
  if l.queue = 64 then s.machineHead == some lid else find? l.queue (s.ctx l.ctx).heads == some lid

/-- What a reading of a context's Burrow ring does at the slices: TAIL, HEAD and RESV (R378, R390). -/
def State.readRing (s : State) (c : Nat) : State :=
  let b := (s.ctx c).burrow
  s.ctxReads c [(b, 8), (b + 0x80, 8), (b + 0x100, 4)]

/-- PKGBAR_RESERVE (R381): launch `lid` reserves slots of its context's Burrow ring. -/
def execPkgbarReserve (s : State) : Host.Outcome State Fault Refusal :=
  let lid := s.ev.lid
  let l := s.launch lid
  let x := s.ctx l.ctx
  if !l.desc.pkgbar || l.reserved || !s.isHead lid || s.drained lid then .next s
  else
    let f := s.readRing l.ctx
    match s.ctxNat l.ctx x.burrow 8, s.ctxNat l.ctx (x.burrow + 0x80) 8, s.ctxNat l.ctx (x.burrow + 0x100) 4 with
    | some tail, some head, some resv =>
      if 2 ^ x.bcap < resv + l.total + (tail - head) then .next f
      else match f.ctxWrite l.ctx (x.burrow + 0x100) (toBytes 4 (resv + l.total)) with
        | some s => .next (s.onLaunch lid (fun l => { l with reserved := true }))
        | none => .next f
    | _, _, _ => .next f

end Sys2Proof.Machine
end

