-- ==== Sys2Proof/Machine/Sched.lean ====
section
/-!
DEFINITION. Placement (15 R371-R375, R382-R386; 01 R34, R35; 16 R406): teams become resident, clusters steal, tensor launches are placed,
teams complete, quarantines end; step budgets, congestion levels and held completion records.
-/

namespace Sys2Proof.Machine

/-! ## Residence (R373, R385) -/

/-- The context of a team is suspended (R380). -/
def State.teamSuspended (s : State) (k : Nat) : Bool := (s.ctx (s.launch (s.team k).lid).ctx).suspended

/-- Free band slots of a core. -/
def State.freeSlotsOn (s : State) (u : Nat) : Nat := 64 - (s.bandsOn u).length

/-- The core of a cluster, outside a list, that takes n bands of some registers and an allocation: the one with the most free bands,
ties to the lowest position (R373). -/
def State.pickCore (s : State) (cl n regs alloc : Nat) (not_ : List Nat) : Option Nat :=
  ((List.range 8).map (8 * cl + ·)).foldl (fun best u =>
    if not_.contains u || !s.coreRoom u n regs alloc then best
    else match best with
      | none => some u
      | some b => if s.freeSlotsOn b < s.freeSlotsOn u then some u else best) none

/-- The core that a team of a launch would start on. -/
def State.coreFor (s : State) (cl lid : Nat) (not_ : List Nat) : Option Nat :=
  let d := (s.launch lid).desc
  s.pickCore cl d.bands d.regs d.scratch not_

/-- Different cores for teams of one launch, one each (R372). -/
def State.coresFor (s : State) (cl lid : Nat) : Nat → List Nat → Option (List Nat)
  | 0, us => some us
  | n + 1, us => match s.coreFor cl lid us with
    | some u => s.coresFor cl lid n (us ++ [u])
    | none => none

/-- The cluster whose record store or context's ring holds a team's leg record. -/
def Team.home (t : Team) : Option Nat :=
  match t.place with
  | .stored cl => some cl
  | .ring _ cl => some cl
  | _ => none

/-- A woken team of the cluster waits for a core (R373). -/
def State.wokenWaits (s : State) (cl : Nat) : Bool :=
  s.teams.any (fun p => p.2.woken && !p.2.done && p.2.home == some cl && !(s.ctx (s.launch p.2.lid).ctx).suspended)

/-- The oldest team of a cluster queue, with the members of its cluster group queued there. -/
def State.headGroup (s : State) (cl : Nat) : List Nat :=
  match sget [] s.clusterQ cl with
  | [] => []
  | k :: ks =>
    let g := (s.launch (s.team k).lid).desc.cgroup
    if g = 0 then [k]
    else k :: ks.filter (fun j => (s.team j).lid == (s.team k).lid && (s.team j).index / g == (s.team k).index / g)

/-- What a cluster can make resident now: its oldest queued team, or group, and their cores (R373, R385). -/
def State.nextStart (s : State) (cl : Nat) : Option (List Nat × List Nat) :=
  match s.headGroup cl with
  | [] => none
  | k :: ks =>
    if s.throttled cl || s.wokenWaits cl || s.teamSuspended k || !s.clusterOpen cl then none
    else (s.coresFor cl (s.team k).lid (ks.length + 1) []).map (fun us => (k :: ks, us))

/-- TEAM_RESIDENT (R373): cluster `cl` makes its oldest queued team, or group, resident. -/
def execTeamResident (s : State) : Host.Outcome State Fault Refusal :=
  let cl := s.ev.cl
  match s.nextStart cl with
  | none => .next s
  | some (ks, us) =>
    let s := { s with clusterQ := sset [] s.clusterQ cl ((sget [] s.clusterQ cl).filter (fun j => !ks.contains j)) }
    let now := s.clock
    .next (forEach (ks.zip us) { s with lastStart := sput cl now s.lastStart } (fun s p => s.startTeam p.1 p.2))

/-! ## Stealing (R374) -/

/-- The mesh neighbours of a cluster on its die. -/
def neighbours (cl : Nat) : List Nat :=
  let c := cl % 32
  ((if c % 8 = 0 then [] else [c - 1]) ++ (if c % 8 = 7 then [] else [c + 1]) ++
   (if c < 8 then [] else [c - 8]) ++ (if c < 24 then [c + 8] else [])).map (cl / 32 * 32 + ·)

/-- The neighbour with the longest queue, ties to the lowest cluster; none where all are empty. -/
def State.longest (s : State) (cl : Nat) : Option Nat :=
  (neighbours cl).foldl (fun best n =>
    let len := fun x => (sget [] s.clusterQ x).length
    if len n = 0 then best
    else match best with
      | none => some n
      | some b => if len b < len n ∨ (len n = len b ∧ n < b) then some n else best) none

/-- A team may be stolen by a cluster: no member of a group, its SHADERSET has the cluster, its context is not suspended. -/
def State.stealable (s : State) (k cl : Nat) : Bool :=
  let lid := (s.team k).lid
  (s.launch lid).desc.cgroup == 0 && s.mayRun lid cl && !s.teamSuspended k

/-- CLUSTER_STEAL (R374): cluster `cl` takes its longest neighbour's oldest team; nothing where the neighbour starts a team in the same clock:
it has started one, or it can start its oldest now. -/
def execClusterSteal (s : State) : Host.Outcome State Fault Refusal :=
  let cl := s.ev.cl
  let late := match find? cl s.lastSteal with | some t => decide (t + 64 ≤ s.clock) | none => true
  if !late || !(sget [] s.clusterQ cl).isEmpty || 128 ≤ cl then .next s
  else match s.longest cl with
    | none => .next s
    | some n => match sget [] s.clusterQ n with
      | [] => .next s
      | k :: rest =>
        if find? n s.lastStart == some s.clock || (s.nextStart n).isSome || !s.stealable k cl || (s.coreFor cl (s.team k).lid []).isNone then .next s
        else
          let now := s.clock
          .next ({ s with
            clusterQ := sput cl [k] (sset [] s.clusterQ n rest)
            lastSteal := sput cl now s.lastSteal }.onTeam k (fun t => { t with place := .queued cl }))

/-! ## Tensor launches (R375, R449) -/

/-- The tiles of a tensor launch's rectangle. -/
def Desc.tiles (d : Desc) : List Nat := (List.range d.teams).map d.tileOf

/-- A tensor head of the machine queue waits for some of a context's launch's tiles. -/
def State.machineWants (s : State) (lid : Nat) : Bool :=
  match s.machineHead with
  | some m => m != lid && (s.launch m).desc.tensor && (s.launch m).desc.tiles.any (fun u => (s.launch lid).desc.tiles.contains u)
  | none => false

/-- TENSOR_LAUNCH_PLACE (R375): launch `lid`, head of its queue, is placed whole on its rectangle. -/
def execTensorLaunchPlace (s : State) : Host.Outcome State Fault Refusal :=
  let lid := s.ev.lid
  let l := s.launch lid
  let x := s.ctx l.ctx
  let may := !x.suspended && (l.queue == 64 || (x.valid && s.queueOn l.ctx l.queue && !s.machineWants lid))
  if !l.desc.tensor || !s.isHead lid || s.drained lid || !may || !s.predsHinted lid ||
     !l.desc.tiles.all (fun u => s.tileFree u l.desc.scratch && (s.die (dieOf u)).st == .online) then .next s
  else
    let s := forEach (List.range l.total) s (fun s i =>
      let (k, s) := s.fresh1
      ({ s with teams := sput k { lid := lid, index := i, x := i } s.teams }).startTeam k (l.desc.tileOf i))
    let s := s.onLaunch lid (fun l => { l with next := l.total })
    .next (if l.queue = 64 then s.machineTurn else s.retire l.ctx l.queue)

/-! ## Completion (R35, R34, R382, R384) -/

/-- TEAM_COMPLETE (R382): team `team` completes once its threads have exited and its tokens are done. -/
def execTeamComplete (s : State) : Host.Outcome State Fault Refusal :=
  let k := s.ev.team
  .next (if s.isResident k && s.teamDone k then s.completeTeam k else s)

/-- QUARANTINE_END (R34): allocation `id` may be reused once nothing is in flight towards it. -/
def execQuarantineEnd (s : State) : Host.Outcome State Fault Refusal := .next (s.endQuarantine s.ev.id)

/-- Writes held completion records in order, as far as their pages take them (R384). -/
def State.writeHeld : List HeldRec → State → List HeldRec × State
  | [], s => ([], s)
  | r :: rest, s =>
    match s.ctxCells r.ctx r.va r.body, s.ctxCells r.ctx (r.va + 12) (toBytes 4 r.status) with
    | some a, some b => State.writeHeld rest (((s.ctxWalks r.ctx r.va 16).writeHome settWho a).writeHome settWho b)
    | _, _ => (r :: rest, s)

/-- HELD_COMPLETION_RECORD_WRITE (R384): the held records are written in order, or discarded. -/
def execHeldCompletionRecordWrite (s : State) : Host.Outcome State Fault Refusal :=
  if s.ev.discard then .next { s with heldRecs := [], complFault := false }
  else
    let r := State.writeHeld s.heldRecs s
    .next { r.2 with heldRecs := r.1, complFault := !r.1.isEmpty }

/-! ## The frame governor (R386) -/

/-- STEP_BUDGET_REWRITE (R386): the governor writes value `v` for launch `lid`, and Sett management sends it to the units of its teams
(R408). -/
def execStepBudgetRewrite (s : State) : Host.Outcome State Fault Refusal :=
  let now := s.clock
  let v : Word := s.ev.v.setWidth 32
  let s := s.onLaunch s.ev.lid (fun l => { l with budgets := (now, v) :: l.budgets })
  .next (forEach (distinct ((s.teams.filter (fun p => p.2.lid == s.ev.lid && s.isResident p.1)).map (fun p => s.unitOfTeam p.1))) s (fun s u =>
    s.sendPacket .mgt s.ev.lid settEnd u))

/-- The newest budget of a launch reaches a unit, once no packet of it is on its way there (R386, R408). -/
def State.budgetArrives (s : State) (u lid : Nat) : State :=
  if s.onWay .mgt lid u then s else
  let n := (s.launch lid).budgets.length
  s.onCore u (fun c => { c with budgets := sput lid n c.budgets })

/-! ## Congestion (R385, R406) -/

/-- A sub-channel sends its level to a cluster. -/
def State.sendLevel (s : State) (n ch cl : Nat) : State :=
  let l := s.chanLevel n ch
  let now := s.clock
  { s.onStack n (fun x => { x with chans := smod ch (fun c => { c with sent := sput cl (l, now) c.sent }) x.chans }) with
    levels := sput (4 * cl + l) ⟨l, now⟩ s.levels }

/-- CONGESTION_LEVEL_MESSAGE (R406): sub-channel `ch` of stack `stack` sends its level to cluster `cl`, which has a request queued
there, on a change or by the 1024th clock after its last message. -/
def execCongestionLevelMessage (s : State) : Host.Outcome State Fault Refusal :=
  let cl := s.ev.cl
  let n := s.ev.stack
  let ch := s.ev.ch
  .next (if (sget {} (s.stack n).chans ch).clusters.contains cl then s.sendLevel n ch cl else s)

/-- CONGESTION_LEVEL_EXPIRE (R385): the highest level of cluster `cl` was received 4096 clocks ago, and drops. -/
def execCongestionLevelExpire (s : State) : Host.Outcome State Fault Refusal :=
  let cl := s.ev.cl
  match find? (4 * cl + s.congestion cl) s.levels with
  | none => .next s
  | some l => .next (s.atClock (l.at_ + 4096) (fun s =>
      { s with levels := s.levels.filter (fun p => !(p.1 / 4 == cl && decide (p.2.at_ + 4096 ≤ s.clock))) }))

end Sys2Proof.Machine
end

