-- ==== Sys2Proof/Machine/Swap.lean ====
section
/-!
DEFINITION. Swapped teams (01 R31-R33; 13 R325; 15 R377-R380): swapping out to the record store or the Burrow ring, waking, Burrow faults and the
end of a context.
-/

namespace Sys2Proof.Machine

/-! ## When a team is swapped (R32) -/

/-- A live thread has waited long enough at its barrier: more than SWAPTH clocks; with SWAPTH 0 only LBAR counts, after 4096. -/
def swapDue (now limit : Nat) (t : Thread) : Bool :=
  match t.wait with
  | .barrier kind _ _ _ _ _ since =>
    if limit = 0 then kind == .launch && decide (since + 4096 < now) else decide (since + limit < now)
  | _ => false

/-- No carried register of a thread is empty (R31, R32), and no handle of it is pending (R214). -/
def swapClear (t : Thread) : Bool :=
  (match t.wait with
   | .barrier _ _ _ n _ _ _ => t.empty.all (fun p => n ≤ p.1)
   | _ => false) &&
  t.h.all (fun p => p.2.st != .pending)

/-- Nothing of a team is in flight: its accesses and results, its fetch-work requests and copies. -/
def State.swapQuiet (s : State) (k : Nat) : Bool :=
  let tids := s.teamTids k
  s.reqs.all (fun r => r.team != k) && s.lates.all (fun l => !tids.contains l.tid) &&
  (s.team k).bands.all (fun b => (s.band b).boxes.all (fun m => !m.pending) && (s.band b).cq.entries.isEmpty && (s.band b).fxis.all (·.posted))

/-- The team may be swapped out of its core (R32, R327). -/
def State.swappable (s : State) (k u : Nat) : Bool :=
  let live := (s.teamTids k).filter (fun t => !(s.thread t).exited)
  isShader u && !live.isEmpty && !s.teamHalted k && !(s.team k).stopping && s.saves.all (fun p => p.team != k) &&
  live.all (fun t => swapDue s.clock ((s.core u).swapLive.toNat % 2 ^ 32) (s.thread t) && (s.thread t).parked.isNone && swapClear (s.thread t)) &&
  (s.team k).bands.all (fun b => (s.band b).k.all (fun p => p.2.issued == p.2.done)) && s.swapQuiet k

/-! ## Where its record goes (R377-R379) -/

/-- A cluster's record store has a place and the bytes for a record (R377). -/
def State.storeRoom (s : State) (cl bytes : Nat) : Bool :=
  let mine := s.teams.filter (fun p => p.2.place == .stored cl)
  decide (mine.length < 64) && decide ((mine.map (fun p => (s.launch p.2.lid).desc.legBytes)).foldl (· + ·) bytes ≤ 2 ^ 23)

/-- What the bands of a team keep in a leg record. -/
def State.legOf (s : State) (k : Nat) : Leg :=
  { invat := s.invseq.toNat,
    bands := (s.team k).bands.map (fun b => { s.band b with bundle := [], boxes := [], cq := {}, fxis := [], halted := false, haltReq := false }),
    threads := (s.teamTids k).map (fun t => (32 * (s.band (bandOf t)).index + laneOf t, s.thread t)) }

/-- The team leaves its core for a place: its registers and its allocation are freed; the carried bytes go with it. -/
def State.swapTo (s : State) (k : Nat) (place : TeamPlace) : State :=
  let leg := s.legOf k
  let vas := (s.vasOf k ++ (s.team k).vas).eraseDups
  let t := s.team k
  let boxes := t.bands.flatMap (fun b => ((s.band b).boxes.filter (·.holds)).map (fun m => ((s.band b).index, m)))
  let s := forEach (s.teamTids k) s State.orphan
  (s.freeTeam k).onTeam k (fun x =>
    ({ x with scratch := t.scratch, poison := t.poison, place := place, leg := some leg, vas := vas, boxes := boxes, woken := false } : Team).zeroScratch)

/-- Every band and queue of a context is halted, or goes on (R380). -/
def State.haltContext (s : State) (c : Nat) (b : Bool) : State :=
  let mine := s.teams.filter (fun p => (s.launch p.2.lid).ctx == c && s.isResident p.1)
  let now := s.clock
  forEach mine s (fun s p =>
    let s := forEach p.2.bands s (fun s x => s.onBand x (fun y => { y with
      halted := b
      haltReq := false
      cq := { y.cq with halted := b } }))
    let u := s.unitOfTeam p.1
    let halt := fun (q : Queue) => { q with halted := b }
    let s := if isTile u then s.onTile u (fun t => { t with
        ctlHalted := b
        ctlHaltReq := false
        lastProgress := if b then t.lastProgress else now
        lq := halt t.lq
        aq := halt t.aq
        sq := halt t.sq
        mq := halt t.mq
        cq := halt t.cq }) else s
    s.noteHalt p.1)

/-- A Burrow fault (R380): the context is suspended and its roles are halted. -/
def State.burrowFaults (s : State) (c : Nat) : State :=
  ({ s.onCtx c (fun x => { x with suspended := true }) with burrowFault := distinct (s.burrowFault ++ [c]) }).haltContext c true

/-- The firmware has mapped the page: the context goes on (R380). -/
def State.resumeContext (s : State) (c : Nat) : State :=
  ({ s.onCtx c (fun x => { x with suspended := false }) with burrowFault := s.burrowFault.filter (· != c) }).haltContext c false

/-- Writes the chunks of a record at a virtual address; none where a page does not take them. -/
def State.writeLeg (s : State) (c va : Nat) : List (Nat × List Byte) → Option State
  | [] => some s
  | (off, bs) :: rest => match s.ctxWrite c (va + off) bs with
    | some s => s.writeLeg c va rest
    | none => none

/-- Poisoned elements of a record stay poisoned in the ring (R423). -/
def State.poisonLeg (s : State) (c va : Nat) (offs : List Nat) : State :=
  forEach offs s (fun s off => match s.ctxPa c (va + off) true with
    | some pa => s.setPoison .phys pa true
    | none => s)

/-- The team's record enters its context's Burrow ring (R379); none where an access finds no page, `inl` where the ring is full. -/
def State.enqueueLeg (s : State) (k : Nat) : Option (State ⊕ State) :=
  let l := s.launch (s.team k).lid
  let c := l.ctx
  let x := s.ctx c
  let cap := 2 ^ x.bcap
  match s.ctxNat c x.burrow 8, s.ctxNat c (x.burrow + 0x80) 8, s.ctxNat c (x.burrow + 0x100) 4 with
  | some tail, some head, some resv =>
    let s := s.readRing c
    if (if l.desc.pkgbar then cap else cap - resv) ≤ tail - head || x.rsize < l.desc.legBytes then some (.inl s)
    else
      let slot := tail % cap
      let va := x.burrow + 0x2000 + slot * x.rsize
      (s.ctxWrite c x.burrow (toBytes 8 (tail + 1))).bind (fun s1 =>
      (s1.ctxWrite c (x.burrow + 0x1000 + slot) (toBytes 1 1)).bind (fun s2 =>
      (s2.writeLeg c va (s.imageChunks k 3)).bind (fun s3 =>
      ((s3.poisonLeg c va (s.imagePoison k 3)).ctxWrite c (x.burrow + 0x1000 + slot) (toBytes 1 2)).map (fun s4 =>
        .inr (s4.swapTo k (.ring slot (clusterOf (s.unitOfTeam k))))))))
  | _, _, _ => none

/-- SWAP_OUT (R32): team `team` is swapped out to its cluster's record store, or else to the ring. -/
def execSwapOut (s : State) : Host.Outcome State Fault Refusal :=
  let k := s.ev.team
  let u := s.unitOfTeam k
  let cl := clusterOf u
  if !s.isResident k || !s.swappable k u then .next s
  else if s.storeRoom cl (s.launch (s.team k).lid).desc.legBytes then .next (s.swapTo k (.stored cl))
  else match s.enqueueLeg k with
    | some (.inl s) => .next s
    | some (.inr s) => .next s
    | none => .next (s.burrowFaults (s.launch (s.team k).lid).ctx)

/-! ## Waking (R33, R377, R379) -/

/-- A handle comes back from a leg record as from an image (R326). -/
def backHandle (stale : Bool) (root : Nat) (h : Handle) : Handle :=
  if stale && (h.st == .valid || h.st == .pending) then { h with st := .revoked, due := none, walk := none }
  else if h.st == .pending then { h with due := none, walk := some (3, root) } else h

/-- The team of a record store's place becomes resident on a core. -/
def State.wakeStored (s : State) (k u : Nat) (slots : List Nat) (g : Leg) : State :=
  let stale := s.staleFor g.invat
  let root := fun (b : Band) => (s.space (bitsOf b.pctx.toNat 31 16)).root
  let boxes := (s.team k).boxes
  let bands := g.bands.map (fun b => { b with boxes := (boxes.filter (fun p => p.1 == b.index)).map (·.2), fpLive := b.fpmode })
  let thread := fun i l =>
    let t := (find? (32 * i + l) g.threads).getD {}
    let r := root (g.bands.getD i {})
    { t with h := t.h.map (fun p => (p.1, backHandle stale r p.2)) }
  let alloc := (s.launch (s.team k).lid).desc.scratch
  let s := s.install k u slots bands thread
  let s := (s.onTeam k (fun t => { t with boxes := [], alloc := alloc })).revokePending k u
  forEach (s.teamTids k) s State.resumeBarrier

/-- HEAD of a ring moves over every leading free slot (R379). -/
def State.advanceHead (s : State) (c burrow cap : Nat) : Nat → Nat → Nat → Nat
  | 0, head, _ => head
  | n + 1, head, tail =>
    if head < tail ∧ s.ctxNat c (burrow + 0x1000 + head % cap) 1 = some 0 then s.advanceHead c burrow cap n (head + 1) tail else head

/-- A record in the ring, read through the context's pages. -/
def State.ringReader (s : State) (c va : Nat) : Reader :=
  { bytes := fun off n => (s.ctxBytes c (va + off) n).getD (List.replicate n 0)
    bad := fun off => match s.ctxPa c (va + off) false with
      | some pa => s.readsPoison .phys [pa]
      | none => false }

/-- The team of a ring slot becomes resident on a core: state 3, the image, state 0, and HEAD moves on; none where a page is missing. -/
def State.wakeRing (s : State) (k u slot : Nat) (slots : List Nat) : Option State :=
  let l := s.launch (s.team k).lid
  let c := l.ctx
  let x := s.ctx c
  let va := x.burrow + 0x2000 + slot * x.rsize
  let st := x.burrow + 0x1000 + slot
  match s.ctxWrite c st (toBytes 1 3), s.ctxBytes c va l.desc.legBytes, s.ctxNat c x.burrow 8, s.ctxNat c (x.burrow + 0x80) 8 with
  | some s1, some _, some tail, some head =>
    let s1 := s1.ctxReads c [(va, l.desc.legBytes), (x.burrow, 8), (x.burrow + 0x80, 8)]
    (s1.ctxWrite c st (toBytes 1 0)).bind (fun s2 =>
      let h := s2.advanceHead c x.burrow (2 ^ x.bcap) (tail - head) head tail
      let s2 := s2.ctxReads c ((List.range (h - head + 1)).map (fun i => (x.burrow + 0x1000 + (head + i) % 2 ^ x.bcap, 1)))
      (if h = head then some s2 else s2.ctxWrite c (x.burrow + 0x80) (toBytes 8 h)).map (fun s3 =>
        s3.restoreShader k u 3 slots (s1.ringReader c va)))
  | _, _, _, _ => none

/-- A woken team comes back to its cluster once a core has room (R33, R373, R385); nothing wakes on a die in warm reset or in a
suspended context (R414, R380). -/
def State.wake (s : State) (k cl : Nat) : State :=
  let t := s.team k
  let d := (s.launch t.lid).desc
  if !t.woken || t.done || s.teamSuspended k || s.throttled cl || (s.die (cl / 32)).st != .online then s
  else match s.pickCore cl d.bands d.regs d.scratch [] with
    | none => s
    | some u => match s.slotsFor u d.bands, t.place, t.leg with
      | some sl, .stored _, some g => s.wakeStored k u sl g
      | some sl, .ring slot _, _ => match s.wakeRing k u slot sl with
        | some s => s
        | none => s.burrowFaults (s.launch t.lid).ctx
      | _, _, _ => s

/-- TEAM_WAKE (R33): swapped team `team`, whose wake condition holds, becomes resident on a core of its cluster. -/
def execTeamWake (s : State) : Host.Outcome State Fault Refusal :=
  match (s.team s.ev.team).home with
  | some cl => .next (s.wake s.ev.team cl)
  | none => .next s

/-! ## The end of a context (R380) -/

/-- A counter that is not finished records failed. -/
def Counter.fail (c : Counter) : Counter := if c.remaining = 0 then c else { c with status := 3 }

/-- A Burrow fault or a park-queue fault of a context stands (R317, R380). -/
def State.contextFaults (s : State) (c : Nat) : Bool :=
  s.burrowFault.contains c ||
  s.cores.any (fun p => p.2.notices.any (fun n => n.ctx == c && p.2.pkqFaults.contains n.bid))

/-- The firmware ends a context: every unfinished counter records failed, its teams end, and what waits for it is dropped. -/
def State.endContext (s : State) (c : Nat) : State :=
  let s := s.onCtx c (fun x => { x with valid := false, heads := [] })
  let s := { s with
    launches := s.launches.map (fun p => if p.2.ctx = c ∧ p.2.remaining ≠ 0 then (p.1, { p.2 with status := 3 }) else p)
    graphs := s.graphs.map (fun p => if p.1 / 65536 = c then (p.1, p.2.fail) else p)
    jobs := s.jobs.map (fun p => if p.1 / 65536 = c then (p.1, p.2.fail) else p)
    cores := s.cores.map (fun p =>
      let keep := p.2.notices.filter (fun n => n.ctx != c)
      (p.1, { p.2 with notices := keep, pkqFaults := p.2.pkqFaults.filter (fun b => keep.any (fun n => n.bid == b)) }))
    burrowFault := s.burrowFault.filter (· != c) }
  let s := forEach ((s.launches.filter (fun p => p.2.ctx == c)).map (·.1)) s State.discardUnplaced
  let mine := (s.teams.filter (fun p => !p.2.done && (s.launch p.2.lid).ctx == c)).map (·.1)
  let s := forEach mine s State.endTeam
  { s with clusterQ := (s.clusterQ.map (fun p => (p.1, p.2.filter (fun k => !mine.contains k)))).filter (fun p => !p.2.isEmpty) }

/-- CONTEXT_END (R380): the firmware ends context `ctx` after a Burrow or park-queue fault. -/
def execContextEnd (s : State) : Host.Outcome State Fault Refusal :=
  .next (if s.contextFaults s.ev.ctx then s.endContext s.ev.ctx else s)

end Sys2Proof.Machine
end

