-- ==== Sys2Proof/Machine/Firmware.lean ====
section
/-!
DEFINITION. What Sett firmware and the outside may set beside the rows of the opcode table (00, 14 R343, 15 R363, R449, 17 R412, R423, 19 R433-R441): the
machine's inputs, each an item of the agenda; and the regroup as an event.
-/

namespace Sys2Proof.Machine

/-- REGROUP (R13): sub-partition `sub` of shader core `u` regroups at the clock it is due, once its window is over. -/
def execRegroup (s : State) : Host.Outcome State Fault Refusal :=
  let u := s.ev.u
  let sub := s.ev.sub
  if s.boot.stage == .up && isShader u && sub < 4 && (s.window u sub).over s.clock then
    .next (s.atClock (s.slotDue u sub) (fun s => s.regroup u sub))
  else .next s

/-- A context entry is written; one that becomes valid starts its generator at SEED, 0 taken as 1 (R363, R369, R370). -/
def State.setCtx (s : State) (c : Nat) (new : Ctx) : State :=
  let old := s.ctx c
  let y : Ctx := if old.valid && new.valid then { new with x := old.x, heads := old.heads }
    else { new with x := if new.seed = 0 then 1 else new.seed, heads := [] }
  { s with ctxs := sput c y s.ctxs }

/-- A memory region entry is written; one of length 0 is removed (R433). -/
def State.setRegion (s : State) (r : MemRegion) : State :=
  let rest := s.regions.filter (fun x => x.key != r.key)
  if r.len = 0 || 4096 ≤ rest.length then { s with regions := rest } else { s with regions := rest ++ [r] }

/-- The fields of a window or export entry (R437, R438): a package id below 1024, bits 39:16 of a base, a size in units of 64 KiB. -/
def Window64.fields (e : Window64) : Window64 :=
  { e with pkg := if e.any then 0 else e.pkg % 1024, base := e.base % 2 ^ 40 / 65536 * 65536, size := e.size / 65536 % 2 ^ 24 * 65536 }

/-- The fields of an address-space entry (R343), cut to their bits; a count or capacity past its range takes the nearest value in it (log 70). -/
def ASpace.fields (a : ASpace) : ASpace :=
  { a with root := a.root % 2 ^ 48 / 4096 * 4096, blocks := a.blocks % 2 ^ 48, windows := a.windows % 2 ^ 64,
           regtab := a.regtab % 2 ^ 48 / 16 * 16, regcnt := Nat.min 65536 a.regcnt,
           shadow := a.shadow % 2 ^ 48 / 4096 * 4096, shadowCap := Nat.max 10 (Nat.min 24 a.shadowCap),
           migq := a.migq % 2 ^ 48 / 4096 * 4096, migqCap := Nat.min 6 a.migqCap }

/-- A window entry is written: it grants nothing and names one package (R437). -/
def State.setWindow (s : State) (w : Nat) (e : Window64) : State :=
  if 64 ≤ w then s else { s with windows := sput w { e.fields with pkg := e.pkg % 1024, r := false, w := false, any := false } s.windows }

/-- An export entry is written (R438). -/
def State.setExport (s : State) (i : Nat) (e : Window64) : State := if 64 ≤ i then s else { s with exports := sput i e.fields s.exports }

/-- A route is written: the package is unreachable where its set holds no working fibre (R439). -/
def State.setRoute (s : State) (pkg : Nat) (fibres : List Nat) : State :=
  let s := { s with routes := sput pkg fibres s.routes }
  let rest := s.unreachable.filter (· != pkg)
  { s with unreachable := if fibres.all (fun f => s.deadFibres.contains f) then rest ++ [pkg] else rest }

/-- Firmware writes a band's PKQB; its held notices go there (R317). -/
def State.setPkqb (s : State) (bid : Nat) (v : DWord) : State :=
  let v := v &&& BitVec.ofNat 64 0xFFFFFFFFFF00F
  (s.onBand bid (fun b => { b with pkqb := v })).onCore (unitOfBand bid) (fun c =>
    { c with notices := c.notices.map (fun n => if n.bid = bid then { n with pkqb := v } else n) })

/-- A management core starts at an address at level 2 (R309, R440). -/
def State.startMgmt (s : State) (n entry : Nat) (pctx : DWord) : State :=
  let u := 2048 + n % 4
  let bid := 64 * u
  let (k, s) := (s.orphan (32 * bid)).fresh1
  { s with
    dies := s.dies.map (fun (p : Nat × Die) => (p.1, { p.2 with
      resetting := p.2.resetting.map (fun x => if x.1 = 32 * bid then (deadTid x.1, x.2) else x)
      quiescing := if p.2.quiescing = some (32 * bid) then none else p.2.quiescing }))
    teams := sput k { place := .resident u, bands := [bid] } s.teams
    bands := sput bid { team := k, lanes := 1, m := [(0, 1)], pctx := pctx &&& 0xFFFFFFFF, bundle := [0] } s.bands
    threads := sput (32 * bid) { pc := BitVec.ofNat 64 entry, prv := 2 } s.threads }

/-- An input takes effect. -/
def State.input (s : State) (a : FwAction) : State :=
  match a with
  | .setCtx c x => s.setCtx c x
  | .setSpace a x => if isSpace a then { s with spaces := sput a x.fields s.spaces } else s
  | .setRegion r => s.setRegion r
  | .setWindow w e => s.setWindow w e
  | .setExport i e => s.setExport i e
  | .setRoute p fs => s.setRoute p fs
  | .setRefused ps => { s with refused := ps }
  | .setAllow xs => { s with boot := { s.boot with allow := xs } }
  | .setPkqb b v => s.setPkqb b v
  | .setPhys pa data => if isLocal pa && isLocal (pa + data.length - 1) then s.writeAt settWho .phys (cellsAt pa data) else s
  | .machineLaunch c w b => s.machineLaunch c w b
  | .startCore n e p => s.startMgmt n e p
  | .resumeCtx c => s.resumeContext c
  | .retrain d l => s.onDie d (fun x => { x with retrainsLeft := if x.retrainsLeft.contains l then x.retrainsLeft else x.retrainsLeft ++ [l] })
  | .setFlash a b base opt => { s with boot := { s.boot with flashA := a, flashB := b, baseImage := base, opticalImage := opt } }
  | .setFuses keys rev roll fuse rom =>
    { s with boot := { s.boot with keyHash := keys, revoked := rev, rollback := roll, fuseState := fuse, rom := rom } }
  | .poison pa => s.setPoison .phys pa true
  | .dieError cls st => s.dieError cls st
  | .badData x => s.badData x
  | .damage pa errs => if isLocal pa then s.hurtUnit pa errs else s

/-- A byte of an L1 is replaced, with the rest of its sector (R112). -/
def State.dropSector (s : State) (u addr : Nat) : State :=
  s.onCore u (fun c => { c with l1 := c.l1.filter (fun p => p.1 / 16 != addr / 16) })

/-- A translation leaves a TLB, or the port's cache as unit 2052 (R349, R435). -/
def State.dropTranslation (s : State) (u idx : Nat) : State :=
  if u = 2052 then { s with portTlb := s.portTlb.eraseIdx idx } else s.dropTlb u idx

/-- A packet crosses the next link of its way, where it may (R408-R412); a beat that has come to its end joins its channel. -/
def State.hopNext (s : State) (c : TClass) (ref dst : Nat) : State :=
  match s.packets.find? (fun p => p.cls == c && p.ref == ref && p.dst == dst) with
  | none => s
  | some p => if !s.mayHop p then s else if c == .brg then (s.hop p).beatsArrive else s.hop p

/-- The model's own items of the agenda. -/
def State.ownItem (s : State) : Item → State
  | .event _ _ => s
  | .issue _ _ => s
  | .elapse n => s.elapse n
  | .dropL1 u a => s.dropSector u a
  | .dropTlb u i => s.dropTranslation u i
  | .dropWalk d k => s.dropWalk d k
  | .walkRead t h => s.walkRead t h
  | .budgetArrive u l => s.budgetArrives u l
  | .saveDone i => s.saveDone i
  | .countWithdrawn => s.settleCounts
  | .hop c r d => s.hopNext c r d
  | .firmware a => s.input a

end Sys2Proof.Machine
end

