-- ==== Sys2Proof/Machine/Masks.lean ====
section
/-!
DEFINITION. Lane masks, votes and shuffles (01 R17-R23; 06 R199-R202).
-/

namespace Sys2Proof.Machine

/-- A thread is a live member of mask n of its band. -/
def State.isMember (s : State) (tid n : Nat) : Bool := (s.members (bandOf tid) n).contains (laneOf tid)

/-- Waits as WAITM (R20): at once past the word where the mask has no other live member. -/
def State.waitmask (s : State) (tid n : Nat) : State :=
  if (s.members (bandOf tid) n).all (· == laneOf tid) then s
  else s.waitHere tid (.waitm n ((s.band (bandOf tid)).gen n))

/-- A thread executes JOIN (R18): a live member arrives and waits, any other thread waits as under WAITM. -/
def State.join (s : State) (n tid : Nat) : State :=
  if s.isMember tid n then
    (s.onBand (bandOf tid) (fun b => b.setArr n (setLane (b.arr n) (laneOf tid) true))).waitHere tid (.join n)
  else s.waitmask tid n

/-- JOIN (R18, R199). -/
def execJoin (f : RFmt) (s : State) : Host.Outcome State Fault Refusal :=
  .next (perform (.join f) s noCheck (fun x tids => forEach tids x (fun y t => y.join f.a.toNat t)))

/-- LEAVE (R19): the thread's bit and its arrival are cleared; the next regroup evaluates the join (R22). -/
def leaveEff (n : Nat) (s : State) (tids : List Nat) : State :=
  s.onBand s.cur.bid (fun b => tids.foldl (fun b t =>
    (b.setMask n (setLane (b.mask n) (laneOf t) false)).setArr n (setLane (b.arr n) (laneOf t) false)) b)

/-- LEAVE (R19, R199). -/
def execLeave (f : RFmt) (s : State) : Host.Outcome State Fault Refusal :=
  .next (perform (.leave f) s noCheck (leaveEff f.a.toNat))

/-- WAITM (R20, R199). -/
def execWaitm (f : RFmt) (s : State) : Host.Outcome State Fault Refusal :=
  .next (perform (.waitm f) s noCheck (fun x tids => forEach tids x (fun y t => y.waitmask t f.a.toNat)))

/-- Writes mask d of the issuing band. -/
def writeMask (d : Nat) (g : State → List Nat → Word) (s : State) (tids : List Nat) : State :=
  let w := g s tids
  s.onBand s.cur.bid (fun b => b.setMask d w)

/-- MSET (R200). -/
def execMset (f : RFmt) (s : State) : Host.Outcome State Fault Refusal :=
  .next (perform (.mset f) s noCheck (writeMask f.d.toNat (fun x tids =>
    if f.fn == 0 then (x.band x.cur.bid).sreg f.a.toNat else (x.thread (lowest 0 tids)).reg f.a.toNat)))

/-- MOPS's operation on two masks (R200). -/
def maskOp (fn : BitVec 8) (a b : Word) : Word :=
  if fn == 0 then a &&& b else if fn == 1 then a ||| b else if fn == 2 then a ^^^ b
  else if fn == 3 then a &&& ~~~b else a

/-- MOPS (R200). -/
def execMops (f : RFmt) (s : State) : Host.Outcome State Fault Refusal :=
  .next (perform (.mops f) s noCheck (writeMask f.d.toNat (fun x _ =>
    maskOp f.fn (x.readMask x.cur f.a.toNat) (x.readMask x.cur f.b.toNat))))

/-- The lanes set in a mask word, rising. -/
def lanesOf (w : Word) : List Nat := (List.range 32).filter (hasLane w)

/-- MPOP (R200). -/
def execMpop (f : RFmt) (s : State) : Host.Outcome State Fault Refusal :=
  lanewise (.mpop f) s noCheck (fun x tid t =>
    let ls := lanesOf (x.readMask x.cur f.a.toNat)
    t.setReg f.d.toNat (BitVec.ofNat 32 (if f.fn == 0 then ls.length else (ls.filter (· < laneOf tid)).length)))

/-- MFFS (R200). -/
def execMffs (f : RFmt) (s : State) : Host.Outcome State Fault Refusal :=
  lanewise (.mffs f) s noCheck (fun x _ t =>
    let ls := lanesOf (x.readMask x.cur f.a.toNat)
    t.setReg f.d.toNat (BitVec.ofNat 32 ((if f.fn == 0 then ls.head? else ls.getLast?).getD 32)))

/-- POLL's result over the performing threads (R201). -/
def pollResult (fn : BitVec 8) (xs : List (Nat × Word)) : Nat :=
  let yes := xs.filter (fun p => p.2 != 0)
  if fn == 0 then yes.length
  else if fn == 1 then (if yes.length = xs.length then 1 else 0)
  else if fn == 2 then (if yes.isEmpty then 0 else 1)
  else if fn == 3 then (if xs.all (fun p => some p.2 == xs.head?.map (·.2)) then 1 else 0)
  else lowest 32 (yes.map (fun p => laneOf p.1))

/-- The values of a register over the performing threads. -/
def valuesOf (s : State) (tids : List Nat) (r : Nat) : List (Nat × Word) := tids.map (fun t => (t, (s.thread t).reg r))

/-- POLL (R201). -/
def execPoll (f : RFmt) (s : State) : Host.Outcome State Fault Refusal :=
  .next (perform (.poll f) s noCheck (fun x tids =>
    let w := BitVec.ofNat 32 (pollResult f.fn (valuesOf x tids f.a.toNat))
    eachThread (fun _ _ t => t.setReg f.d.toNat w) x tids))

/-- The word of LBITS (R201). -/
def lbitsWord (xs : List (Nat × Word)) : Word := maskOf ((xs.filter (fun p => p.2 != 0)).map (fun p => laneOf p.1))

/-- LBITS (R201). -/
def execLbits (f : RFmt) (s : State) : Host.Outcome State Fault Refusal :=
  .next (perform (.lbits f) s noCheck (fun x tids =>
    let w := lbitsWord (valuesOf x tids f.a.toNat)
    if f.fn == 0 then eachThread (fun _ _ t => t.setReg f.d.toNat w) x tids
    else writeMask f.d.toNat (fun _ _ => w) x tids))

/-- The source lane of XLANE (R202); none outside 0 to 31. -/
def sourceLane (f : RFmt) (l j : Nat) : Option Nat :=
  let q : Int :=
    if f.fn == 0 then (j % 32 : Nat)
    else if f.fn == 1 then (l : Int) + toSigned 32 j
    else if f.fn == 2 then
      let w := 2 ^ bitsOf f.mod.toNat 2 0
      (l / w * w + (l + j) % w : Nat)
    else (l ^^^ (j % 32) : Nat)
  if 0 ≤ q ∧ q < 32 then some q.toNat else none

/-- XLANE's result for a thread (R202): sources are read from the state before any destination is written. -/
def xlaneWord (f : RFmt) (s : State) (tids : List Nat) (tid : Nat) : Word :=
  let t := s.thread tid
  match sourceLane f (laneOf tid) (t.reg f.b.toNat).toNat with
  | some q =>
    let src := 32 * s.cur.bid + q
    if tids.contains src then (s.thread src).reg f.a.toNat else t.reg f.c.toNat
  | none => t.reg f.c.toNat

/-- XLANE (R202). -/
def execXlane (f : RFmt) (s : State) : Host.Outcome State Fault Refusal :=
  .next (perform (.xlane f) s noCheck (fun x tids =>
    eachThread (fun y tid t => t.setReg f.d.toNat (xlaneWord f y tids tid)) x tids))

end Sys2Proof.Machine
end

