-- ==== Sys2Proof/Machine/Dispatch.lean ====
section
/-!
DEFINITION. One arm per instruction, each one direct call of its meaning.
-/

namespace Sys2Proof.Machine

/-- What the machine does with an instruction or an event. -/
def exec (i : Instr) (s : State) : Host.Outcome State Fault Refusal :=
  match i with
  | .add f => Sys2Proof.Machine.execAdd f s
  | .addi f => Sys2Proof.Machine.execAddi f s
  | .sub f => Sys2Proof.Machine.execSub f s
  | .mul f => Sys2Proof.Machine.execMul f s
  | .mulh f => Sys2Proof.Machine.execMulh f s
  | .mad f => Sys2Proof.Machine.execMad f s
  | .min f => Sys2Proof.Machine.execMin f s
  | .max f => Sys2Proof.Machine.execMax f s
  | .absd f => Sys2Proof.Machine.execAbsd f s
  | .clamp f => Sys2Proof.Machine.execClamp f s
  | .and f => Sys2Proof.Machine.execAnd f s
  | .andi f => Sys2Proof.Machine.execAndi f s
  | .or f => Sys2Proof.Machine.execOr f s
  | .ori f => Sys2Proof.Machine.execOri f s
  | .xor f => Sys2Proof.Machine.execXor f s
  | .xori f => Sys2Proof.Machine.execXori f s
  | .not f => Sys2Proof.Machine.execNot f s
  | .shl f => Sys2Proof.Machine.execShl f s
  | .shli f => Sys2Proof.Machine.execShli f s
  | .shr f => Sys2Proof.Machine.execShr f s
  | .shri f => Sys2Proof.Machine.execShri f s
  | .sar f => Sys2Proof.Machine.execSar f s
  | .sari f => Sys2Proof.Machine.execSari f s
  | .rot f => Sys2Proof.Machine.execRot f s
  | .bfe f => Sys2Proof.Machine.execBfe f s
  | .bfi f => Sys2Proof.Machine.execBfi f s
  | .popc f => Sys2Proof.Machine.execPopc f s
  | .clz f => Sys2Proof.Machine.execClz f s
  | .brev f => Sys2Proof.Machine.execBrev f s
  | .sel f => Sys2Proof.Machine.execSel f s
  | .cmp f => Sys2Proof.Machine.execCmp f s
  | .cmpi f => Sys2Proof.Machine.execCmpi f s
  | .setc f => Sys2Proof.Machine.execSetc f s
  | .mov f => Sys2Proof.Machine.execMov f s
  | .movi f => Sys2Proof.Machine.execMovi f s
  | .movh f => Sys2Proof.Machine.execMovh f s
  | .lea f => Sys2Proof.Machine.execLea f s
  | .idiv f => Sys2Proof.Machine.execIdiv f s
  | .cvti f => Sys2Proof.Machine.execCvti f s
  | .bswz f => Sys2Proof.Machine.execBswz f s
  | .fadd f => Sys2Proof.Machine.execFadd f s
  | .fsub f => Sys2Proof.Machine.execFsub f s
  | .fmul f => Sys2Proof.Machine.execFmul f s
  | .ffma f => Sys2Proof.Machine.execFfma f s
  | .fmin f => Sys2Proof.Machine.execFmin f s
  | .fmax f => Sys2Proof.Machine.execFmax f s
  | .fcmp f => Sys2Proof.Machine.execFcmp f s
  | .fcvt f => Sys2Proof.Machine.execFcvt f s
  | .frnd f => Sys2Proof.Machine.execFrnd f s
  | .frcp f => Sys2Proof.Machine.execFrcp f s
  | .frsq f => Sys2Proof.Machine.execFrsq f s
  | .fsqrt f => Sys2Proof.Machine.execFsqrt f s
  | .fex2 f => Sys2Proof.Machine.execFex2 f s
  | .flg2 f => Sys2Proof.Machine.execFlg2 f s
  | .fsin f => Sys2Proof.Machine.execFsin f s
  | .fcos f => Sys2Proof.Machine.execFcos f s
  | .ftanh f => Sys2Proof.Machine.execFtanh f s
  | .fclass f => Sys2Proof.Machine.execFclass f s
  | .pkadd f => Sys2Proof.Machine.execPkadd f s
  | .pkmul f => Sys2Proof.Machine.execPkmul f s
  | .pkfma f => Sys2Proof.Machine.execPkfma f s
  | .pkmin f => Sys2Proof.Machine.execPkmin f s
  | .pkmax f => Sys2Proof.Machine.execPkmax f s
  | .idp4 f => Sys2Proof.Machine.execIdp4 f s
  | .fdp2 f => Sys2Proof.Machine.execFdp2 f s
  | .bra f => Sys2Proof.Machine.execBra f s
  | .brx f => Sys2Proof.Machine.execBrx f s
  | .call f => Sys2Proof.Machine.execCall f s
  | .callx f => Sys2Proof.Machine.execCallx f s
  | .ret f => Sys2Proof.Machine.execRet f s
  | .exit f => Sys2Proof.Machine.execExit f s
  | .join f => Sys2Proof.Machine.execJoin f s
  | .leave f => Sys2Proof.Machine.execLeave f s
  | .waitm f => Sys2Proof.Machine.execWaitm f s
  | .mset f => Sys2Proof.Machine.execMset f s
  | .mops f => Sys2Proof.Machine.execMops f s
  | .mpop f => Sys2Proof.Machine.execMpop f s
  | .mffs f => Sys2Proof.Machine.execMffs f s
  | .poll f => Sys2Proof.Machine.execPoll f s
  | .lbits f => Sys2Proof.Machine.execLbits f s
  | .xlane f => Sys2Proof.Machine.execXlane f s
  | .nop f => Sys2Proof.Machine.execNop f s
  | .trap f => Sys2Proof.Machine.execTrap f s
  | .bkpt f => Sys2Proof.Machine.execBkpt f s
  | .clk f => Sys2Proof.Machine.execClk f s
  | .sreg f => Sys2Proof.Machine.execSreg f s
  | .yield f => Sys2Proof.Machine.execYield f s
  | .sleep f => Sys2Proof.Machine.execSleep f s
  | .ldl f => Sys2Proof.Machine.execLdl f s
  | .stl f => Sys2Proof.Machine.execStl f s
  | .lds f => Sys2Proof.Machine.execLds f s
  | .sts f => Sys2Proof.Machine.execSts f s
  | .ldc f => Sys2Proof.Machine.execLdc f s
  | .stc f => Sys2Proof.Machine.execStc f s
  | .ldp f => Sys2Proof.Machine.execLdp f s
  | .stp f => Sys2Proof.Machine.execStp f s
  | .ldg f => Sys2Proof.Machine.execLdg f s
  | .stg f => Sys2Proof.Machine.execStg f s
  | .ldv f => Sys2Proof.Machine.execLdv f s
  | .vset f => Sys2Proof.Machine.execVset f s
  | .casv f => Sys2Proof.Machine.execCasv f s
  | .atom f => Sys2Proof.Machine.execAtom f s
  | .red f => Sys2Proof.Machine.execRed f s
  | .atoms f => Sys2Proof.Machine.execAtoms f s
  | .trn f => Sys2Proof.Machine.execTrn f s
  | .hrel f => Sys2Proof.Machine.execHrel f s
  | .hqry f => Sys2Proof.Machine.execHqry f s
  | .pref f => Sys2Proof.Machine.execPref f s
  | .fence f => Sys2Proof.Machine.execFence f s
  | .fxi f => Sys2Proof.Machine.execFxi f s
  | .fxw f => Sys2Proof.Machine.execFxw f s
  | .mcst f => Sys2Proof.Machine.execMcst f s
  | .bar f => Sys2Proof.Machine.execBar f s
  | .bara f => Sys2Proof.Machine.execBara f s
  | .barw f => Sys2Proof.Machine.execBarw f s
  | .cbar f => Sys2Proof.Machine.execCbar f s
  | .lbar f => Sys2Proof.Machine.execLbar f s
  | .fetchw f => Sys2Proof.Machine.execFetchw f s
  | .notify f => Sys2Proof.Machine.execNotify f s
  | .wpred f => Sys2Proof.Machine.execWpred f s
  | .twait f => Sys2Proof.Machine.execTwait f s
  | .cancel f => Sys2Proof.Machine.execCancel f s
  | .cntq f => Sys2Proof.Machine.execCntq f s
  | .evwait f => Sys2Proof.Machine.execEvwait f s
  | .evsig f => Sys2Proof.Machine.execEvsig f s
  | .gang f => Sys2Proof.Machine.execGang f s
  | .gmma f => Sys2Proof.Machine.execGmma f s
  | .gldf f => Sys2Proof.Machine.execGldf f s
  | .gstf f => Sys2Proof.Machine.execGstf f s
  | .cmprs f => Sys2Proof.Machine.execCmprs f s
  | .dcmprs f => Sys2Proof.Machine.execDcmprs f s
  | .rayb f => Sys2Proof.Machine.execRayb f s
  | .rayq f => Sys2Proof.Machine.execRayq f s
  | .rayn f => Sys2Proof.Machine.execRayn f s
  | .rayc f => Sys2Proof.Machine.execRayc f s
  | .bvhr f => Sys2Proof.Machine.execBvhr f s
  | .tqcfg f => Sys2Proof.Machine.execTqcfg f s
  | .tokr f => Sys2Proof.Machine.execTokr f s
  | .oclm f => Sys2Proof.Machine.execOclm f s
  | .orel f => Sys2Proof.Machine.execOrel f s
  | .old f => Sys2Proof.Machine.execOld f s
  | .mma f => Sys2Proof.Machine.execMma f s
  | .mmas f => Sys2Proof.Machine.execMmas f s
  | .mzero f => Sys2Proof.Machine.execMzero f s
  | .mdrn f => Sys2Proof.Machine.execMdrn f s
  | .mcfg f => Sys2Proof.Machine.execMcfg f s
  | .vld f => Sys2Proof.Machine.execVld f s
  | .vst f => Sys2Proof.Machine.execVst f s
  | .vadd f => Sys2Proof.Machine.execVadd f s
  | .vsub f => Sys2Proof.Machine.execVsub f s
  | .vmul f => Sys2Proof.Machine.execVmul f s
  | .vfma f => Sys2Proof.Machine.execVfma f s
  | .vmin f => Sys2Proof.Machine.execVmin f s
  | .vmax f => Sys2Proof.Machine.execVmax f s
  | .vexp f => Sys2Proof.Machine.execVexp f s
  | .vrcp f => Sys2Proof.Machine.execVrcp f s
  | .vrsq f => Sys2Proof.Machine.execVrsq f s
  | .vtanh f => Sys2Proof.Machine.execVtanh f s
  | .vcvt f => Sys2Proof.Machine.execVcvt f s
  | .vred f => Sys2Proof.Machine.execVred f s
  | .vbcst f => Sys2Proof.Machine.execVbcst f s
  | .vperm f => Sys2Proof.Machine.execVperm f s
  | .vsel f => Sys2Proof.Machine.execVsel f s
  | .vcmp f => Sys2Proof.Machine.execVcmp f s
  | .vmov f => Sys2Proof.Machine.execVmov f s
  | .vscl f => Sys2Proof.Machine.execVscl f s
  | .tcpy f => Sys2Proof.Machine.execTcpy f s
  | .tcst f => Sys2Proof.Machine.execTcst f s
  | .cpy f => Sys2Proof.Machine.execCpy f s
  | .cpym f => Sys2Proof.Machine.execCpym f s
  | .rngd f => Sys2Proof.Machine.execRngd f s
  | .rnga f => Sys2Proof.Machine.execRnga f s
  | .rngf f => Sys2Proof.Machine.execRngf f s
  | .brcv f => Sys2Proof.Machine.execBrcv f s
  | .tretRetry f => Sys2Proof.Machine.execTretRetry f s
  | .tretSkip f => Sys2Proof.Machine.execTretSkip f s
  | .tretKill f => Sys2Proof.Machine.execTretKill f s
  | .csrr f => Sys2Proof.Machine.execCsrr f s
  | .csrw f => Sys2Proof.Machine.execCsrw f s
  | .csrs f => Sys2Proof.Machine.execCsrs f s
  | .csrc f => Sys2Proof.Machine.execCsrc f s
  | .invq f => Sys2Proof.Machine.execInvq f s
  | .invw f => Sys2Proof.Machine.execInvw f s
  | .ctxs f => Sys2Proof.Machine.execCtxs f s
  | .ctxl f => Sys2Proof.Machine.execCtxl f s
  | .halt f => Sys2Proof.Machine.execHalt f s
  | .resm f => Sys2Proof.Machine.execResm f s
  | .prkrRetry f => Sys2Proof.Machine.execPrkrRetry f s
  | .prkrSkip f => Sys2Proof.Machine.execPrkrSkip f s
  | .prkrKill f => Sys2Proof.Machine.execPrkrKill f s
  | .svc f => Sys2Proof.Machine.execSvc f s
  | .psetPin f => Sys2Proof.Machine.execPsetPin f s
  | .psetPinb f => Sys2Proof.Machine.execPsetPinb f s
  | .psetUnpin f => Sys2Proof.Machine.execPsetUnpin f s
  | .psetUnpinb f => Sys2Proof.Machine.execPsetUnpinb f s
  | .drstQuiesce f => Sys2Proof.Machine.execDrstQuiesce f s
  | .drstFlush f => Sys2Proof.Machine.execDrstFlush f s
  | .drstCore f => Sys2Proof.Machine.execDrstCore f s
  | .drstAdmit f => Sys2Proof.Machine.execDrstAdmit f s
  | .drstEngine f => Sys2Proof.Machine.execDrstEngine f s
  | .stest f => Sys2Proof.Machine.execStest f s
  | .unassignedOpcode f => Sys2Proof.Machine.execUnassignedOpcode f s
  | .tstateWrite => Sys2Proof.Machine.execTstateWrite s
  | .regroup => Sys2Proof.Machine.execRegroup s
  | .callStackRefillReturn => Sys2Proof.Machine.execCallStackRefillReturn s
  | .parkNoticeWrite => Sys2Proof.Machine.execParkNoticeWrite s
  | .engineTrapEntry => Sys2Proof.Machine.execEngineTrapEntry s
  | .lateResultDelivery => Sys2Proof.Machine.execLateResultDelivery s
  | .storeAcknowledge => Sys2Proof.Machine.execStoreAcknowledge s
  | .memoryPointPerform => Sys2Proof.Machine.execMemoryPointPerform s
  | .evwaitReread => Sys2Proof.Machine.execEvwaitReread s
  | .swapOut => Sys2Proof.Machine.execSwapOut s
  | .teamWake => Sys2Proof.Machine.execTeamWake s
  | .quarantineEnd => Sys2Proof.Machine.execQuarantineEnd s
  | .teamComplete => Sys2Proof.Machine.execTeamComplete s
  | .launchSubmit => Sys2Proof.Machine.execLaunchSubmit s
  | .lotteryDraw => Sys2Proof.Machine.execLotteryDraw s
  | .machineQueuePlace => Sys2Proof.Machine.execMachineQueuePlace s
  | .pkgbarReserve => Sys2Proof.Machine.execPkgbarReserve s
  | .teamResident => Sys2Proof.Machine.execTeamResident s
  | .clusterSteal => Sys2Proof.Machine.execClusterSteal s
  | .tensorLaunchPlace => Sys2Proof.Machine.execTensorLaunchPlace s
  | .fetchwDelivery => Sys2Proof.Machine.execFetchwDelivery s
  | .wpredRelease => Sys2Proof.Machine.execWpredRelease s
  | .stepBudgetRewrite => Sys2Proof.Machine.execStepBudgetRewrite s
  | .congestionLevelMessage => Sys2Proof.Machine.execCongestionLevelMessage s
  | .congestionLevelExpire => Sys2Proof.Machine.execCongestionLevelExpire s
  | .engineEntryStart => Sys2Proof.Machine.execEngineEntryStart s
  | .engineEntryComplete => Sys2Proof.Machine.execEngineEntryComplete s
  | .engineFault => Sys2Proof.Machine.execEngineFault s
  | .mmaKstep => Sys2Proof.Machine.execMmaKstep s
  | .copyRowLand => Sys2Proof.Machine.execCopyRowLand s
  | .bvhRefitNode => Sys2Proof.Machine.execBvhRefitNode s
  | .bridgeBeatLand => Sys2Proof.Machine.execBridgeBeatLand s
  | .fxiPosted => Sys2Proof.Machine.execFxiPosted s
  | .tokenWaitRelease => Sys2Proof.Machine.execTokenWaitRelease s
  | .rngaRelease => Sys2Proof.Machine.execRngaRelease s
  | .fxwRelease => Sys2Proof.Machine.execFxwRelease s
  | .sleepExpire => Sys2Proof.Machine.execSleepExpire s
  | .gangTimeout => Sys2Proof.Machine.execGangTimeout s
  | .gmmaResultDelivery => Sys2Proof.Machine.execGmmaResultDelivery s
  | .tlbHitValid => Sys2Proof.Machine.execTlbHitValid s
  | .pageWalkEnd => Sys2Proof.Machine.execPageWalkEnd s
  | .invalidationBroadcast => Sys2Proof.Machine.execInvalidationBroadcast s
  | .invalidationReceive => Sys2Proof.Machine.execInvalidationReceive s
  | .invalidationAcknowledge => Sys2Proof.Machine.execInvalidationAcknowledge s
  | .invwReturn => Sys2Proof.Machine.execInvwReturn s
  | .ctxsLegSave => Sys2Proof.Machine.execCtxsLegSave s
  | .haltStopped => Sys2Proof.Machine.execHaltStopped s
  | .migrationRequest => Sys2Proof.Machine.execMigrationRequest s
  | .migrationLineCopy => Sys2Proof.Machine.execMigrationLineCopy s
  | .l2Fill => Sys2Proof.Machine.execL2Fill s
  | .l2Eviction => Sys2Proof.Machine.execL2Eviction s
  | .qosGrant => Sys2Proof.Machine.execQosGrant s
  | .layerTemperatureSample => Sys2Proof.Machine.execLayerTemperatureSample s
  | .bankRefresh => Sys2Proof.Machine.execBankRefresh s
  | .refreshAtLimit => Sys2Proof.Machine.execRefreshAtLimit s
  | .fallbackAgentPerform => Sys2Proof.Machine.execFallbackAgentPerform s
  | .linkFlitReplay => Sys2Proof.Machine.execLinkFlitReplay s
  | .linkRetrainStart => Sys2Proof.Machine.execLinkRetrainStart s
  | .linkRetrainEnd => Sys2Proof.Machine.execLinkRetrainEnd s
  | .fatalError => Sys2Proof.Machine.execFatalError s
  | .matrixEngineHang => Sys2Proof.Machine.execMatrixEngineHang s
  | .targetedSelfTest => Sys2Proof.Machine.execTargetedSelfTest s
  | .clockStretch => Sys2Proof.Machine.execClockStretch s
  | .coldReset => Sys2Proof.Machine.execColdReset s
  | .debugEnableChange => Sys2Proof.Machine.execDebugEnableChange s
  | .recoveryImageLoad => Sys2Proof.Machine.execRecoveryImageLoad s
  | .rdmaWrite => Sys2Proof.Machine.execRdmaWrite s
  | .rdmaWriteWithImmediate => Sys2Proof.Machine.execRdmaWriteWithImmediate s
  | .rdmaRead => Sys2Proof.Machine.execRdmaRead s
  | .rdmaSend => Sys2Proof.Machine.execRdmaSend s
  | .rdmaFetchAdd => Sys2Proof.Machine.execRdmaFetchAdd s
  | .rdmaCompareSwap => Sys2Proof.Machine.execRdmaCompareSwap s
  | .connectionManagement => Sys2Proof.Machine.execConnectionManagement s
  | .priorityFlowControl => Sys2Proof.Machine.execPriorityFlowControl s
  | .ecnMark => Sys2Proof.Machine.execEcnMark s
  | .managementMessage => Sys2Proof.Machine.execManagementMessage s
  | .hostTimeMessage => Sys2Proof.Machine.execHostTimeMessage s
  | .fabricRequest => Sys2Proof.Machine.execFabricRequest s
  | .opticalFlitReplay => Sys2Proof.Machine.execOpticalFlitReplay s
  | .fibreFailure => Sys2Proof.Machine.execFibreFailure s
  | .getVersion => Sys2Proof.Machine.execGetVersion s
  | .getCapabilities => Sys2Proof.Machine.execGetCapabilities s
  | .negotiateAlgorithms => Sys2Proof.Machine.execNegotiateAlgorithms s
  | .getDigests => Sys2Proof.Machine.execGetDigests s
  | .getCertificate => Sys2Proof.Machine.execGetCertificate s
  | .challenge => Sys2Proof.Machine.execChallenge s
  | .getMeasurements => Sys2Proof.Machine.execGetMeasurements s
  | .keyExchange => Sys2Proof.Machine.execKeyExchange s
  | .finish => Sys2Proof.Machine.execFinish s
  | .endSession => Sys2Proof.Machine.execEndSession s
  | .unsupportedRequest => Sys2Proof.Machine.execUnsupportedRequest s
  | .writePosted => Sys2Proof.Machine.execWritePosted s
  | .supplySagEnd => Sys2Proof.Machine.execSupplySagEnd s
  | .contextEnd => Sys2Proof.Machine.execContextEnd s
  | .heldCompletionRecordWrite => Sys2Proof.Machine.execHeldCompletionRecordWrite s

end Sys2Proof.Machine
end

