-- ==== Sys2Proof/Machine/Step.lean ====
section
/-!
DEFINITION. One step of the package: the next item of the agenda, or the next issue slot of the unit in focus; and
the placing of a word where the next step fetches it.
-/

namespace Sys2Proof.Machine

/-- Runs a word that a bundle has fetched: the instruction it decodes to, or an illegal word (R159). -/
def runWord (s : State) : Host.Outcome State Fault Refusal :=
  match decode s.cur.word with
  | .ok i => exec i s
  | .error _ => exec (.unassignedOpcode s.cur.word) s

/-- The bundle of a band issues the word at its pc (R14): the fetch comes first (check 1; log 84), then the word for the members that are
still ready. Members with a due engine fault take it in place of the word (R316). -/
def issueBand (s : State) (u bid : Nat) : Host.Outcome State Fault Refusal :=
  let b := s.band bid
  let lanes := b.bundle.filter (fun l => (s.thread (32 * bid + l)).free)
  let due := lanes.filter (fun l => s.mustTake (32 * bid + l))
  let s := forEach due s (fun s l => s.takeEngineFault (32 * bid + l) false)
  match lanes.filter (fun l => !due.contains l) with
  | [] => .next (s.keepAmong bid due)
  | l :: rest =>
    let pc := (s.thread (32 * bid + l)).pc
    let asid := s.asidOf (32 * bid + l)
    let mine := (l :: rest).filter (fun l => (s.thread (32 * bid + l)).pc == pc)
    let s := { s.fetchFill u asid pc.toNat with cur := ⟨u, bid, mine, pc, 0, due⟩ }
    if s.fetchLost u asid pc.toNat then .next (s.stopAll 0x0F pc)
    else if s.fetchPoisoned u asid pc.toNat then .next (s.stopAll 0x10 pc)
    else match s.fetch u asid pc.toNat with
    | none => .next (s.stopAll 0x08 pc)
    | some w =>
      match mine.filter (fun l => !s.fetchedWaits w (32 * bid + l)) with
      | [] => .next (s.keepAmong bid due)
      | ready => runWord { s with cur := ⟨u, bid, ready, pc, w, due⟩ }

/-- One issue slot of a unit: a window slot or, once the window is over, a regroup of a shader sub-partition (R13, R14); the next
instruction of a control thread or management core. It waits for its clock. -/
def issueAt (s : State) (u sub : Nat) : Host.Outcome State Fault Refusal :=
  let w := s.window u sub
  let due := s.slotDue u sub
  let s := if due ≤ s.clock then s else s.advanceTo due
  if s.clock < due then .next s
  else if isShader u then
    if w.over s.clock then .next (s.regroup u sub)
    else
      match w.picked[w.slot s.clock % w.picked.length]? with
      | some bid => issueBand (s.takeSlot u sub) u bid
      | none => .next (s.takeSlot u sub)
  else
    let s := s.onWindow u sub (fun w => { w with at_ := s.clock + 1 })
    let bid := 64 * u
    if (s.tile u).ctlHaltReq || (s.tile u).ctlHalted || (s.team (s.band bid).team).stopping then .next s
    else issueBand (s.onBand bid (fun b => { b with bundle := [0] })) u bid

/-- Runs one item of the agenda; before the package is up few of them act (R440, R441). -/
def runItem (s : State) : Item → Host.Outcome State Fault Refusal
  | .event i e =>
    if (msOf i).isSome then .fault .notAnEvent
    else if s.boot.stage != .up && !actsInReset i then .next s
    else exec i { s with ev := e }
  | .issue u sub => if s.boot.stage == .up then issueAt s u sub else .next s
  | x => .next (if s.boot.stage != .up && !itemInReset x then s else s.ownItem x)

/-- A refresh of a bank that is at its limit (R404). -/
def State.refreshOverdue (s : State) : Option (Nat × Nat) :=
  ((List.range 8).flatMap (fun n => (List.range 48).map (fun b => (n, b)))).find? (fun p => s.atLimit p.1 p.2)

/-- A level message that is due: stack, sub-channel and cluster (R406). -/
def State.levelOverdue (s : State) : Option (Nat × Nat × Nat) :=
  (s.hbm.flatMap (fun p => p.2.chans.flatMap (fun c => c.2.clusters.map (fun cl => (p.1, c.1, cl))))).find?
    (fun x => decide (s.levelDue x.1 x.2.1 x.2.2 ≤ s.clock))

/-- A retrain that has lasted as long as it may: die and link (R412). -/
def State.retrainOverdue (s : State) : Option (Nat × Nat) :=
  s.dies.findSome? (fun p => (p.2.retrainBy.find? (fun r => decide (r.2 ≤ s.clock))).map (fun r => (p.1, r.1)))

/-- A band whose wait at the gang latch ends (R260). -/
def State.gangOverdue (s : State) : Option Nat :=
  (skeys s.bands).find? (fun b => match s.gangDue b with | some t => decide (t ≤ s.clock) | none => false)

/-- A tile whose matrix engine is to be reported hung (R421). -/
def State.hangOverdue (s : State) : Option Nat :=
  (skeys s.tiles).find? (fun u => match s.hangDue u with | some t => decide (t ≤ s.clock) | none => false)

/-- Runs what the clock may not pass any longer, where something is: the end of a wait at the gang latch, a report of a hung matrix engine, a
refresh, a level message, the end of a retrain, a targeted self-test whose outcome is the silicon's (log 18), or another sub-partition's
slot; else the unit in focus, which waits for its own slot. -/
def runOverdue (s : State) : Host.Outcome State Fault Refusal :=
  match s.gangOverdue with
  | some b => exec .gangTimeout { s with ev := { bid := b } }
  | none => match s.hangOverdue with
  | some u => exec .matrixEngineHang { s with ev := { u := u } }
  | none => match s.refreshOverdue with
  | some (n, b) => exec (if 8 ≤ sget 0 (s.stack n).postponed b then .refreshAtLimit else .bankRefresh) { s with ev := { stack := n, bank := b } }
  | none => match s.levelOverdue with
    | some (n, ch, cl) => exec .congestionLevelMessage { s with ev := { stack := n, ch := ch, cl := cl } }
    | none => match s.retrainOverdue with
      | some (d, l) => exec .linkRetrainEnd { s with ev := { die := d, link := l } }
      | none => match s.tests.find? (fun t => decide (t.2 ≤ s.clock)) with
        | some t => exec .targetedSelfTest { s with free := s.free + 1, ev := { struct := t.1, pass := Config.selfTest s.free } }
        | none => match s.busySubs.find? (fun k => decide (s.slotDue (k / 4) (k % 4) ≤ s.clock)) with
          | some k => issueAt s (k / 4) (k % 4)
          | none => issueAt s s.focus.1 s.focus.2

/-- The unit in focus has a slot now. -/
def State.focusDue (s : State) : Bool := decide (s.slotDue s.focus.1 s.focus.2 ≤ s.clock)

/-- One step: the first item of the agenda; with an empty agenda, the issue slot of the unit in focus that is due, else what else is due, or a
clock that passes while the boot chain has not finished. -/
def step (s : State) : Host.Outcome State Fault Refusal :=
  match s.agenda with
  | item :: rest => runItem { s with agenda := rest } item
  | [] =>
    if s.boot.stage != .up then .next { s with clock := s.clock + 1 }
    else if s.focusDue then issueAt s s.focus.1 s.focus.2
    else runOverdue s

/-! ## Placing a word where the next step fetches it -/

/-- The unit that runs a word placed by `withFetchWord`: a tile for class T, management core 0 for DRST and STEST, shader
core 0.0.0 otherwise. -/
def placeUnit (w : DWord) : Nat :=
  let i := ofWord w
  if classOf i == some .t then 1024 else if levelOf i = 2 then 2048 else 0

/-- The page tables of the placed program: four tables in stack 0 that map the code page at 0x400000 (R345). -/
def placedTables : List (Nat × Byte) :=
  cellsAt 0x1000 (toBytes 8 0x2001) ++ cellsAt 0x2000 (toBytes 8 0x3001) ++ cellsAt 0x3000 (toBytes 8 0x4001) ++
  cellsAt 0x4200 (toBytes 8 0x10097)

/-- The state with an instruction stored where the next step fetches it: the machine is up, one team of one thread of a
launch in context 1 is resident on the unit that the word's class runs on, its page tables map the code page, and its
bundle issues next (log 10). -/
def State.withFetchWord (s : State) (nbits w : Nat) : State :=
  let word := BitVec.ofNat 64 (w % 2 ^ nbits)
  let u := placeUnit word
  let bid := 64 * u
  let lid := 2 ^ 32
  let level := levelOf (ofWord word)
  { s with
    agenda := []
    focus := (u, 0)
    boot := { s.boot with stage := .up }
    mem := Memory.writeAll s.mem (placedTables ++ cellsAt 0x10000 (toBytes 8 (w % 2 ^ nbits)))
    granules := serase 1 s.granules
    spaces := sput 1 { root := 0x1000, valid := true, blocks := 1 } s.spaces
    ctxs := sput 1 { asid := 1, valid := true } s.ctxs
    launches := sput lid
      { ctx := 1, desc := { entry := 0x400000, tensor := isTile u, priv := level != 0, regs := 64, bands := 1, last := 1,
                            gx := 1, gy := 1, gz := 1, gcount := 1, jcount := 1 },
        remaining := 1, next := 1, total := 1 } s.launches
    teams := sput 1 { lid := lid, place := .resident u, bands := [bid], aid := 1 } s.teams
    bands := sput bid { team := 1, lanes := 1, nregs := 64, m := [(0, 1)], pctx := 0x10001, bundle := [0] } s.bands
    threads := sput (32 * bid) { pc := 0x400000, prv := level } s.threads
    tiles := serase u s.tiles
    cores := sput u { subs := [(0, { picked := [bid], next := 0, start := s.clock, at_ := s.clock })] } s.cores }

end Sys2Proof.Machine
end

