-- ==== Sys2Proof/Safety.lean ====
section
/-!
DEFINITION. The terms claims use: a bundle that issues a word and the lanes of it that perform, what a word changes
beside its bundle, the forms that states keep, and what a safe run is.
-/

namespace Sys2Proof.Machine

/-! ## A word that issues -/

/-- The thread of a lane of the bundle that issues (R9). -/
def State.here (s : State) (l : Nat) : Nat := 32 * s.cur.bid + l

/-- The lane mask of a word selects a lane (R16). -/
def selected (i : Instr) (s : State) (l : Nat) : Bool := performs s ((msOf i).getD 13) l

/-- The bundle that issues is one of the machine's: its unit and band fit, its lanes are distinct threads that exist,
and the word's mask select is legal on the unit (check 2 of R159). -/
structure Issuing (i : Instr) (s : State) : Prop where
  unit : s.cur.u = unitOfBand s.cur.bid
  band : (find? s.cur.bid s.bands).isSome = true
  nodup : s.cur.lanes.Nodup
  lanes : ∀ l ∈ s.cur.lanes, l < 32 ∧ (find? (s.here l) s.threads).isSome = true
  select : ∃ ms, msOf i = some ms ∧ maskSelectOk ms s.cur.u = true

/-- Every lane that the word's mask selects passes the checks of R159, those of the word's own entry last. -/
def AllPass (i : Instr) (s : State) (own : State → Nat → Check) : Prop :=
  ∀ l ∈ s.cur.lanes, selected i s l = true → verdict i s own l = .pass

/-- The threads that perform the word, in lane order of the bundle. -/
def performers (i : Instr) (s : State) : List Nat := (s.cur.lanes.filter (selected i s)).map s.here

/-- The state in which a word's effect takes place when every selected lane passes: all the bundle's pcs lie past the word. -/
def State.moved (i : Instr) (s : State) : State :=
  forEach (s.cur.lanes.filter (fun l => !selected i s l) ++ s.cur.lanes.filter (selected i s)) s
    (fun x l => x.onThread (s.here l) Thread.advance)

/-- Of some lanes of a band, its bundle keeps those that go on and stand at the most common next program counter, the lowest of those that
are equally common (R14). -/
def Bundled (t : State) (bid : Nat) (lanes : List Nat) : Prop :=
  let on := lanes.filter (fun l => (t.thread (32 * bid + l)).free)
  let pcs := on.map (fun l => (t.thread (32 * bid + l)).pc.toNat)
  ∃ x, (t.band bid).bundle = on.filter (fun l => (t.thread (32 * bid + l)).pc.toNat == x) ∧
    ∀ y ∈ pcs, pcs.count y < pcs.count x ∨ (pcs.count y = pcs.count x ∧ x ≤ y)

/-- The only records that differ are those of the bundle's threads, and the bundle that its band keeps for the window: of the lanes that
issued the word, and of those that took an engine fault in its place. -/
structure OnlyBundle (s t : State) : Prop where
  threads : ∀ tid, (∀ l ∈ s.cur.lanes, tid ≠ s.here l) → t.thread tid = s.thread tid
  bands : ∀ b, b ≠ s.cur.bid → t.band b = s.band b
  band : ({ t.band s.cur.bid with bundle := (s.band s.cur.bid).bundle } : Band) = s.band s.cur.bid
  split : Bundled t s.cur.bid (s.cur.lanes ++ s.cur.trapped)
  rest : ({ t with threads := s.threads, bands := s.bands } : State) = s

/-- A word whose performing lanes each compute from their own record completes: each of them changes as `g` says with its
pc past the word, the other lanes of the bundle only move past the word, and nothing else changes. -/
def Completes (i : Instr) (s : State) (g : Nat → Thread → Thread) : Prop :=
  ∃ t, exec i s = .next t ∧ OnlyBundle s t ∧
    ∀ l ∈ s.cur.lanes, t.thread (s.here l) =
      if selected i s l then g (s.here l) (s.thread (s.here l)).advance else (s.thread (s.here l)).advance

/-! ## Operands and results in the spec's own terms (05 R150, R151, 06 R174) -/

/-- Val of an operand of an integer type of 32 or 64 bits: TY 2 and 3 unsigned, 6 and 7 signed. -/
def operand (ty : BitVec 4) (t : Thread) (r : BitVec 6) : Int :=
  if ty = 2 then ((t.reg r.toNat).toNat : Int) else if ty = 3 then ((t.reg64 r.toNat).toNat : Int)
  else if ty = 6 then (t.reg r.toNat).toInt else (t.reg64 r.toNat).toInt

/-- Dest(D) takes the low 32 or 64 bits of an exact integer. -/
def deposit (ty : BitVec 4) (d : BitVec 6) (x : Int) (t : Thread) : Thread :=
  if ty = 3 ∨ ty = 7 then t.setReg64 d.toNat (BitVec.ofInt 64 x) else t.setReg d.toNat (BitVec.ofInt 32 x)

/-- The range of an integer type of 32 or 64 bits, and the clamp to it (R82). -/
def saturated (ty : BitVec 4) (x : Int) : Int :=
  if ty = 2 then max (min x (2 ^ 32 - 1)) 0 else if ty = 3 then max (min x (2 ^ 64 - 1)) 0
  else if ty = 6 then max (min x (2 ^ 31 - 1)) (-2 ^ 31) else max (min x (2 ^ 63 - 1)) (-2 ^ 63)

/-- Dest(D) takes a function of the raw bits of its sources, at 32 or 64 bits. -/
def bitwise (ty : BitVec 4) (d : BitVec 6) (f : Thread → Word) (g : Thread → DWord) (t : Thread) : Thread :=
  if ty = 3 ∨ ty = 7 then t.setReg64 d.toNat (g t) else t.setReg d.toNat (f t)

/-- The ones among the low n bits. -/
def onesOf : Nat → Nat → Nat
  | 0, _ => 0
  | n + 1, x => onesOf n x + (if x.testBit n then 1 else 0)

/-- The zeros above the highest one of n bits. -/
def zerosAbove : Nat → Nat → Nat
  | 0, _ => 0
  | n + 1, x => if x.testBit n then 0 else zerosAbove n x + 1

/-- Every word of a family whose lanes compute from their own records completes with a result. -/
def Family (mk : RFmt → Instr) (g : RFmt → State → Nat → Thread → Thread) : Prop :=
  ∀ (f : RFmt) (s : State), Issuing (mk f) s → AllPass (mk f) s noCheck → Completes (mk f) s (g f s)

/-- See Family, for the I-format forms. -/
def FamilyI (mk : IFmt → Instr) (g : IFmt → State → Nat → Thread → Thread) : Prop :=
  ∀ (f : IFmt) (s : State), Issuing (mk f) s → AllPass (mk f) s noCheck → Completes (mk f) s (g f s)

/-- A word of R177: the exact x, saturated with SAT, reduced to Dest(D). -/
def exactWord (x : Int → Int → Int → Int → Int) (f : RFmt) (_ : State) (_ : Nat) (t : Thread) : Thread :=
  let n : Int := if width f.ty = 2 then 64 else 32
  let v := x n (operand f.ty t f.a) (operand f.ty t f.b) (operand f.ty t f.c)
  deposit f.ty f.d (if f.sat = 1 then saturated f.ty v else v) t

/-- A word of R178 at 32 or 64 bits (FN 0, 1) on the sign-extended immediate. -/
def immWord (g : Word → Word → Word) (h : DWord → DWord → DWord) (f : IFmt) (_ : State) (_ : Nat) (t : Thread) : Thread :=
  if f.fn = 1 then t.setReg64 f.d.toNat (h (t.reg64 f.a.toNat) (f.imm.signExtend 64))
  else t.setReg f.d.toNat (g (t.reg f.a.toNat) (f.imm.signExtend 32))

/-- A word on two sources of its width. -/
def rawWord (g : Word → Word → Word) (h : DWord → DWord → DWord) (f : RFmt) (_ : State) (_ : Nat) (t : Thread) : Thread :=
  bitwise f.ty f.d (fun t => g (t.reg f.a.toNat) (t.reg f.b.toNat)) (fun t => h (t.reg64 f.a.toNat) (t.reg64 f.b.toNat)) t

/-- A word on a source of its width and a shift amount in one register. -/
def shiftWord (g : Word → Nat → Word) (h : DWord → Nat → DWord) (f : RFmt) (_ : State) (_ : Nat) (t : Thread) : Thread :=
  bitwise f.ty f.d (fun t => g (t.reg f.a.toNat) (t.reg f.b.toNat).toNat)
    (fun t => h (t.reg64 f.a.toNat) (t.reg f.b.toNat).toNat) t

/-- The bits of a field of R180 placed at p. -/
def fieldMask (w p l : Nat) : BitVec w := BitVec.ofNat w (2 ^ l - 1) <<< p

/-- The exact value of a source of any integer type, in its low bits or its pair (R151, R189). -/
def intCode (ty : BitVec 4) (t : Thread) (r : BitVec 6) : Int :=
  match ty.toNat with
  | 0 => (((t.reg r.toNat).setWidth 8).toNat : Int)
  | 1 => (((t.reg r.toNat).setWidth 16).toNat : Int)
  | 2 => ((t.reg r.toNat).toNat : Int)
  | 3 => ((t.reg64 r.toNat).toNat : Int)
  | 4 => ((t.reg r.toNat).setWidth 8).toInt
  | 5 => ((t.reg r.toNat).setWidth 16).toInt
  | 6 => (t.reg r.toNat).toInt
  | _ => (t.reg64 r.toNat).toInt

/-- An exact integer written as an integer type (R189): narrow types extended to 32 bits under their sign. -/
def storeInt (ty : BitVec 4) (d : BitVec 6) (x : Int) (t : Thread) : Thread :=
  match ty.toNat with
  | 0 => t.setReg d.toNat ((BitVec.ofInt 8 x).setWidth 32)
  | 1 => t.setReg d.toNat ((BitVec.ofInt 16 x).setWidth 32)
  | 2 => t.setReg d.toNat (BitVec.ofInt 32 x)
  | 3 => t.setReg64 d.toNat (BitVec.ofInt 64 x)
  | 4 => t.setReg d.toNat ((BitVec.ofInt 8 x).signExtend 32)
  | 5 => t.setReg d.toNat ((BitVec.ofInt 16 x).signExtend 32)
  | 6 => t.setReg d.toNat (BitVec.ofInt 32 x)
  | _ => t.setReg64 d.toNat (BitVec.ofInt 64 x)

/-- The clamp to the range of any integer type. -/
def clampInt (ty : BitVec 4) (x : Int) : Int :=
  match ty.toNat with
  | 0 => max (min x 255) 0
  | 1 => max (min x 65535) 0
  | 4 => max (min x 127) (-128)
  | 5 => max (min x 32767) (-32768)
  | _ => saturated ty x

/-- The conditions of R182. -/
def holdsCond (code : BitVec 3) (a b : Int) : Prop :=
  if code = 0 then a = b else if code = 1 then a ≠ b else if code = 2 then a < b else if code = 3 then a ≤ b
  else if code = 4 then b < a else b ≤ a

/-- The threads of the bundle only move past the word. -/
def OnlyMoves (s t : State) : Prop :=
  (∀ l ∈ s.cur.lanes, t.thread (s.here l) = (s.thread (s.here l)).advance) ∧
  ∀ tid, (∀ l ∈ s.cur.lanes, tid ≠ s.here l) → t.thread tid = s.thread tid

/-- A word that writes bits of one mask completes: lane l of m[d] becomes `bit l`; every other mask, register and record
stays as it is. -/
def MaskCompletes (i : Instr) (s : State) (d : Nat) (bit : Nat → Bool → Prop) : Prop :=
  ∃ t, exec i s = .next t ∧ OnlyMoves s t ∧
    (∀ l, l < 32 → (hasLane ((t.band s.cur.bid).mask d) l = true ↔ bit l (hasLane ((s.band s.cur.bid).mask d) l))) ∧
    (∀ n, n ≠ d → (t.band s.cur.bid).mask n = (s.band s.cur.bid).mask n) ∧
    (∀ b, b ≠ s.cur.bid → t.band b = s.band b) ∧
    ({ t.band s.cur.bid with bundle := (s.band s.cur.bid).bundle, m := (s.band s.cur.bid).m } : Band) = s.band s.cur.bid ∧
    ({ t with threads := s.threads, bands := s.bands } : State) = s

/-- A word that writes one uniform register completes: s[n] takes the value, and nothing else changes. -/
def UniformCompletes (i : Instr) (s : State) (n : Nat) (w : Word) : Prop :=
  ∃ t, exec i s = .next t ∧ OnlyMoves s t ∧ (t.band s.cur.bid).sreg n = w ∧
    (∀ m, m ≠ n → (t.band s.cur.bid).sreg m = (s.band s.cur.bid).sreg m) ∧
    (∀ b, b ≠ s.cur.bid → t.band b = s.band b) ∧
    ({ t.band s.cur.bid with bundle := (s.band s.cur.bid).bundle, s := (s.band s.cur.bid).s } : Band) = s.band s.cur.bid ∧
    ({ t with threads := s.threads, bands := s.bands } : State) = s

/-- A word with late results completes at issue (R175): each performer's destination is empty until its result, which is on
its way, arrives; the pcs are past the word and nothing else changes. -/
def LateCompletes (i : Instr) (s : State) (d : Nat) (ws : Nat → List Word) : Prop :=
  ∃ t new, exec i s = .next t ∧ t.lates = s.lates ++ new ∧
    new.map (fun x => (x.tid, x.words, x.mark)) =
      (performers i s).map (fun tid => (tid, ((List.range (ws tid).length).map (d + ·)).zip (ws tid), 0)) ∧
    (∀ l ∈ s.cur.lanes, t.thread (s.here l) =
      if selected i s l then (s.thread (s.here l)).advance.emptyRegs d (ws (s.here l)).length
      else (s.thread (s.here l)).advance) ∧
    (∀ tid, (∀ l ∈ s.cur.lanes, tid ≠ s.here l) → t.thread tid = s.thread tid) ∧
    (∀ b, b ≠ s.cur.bid → t.band b = s.band b) ∧
    ({ t.band s.cur.bid with bundle := (s.band s.cur.bid).bundle } : Band) = s.band s.cur.bid ∧
    ({ t with threads := s.threads, bands := s.bands, lates := s.lates, fresh := s.fresh } : State) = s

/-! ## Floating codes in the spec's own terms (03 R83, R84, R92, 06 R191-R196) -/

/-- Exponent and fraction bits of FP32, FP16 and BF16, TY 8, 9 and 10 (R83). -/
def fieldsOf (ty : BitVec 4) : Nat × Nat := if ty = 8 then (8, 23) else if ty = 9 then (5, 10) else (8, 7)

/-- The canonical NaN of FP32, FP16 and BF16 (R84). -/
def canonOf (ty : BitVec 4) : Nat := if ty = 8 then 0x7FC00000 else if ty = 9 then 0x7E00 else 0x7FC0

/-- The sign bit of a code whose sign stands above its magnitude of n bits. -/
def codeSign (n c : Nat) : Bool := c.testBit n

/-- A code is a NaN: its exponent is all ones and its fraction is not 0 (R83). -/
def codeNan (k : Nat × Nat) (c : Nat) : Prop := c / 2 ^ k.2 % 2 ^ k.1 = 2 ^ k.1 - 1 ∧ c % 2 ^ k.2 ≠ 0

/-- A source code under FTZ and the modifiers of source i (R95, R191): a subnormal becomes a zero of its sign, then the absolute
value is taken, then the sign is negated. -/
def codeSource (k : Nat × Nat) (ftz : Bool) (mod : BitVec 9) (i c : Nat) : Nat :=
  let mag := if ftz = true ∧ c / 2 ^ k.2 % 2 ^ k.1 = 0 then 0 else c % 2 ^ (k.1 + k.2)
  let sign := if mod.getLsbD (2 * i + 1) then false else codeSign (k.1 + k.2) c
  if sign != mod.getLsbD (2 * i) then mag + 2 ^ (k.1 + k.2) else mag

/-- The place of a code among the codes that are no NaNs, with -0 just below +0 (R193). -/
def codeRank (k : Nat × Nat) (c : Nat) : Int :=
  let mag : Int := (c % 2 ^ (k.1 + k.2) : Nat)
  if codeSign (k.1 + k.2) c then -mag - 1 else mag

/-- The place of a code among the codes that are no NaNs, with -0 equal to +0 (R194). -/
def codeOrder (k : Nat × Nat) (c : Nat) : Int :=
  let mag : Int := (c % 2 ^ (k.1 + k.2) : Nat)
  if codeSign (k.1 + k.2) c then -mag else mag

/-- w is the lesser, or the greater, of two codes (R193). -/
def Picks (k : Nat × Nat) (canon : Nat) (greater : Bool) (a b w : Nat) : Prop :=
  (codeNan k a → codeNan k b → w = canon) ∧ (codeNan k a → ¬ codeNan k b → w = b) ∧ (¬ codeNan k a → codeNan k b → w = a) ∧
  (¬ codeNan k a → ¬ codeNan k b → codeRank k a ≤ codeRank k b → w = if greater then b else a) ∧
  (¬ codeNan k a → ¬ codeNan k b → codeRank k b ≤ codeRank k a → w = if greater then a else b)

/-- The conditions of R194 on two codes. -/
def holdsFloat (k : Nat × Nat) (code : BitVec 3) (a b : Nat) : Prop :=
  let num := ¬ codeNan k a ∧ ¬ codeNan k b
  let x := codeOrder k a
  let y := codeOrder k b
  if code = 0 then num ∧ x = y else if code = 1 then ¬ num ∨ x ≠ y else if code = 2 then num ∧ x < y
  else if code = 3 then num ∧ x ≤ y else if code = 4 then num ∧ y < x else if code = 5 then num ∧ y ≤ x
  else if code = 6 then num else ¬ num

/-- The class of a code, as the bit of R196 that stands for it. -/
def codeClass (k : Nat × Nat) (c : Nat) : Nat :=
  let neg := codeSign (k.1 + k.2) c
  let e := c / 2 ^ k.2 % 2 ^ k.1
  let m := c % 2 ^ k.2
  if e = 2 ^ k.1 - 1 then (if m = 0 then (if neg then 0 else 7) else if m < 2 ^ (k.2 - 1) then 8 else 9)
  else if e ≠ 0 then (if neg then 1 else 6) else if m ≠ 0 then (if neg then 2 else 5) else if neg then 3 else 4

/-- Half h of a register. -/
def half16 (w : Word) (h : Nat) : Nat := (w.extractLsb' (16 * h) 16).toNat

/-- What FCVT makes of FP32 codes that have no finite image, of zeros and, with SAT, of every magnitude from the target's largest
finite value on, its infinity among them (R92, R93, R195): `g` is the word's effect on a thread. -/
structure Converts (f : RFmt) (g : Thread → Thread) : Prop where
  toInt : f.ty.toNat < 8 → ∀ t, (codeNan (8, 23) (t.reg f.a.toNat).toNat → g t = storeInt f.ty f.d 0 t) ∧
    ((t.reg f.a.toNat).toNat = 0x7F800000 → g t = storeInt f.ty f.d (clampInt f.ty (2 ^ 64)) t) ∧
    ((t.reg f.a.toNat).toNat = 0xFF800000 → g t = storeInt f.ty f.d (clampInt f.ty (-2 ^ 64)) t) ∧
    ((t.reg f.a.toNat).toNat = 0 ∨ (t.reg f.a.toNat).toNat = 0x80000000 → g t = storeInt f.ty f.d 0 t)
  nan : ∀ p ∈ [((8 : BitVec 4), (0x7FC00000 : Word)), (9, 0x7E00), (10, 0x7FC0), (11, 0x7F), (12, 0x7E), (13, 0), (14, 0xFF)],
    f.ty = p.1 → ∀ t, codeNan (8, 23) (t.reg f.a.toNat).toNat → g t = t.setReg f.d.toNat p.2
  infinite : f.sat = 0 → ∀ p ∈ [((8 : BitVec 4), (0x7F800000 : Word), (0xFF800000 : Word)), (9, 0x7C00, 0xFC00), (10, 0x7F80, 0xFF80),
      (11, 0x7F, 0x7F), (12, 0x7C, 0xFC), (14, 0xFF, 0xFF)], f.ty = p.1 → ∀ t,
    (t.reg f.a.toNat = 0x7F800000 → g t = t.setReg f.d.toNat p.2.1) ∧ (t.reg f.a.toNat = 0xFF800000 → g t = t.setReg f.d.toNat p.2.2)
  saturated : f.sat = 1 → ∀ p ∈ [((8 : BitVec 4), 0x7F7FFFFF, (0x7F7FFFFF : Word), (0xFF7FFFFF : Word)), (9, 0x477FE000, 0x7BFF, 0xFBFF),
      (10, 0x7F7F0000, 0x7F7F, 0xFF7F), (11, 0x43E00000, 0x7E, 0xFE), (12, 0x47600000, 0x7B, 0xFB), (13, 0x40C00000, 7, 15)],
    f.ty = p.1 → ∀ t, p.2.1 ≤ (t.reg f.a.toNat).toNat % 2 ^ 31 → (t.reg f.a.toNat).toNat % 2 ^ 31 ≤ 0x7F800000 →
      g t = t.setReg f.d.toNat (if (t.reg f.a.toNat).msb then p.2.2.2 else p.2.2.1)

/-- Exponent and fraction bits of the floating types 8 to 13 (R83, R86). -/
def cvtFields (ty : BitVec 4) : Nat × Nat :=
  if ty = 11 then (4, 3) else if ty = 12 then (5, 2) else if ty = 13 then (2, 1) else fieldsOf ty

/-- Their exponent biases (R83, R86). -/
def biasOf (ty : BitVec 4) : Nat := if ty = 8 ∨ ty = 10 then 127 else if ty = 9 ∨ ty = 12 then 15 else if ty = 11 then 7 else 1

/-- A code of a floating type stands for a finite number: E4M3 has no infinity and one NaN a sign, E2M1 neither (R83, R86). -/
def codeFinite (ty : BitVec 4) (c : Nat) : Prop :=
  if ty = 13 then True else if ty = 11 then c % 128 ≠ 127
  else c / 2 ^ (cvtFields ty).2 % 2 ^ (cvtFields ty).1 ≠ 2 ^ (cvtFields ty).1 - 1

/-- A finite code, counted in units of its type's least subnormal. -/
def codeUnits (k : Nat × Nat) (c : Nat) : Int :=
  let e := c / 2 ^ k.2 % 2 ^ k.1
  let n : Int := ((c % 2 ^ k.2 + if e = 0 then 0 else 2 ^ k.2) * 2 ^ (e - 1) : Nat)
  if codeSign (k.1 + k.2) c then -n else n

/-- x is n / 2^k rounded to an integer in a rounding mode: to nearest with ties to even, toward zero, down, up (R90). -/
def RoundsTo (rm : Nat) (n : Int) (k : Nat) (x : Int) : Prop :=
  if rm = 0 then 2 * (x * 2 ^ k - n).natAbs ≤ 2 ^ k ∧ (2 * (x * 2 ^ k - n).natAbs = 2 ^ k → x % 2 = 0)
  else if rm = 1 then x = Int.tdiv n (2 ^ k) else if rm = 2 then x = Int.fdiv n (2 ^ k) else x = -Int.fdiv (-n) (2 ^ k)

/-- What FCVT makes of integers and of finite codes, flushed under FTZ (`z`) where they are FP32 or BF16: a code becomes the integer that it
rounds to in the word's mode, clamped; an integer, or a code's value, is rounded once into the target (R92, R93, R95, R195). -/
structure ConvertsFinite (f : RFmt) (z : Bool) (g : Thread → Thread) : Prop where
  toInt : let st := f.mod.extractLsb' 0 4
    8 ≤ st.toNat → st.toNat ≤ 13 → f.ty.toNat < 8 → ∀ t : Thread,
    let c := codeSource (cvtFields st) (z && (st == 8 || st == 10)) 0 0 (t.reg f.a.toNat).toNat
    codeFinite st c → ∃ x, RoundsTo f.rm.toNat (codeUnits (cvtFields st) c) (biasOf st + (cvtFields st).2 - 1) x ∧
      g t = storeInt f.ty f.d (clampInt f.ty x) t
  ofInteger : let st := f.mod.extractLsb' 0 4
    st.toNat < 8 → 8 ≤ f.ty.toNat → f.ty.toNat ≤ 13 → ∀ t, g t = t.setReg f.d.toNat (BitVec.ofNat 32
      ((fmtOf f.ty).round f.rm.toNat (f.sat == 1) (z && (f.ty == 8 || f.ty == 10)) (ofInt (intCode st t f.a))))
  ofCode : let st := f.mod.extractLsb' 0 4
    8 ≤ st.toNat → st.toNat ≤ 13 → 8 ≤ f.ty.toNat → f.ty.toNat ≤ 13 → ∀ t : Thread,
    let c := codeSource (cvtFields st) (z && (st == 8 || st == 10)) 0 0 (t.reg f.a.toNat).toNat
    codeFinite st c → g t = t.setReg f.d.toNat (BitVec.ofNat 32
      ((fmtOf f.ty).round f.rm.toNat (f.sat == 1) (z && (f.ty == 8 || f.ty == 10)) ((fmtOf st).decode c)))

/-- A finite value counted in units of 2^k, for k at or below its exponent. -/
def unitsAt (k : Int) (neg : Bool) (m : Nat) (e : Int) : Int :=
  (if neg then -1 else 1) * ((m * 2 ^ (e - k).toNat : Nat) : Int)

/-- An FP32 code is a NaN (R83). -/
def isNanCode (c : Word) : Prop := c.extractLsb' 23 8 = 255 ∧ c.extractLsb' 0 23 ≠ 0

/-- Every word of a family of one FP32 source completes at issue with its result on the way (R175, R192). -/
def LateFamily (mk : RFmt → Instr) (g : Num → Num) : Prop :=
  ∀ (f : RFmt) (s : State), Issuing (mk f) s → AllPass (mk f) s noCheck →
    LateCompletes (mk f) s f.d.toNat (fun tid => [fword f (fun a _ _ => g a) s tid (s.thread tid)])

/-- The performing lanes' values of a register, by lane. -/
def voters (i : Instr) (s : State) (r : Nat) : List (Nat × Word) :=
  (s.cur.lanes.filter (selected i s)).map (fun l => (l, (s.thread (s.here l)).reg r))

/-- What a word does to its bundle: `g` for each performing thread, its pc past the word, the others of the bundle only past
the word; no other thread and no other band changes, and the band keeps all but the bundle of the window. -/
structure BundleStep (i : Instr) (s t : State) (g : Nat → Thread → Thread) : Prop where
  lanes : ∀ l ∈ s.cur.lanes, t.thread (s.here l) =
    if selected i s l then g (s.here l) (s.thread (s.here l)).advance else (s.thread (s.here l)).advance
  threads : ∀ tid, (∀ l ∈ s.cur.lanes, tid ≠ s.here l) → t.thread tid = s.thread tid
  bands : ∀ b, b ≠ s.cur.bid → t.band b = s.band b
  band : ({ t.band s.cur.bid with bundle := (s.band s.cur.bid).bundle } : Band) = s.band s.cur.bid

/-- Beside threads and bands, only requests in flight, their packets, late results, caches of cores and the next unused name
differ: no byte of memory, no launch, no queue and no other state. -/
def OnlyInFlight (s t : State) : Prop :=
  ({ t with threads := s.threads, bands := s.bands, cores := s.cores, reqs := s.reqs, lates := s.lates,
            packets := s.packets, fresh := s.fresh } : State) = s

/-- Beside what an access leaves in flight, only what the reads of a page walk do at the slices differs: what they hold and what their
reads of DRAM find (R108, R390, R400, R405). -/
def OnlyWalks (s t : State) : Prop :=
  OnlyInFlight s { t with
    hbm := s.hbm, dies := s.dies, tests := s.tests, poison := s.poison, damage := s.damage, l2 := s.l2, versions := s.versions,
    lost := s.lost, floors := s.floors, baseFloors := s.baseFloors, free := s.free, fallbackFences := s.fallbackFences }

/-- A write of bytes for a thread is in flight. -/
def WriteInFlight (t : State) (tid : Nat) (p : Req → Prop) (cells : List (Nat × Byte)) : Prop :=
  ∀ c ∈ cells, ∃ r ∈ t.reqs, p r ∧ ∃ x ∈ r.parts, x.tid = tid ∧ c ∈ x.addrs.zip x.data

/-- Requests of a load-like word: unperformed, with the stream, ordering and scope of the word, and a share of the thread. -/
def RequestInFlight (t : State) (tid : Nat) (f : MFmt) (kind : ReqKind) (x : Access) (dests : List (Nat × Nat))
    (data : List Byte) : Prop :=
  ∃ r ∈ t.reqs, r.kind = kind ∧ r.performed = false ∧ r.place = x.place ∧ r.st = f.st.toNat ∧ r.acq = f.ord.getLsbD 0 ∧
    r.rel = f.ord.getLsbD 1 ∧ r.scope = f.sc.toNat ∧ r.err = x.err ∧
    ∃ p ∈ r.parts, p.tid = tid ∧ p.addrs = x.addrs ∧ p.dests = dests ∧ p.data = data

/-- R240: a leg that has ended at a barrier word: the pc lies past it, registers below the carry count keep their values, the
others read 0 and are full, and D holds the status. -/
def LegEnded (s t : State) (f : IFmt) (tid : Nat) (status : Word) : Prop :=
  (t.thread tid).pc = s.cur.pc + 8 ∧ (t.thread tid).wait = .none ∧ (t.thread tid).reg f.d.toNat = status ∧
  ∀ r, r ≠ f.d.toNat →
    (t.thread tid).reg r = (if r < carryOf f then (s.thread tid).reg r else 0) ∧
    (carryOf f ≤ r → (t.thread tid).isEmpty r = false)

/-- What a dispatch leaves (R45, R46, R51): one entry at the tail of the queue, the dispatch number used, the produced token's
issued count one higher; no register and no memory changes, the pc is past the word. -/
def Dispatches (i : Instr) (f : EFmt) (s : State) (tid : Nat) (q : QRef) (args : List Word × List Handle × List Nat) : Prop :=
  ∃ t, exec i s = .next t ∧ OnlyMoves s t ∧ t.mem = s.mem ∧ t.teams = s.teams ∧ t.reqs = s.reqs ∧
    (t.queue q).entries = (s.queue q).entries ++
      [{ instr := i, word := s.cur.word, addr := s.cur.pc, tid := tid, dno := s.nextDno q,
         waits := s.targets tid [f.w0, f.w1, f.w2], tok := if f.d = 63 then none else some f.d.toNat,
         regs := args.1, hdls := args.2.1, aids := args.2.2 }] ∧
    t.nextDno q = s.nextDno q + 1 ∧
    ∀ n, t.token tid n = if f.d ≠ 63 ∧ n = f.d.toNat then { s.token tid n with issued := (s.token tid n).issued + 1 }
      else s.token tid n

/-! ## Events of the memory system -/

/-- Nothing is on the package network, and every link carries traffic (R408, R412). -/
structure Quiet (s : State) : Prop where
  packets : s.packets = []
  links : ∀ d l, (s.die d).linkState l < 2

/-- Request `ev.id` is r, its packet has reached the memory point that the event names, which serves it, nothing that it must follow
is outstanding, no other package refuses it, and it is answered without an error (R116, R120, R408, R416, R438). -/
structure Performable (s : State) (r : Req) (agent : Bool) : Prop where
  found : s.req? s.ev.id = some r
  unperformed : r.performed = false
  free : s.blocked r = false
  point : s.agentServes r s.ev.die = agent
  arrived : s.hasArrived r s.ev.die = true
  accepted : (s.ev.discard && r.place == .phys && decide (2 ^ 60 ≤ r.point 0)) = false
  answer : s.replyError r = none
  place : ∀ aid, r.place = .scratch aid → (s.teamWith aid).isSome = true

/-- Nothing but a write changes a line's version: no codeword is damaged, no sub-channel and no version is lost, and the line, when its
frame is of S32 granule, is resident or served by the agent (R133, R393, R394, R400, R416). -/
structure Steady (s : State) (line : Nat) : Prop where
  held : s.granule (128 * line) ≠ .s32 ∨ (find? line s.l2).isSome = true ∨ s.atAgent (128 * line) = true
  damage : s.damage = []
  channels : ∀ n, (s.stack n).lost = []
  lost : s.lost = []
  grans : ∀ p ∈ s.l2, p.2.gran = s.granule (128 * p.1)

/-- Two places share their bytes: the same one, or two names of one allocation or one slice. -/
def SamePlace (s : State) (p q : Place) : Prop :=
  p = q ∨ (∃ a b k, p = .scratch a ∧ q = .scratch b ∧ s.teamWith a = some k ∧ s.teamWith b = some k) ∨
  (∃ d e m n, p = .staging d e ∧ q = .staging m n ∧ 64 * d + e = 64 * m + n)

/-- Bytes of memory change at some addresses of one place at most. -/
def OnlyBytes (s t : State) (pl : Place) (addrs : List Nat) : Prop :=
  (∀ a, a ∉ addrs → t.readByte pl a = s.readByte pl a) ∧ ∀ q, ¬ SamePlace s pl q → ∀ a, t.readByte q a = s.readByte q a

/-- No byte of any memory changes. -/
def SameBytes (s t : State) : Prop := ∀ pl a, t.readByte pl a = s.readByte pl a

/-- A result is on its way to the registers of a request's thread, without an error. -/
def Answered (t : State) (r : Req) (p : ReqPart) (ws : Nat → Word) : Prop :=
  p.dests ≠ [] → ∃ l ∈ t.lates, l.id = r.id ∧ l.tid = p.tid ∧ l.mark = 0 ∧ l.words = p.dests.map (fun d => (d.1, ws d.2))

/-- Some bytes are written, at an address that is given more than once one of those given for it, and no other byte. -/
def WritesOnly (s t : State) (pl : Place) (cells : List (Nat × Byte)) : Prop :=
  OnlyBytes s t pl (cells.map (·.1)) ∧ ∀ c ∈ cells, (c.1, t.readByte pl c.1) ∈ cells

/-- An earlier access q of a thread that a later one, r, has to follow (R118, R120, R122): to a byte of it, before a release of its stream
until R122 is met, after an acquire of its stream, or to the line of an LDV. -/
inductive Follows (q r : Req) (tid : Nat) : Prop
  | bytes (a : Nat) : q.performed = false → q.place = r.place → a ∈ q.bytesOf tid → a ∈ r.bytesOf tid → Follows q r tid
  | release : r.rel = true → q.st = r.st → q.isStore = false → q.performed = false → Follows q r tid
  | releaseWrite : r.rel = true → q.st = r.st → q.isStore = true → 2 ≤ r.scope → q.remote = false → Follows q r tid
  | releaseRemote : r.rel = true → q.st = r.st → q.isStore = true → 2 ≤ r.scope → (q.posted = false ∨ 6 ≤ r.scope) → Follows q r tid
  | acquire : q.acq = true → q.st = r.st → q.performed = false → Follows q r tid
  | version (asid va a : Nat) : q.kind = .ldv asid va → q.performed = false → r.place = .phys → a ∈ r.bytesOf tid →
      lineOf a = lineOf q.first → Follows q r tid

/-- A copy of queue q reads a byte of a place: the byte there, or where a bridge beat is due in its own tile's scratchpad the old or the new
one (R54, R293). -/
def Reads (s : State) (q : QRef) (pl : Place) (a : Nat) (b : Byte) : Prop :=
  b = s.readByte pl a ∨ (s.ownScratch q pl = true ∧ s.dueAt (unitOfQueue q) a = some b)

/-! ## Engine queues -/

/-- The oldest entry of a queue that runs, with a dispatch number of its own. -/
structure Oldest (s : State) (q : QRef) (e : Entry) (rest : List Entry) : Prop where
  entries : (s.queue q).entries = e :: rest
  runs : (s.queue q).runs = true
  numbered : ∀ x ∈ rest, x.dno ≠ e.dno
  place : ∀ u n, q = .tile u n → isTile u = true

/-- That entry has started and may do its next step. -/
structure Working (s : State) (q : QRef) (e : Entry) (rest : List Entry) : Prop where
  oldest : Oldest s q e rest
  started : e.started = true
  unfinished : e.finished = false
  whole : e.fault = none

/-- Nobody has arrived at a barrier that a team takes part in. -/
def NoArrivals (s : State) (k : Nat) : Prop := (s.team k).bars = [] ∧ (s.launch (s.team k).lid).bars = []

/-- The oldest entry has left its queue and its token's done count has risen (R49). -/
def Leaves (s t : State) (q : QRef) (e : Entry) (rest : List Entry) : Prop :=
  (t.queue q).entries = rest ∧
  ∀ n, (t.token (queueTid q) n).done = (s.token (queueTid q) n).done + if e.tok = some n then 1 else 0

/-- The entry has moved on by one step of its micro-PC, and nothing else of its queue has changed. -/
def Steps (s t : State) (q : QRef) (e : Entry) (rest : List Entry) (last : Bool) : Prop :=
  t.queue q = { s.queue q with entries := { e with upc := e.upc + 1, finished := last } :: rest }

/-- The oldest entry of AQ completes with the lanes of one vector register written (R61, R279). -/
def VectorWrites (s : State) (u : Nat) (e : Entry) (rest : List Entry) (a : Nat) (lane : Nat → Word) : Prop :=
  ∃ t, exec .engineEntryComplete s = .next t ∧ Leaves s t (.tile u .aq) e rest ∧ SameBytes s t ∧ t.threads = s.threads ∧
    (∀ l, l < 64 → (t.tile u).lane a l = lane l) ∧
    ∀ v l, v ≠ a → l < 64 → (t.tile u).lane v l = (s.tile u).lane v l

/-- The result of VADD, VSUB and VMUL on two lanes (R279): FP32 rounded to nearest, .i32 signed and .b32 unsigned integers,
clamped with SAT. -/
def vectorSum (efn : BitVec 10) (g : Int → Int → Int) (h : Num → Num → Num) (b c : Word) : Word :=
  if efn.extractLsb' 0 2 = 0 then BitVec.ofNat 32 (fp32.round 0 false false (h (fp32.decode b.toNat) (fp32.decode c.toNat)))
  else
    let x := if efn.extractLsb' 0 2 = 1 then g b.toInt c.toInt else g b.toNat c.toNat
    BitVec.ofInt 32 (if efn.getLsbD 2 then saturated (if efn.extractLsb' 0 2 = 1 then 6 else 2) x else x)

/-! ## System words -/

/-- One thread performs the word: its checks pass and it has not exited. -/
structure Alone (i : Instr) (s : State) (own : State → Nat → Check) (tid : Nat) : Prop where
  issuing : Issuing i s
  one : performers i s = [tid]
  passes : AllPass i s own
  alive : (s.thread tid).exited = false

/-- A status is on its way to register d of a thread, which is empty until it arrives (R175, R328). -/
def StatusComes (t : State) (tid d : Nat) (w : Word) : Prop :=
  (t.thread tid).isEmpty d = true ∧ ∃ x ∈ t.lates, x.tid = tid ∧ x.words = [(d, w)] ∧ x.mark = 0

/-- The bits that a write to a control register keeps (R311, R436). -/
def csrMask (n : Nat) : DWord :=
  if n = 0x001 then 0x1DFF else if n = 0x003 ∨ n = 0x010 then 0x000FFFFFFFFFFFF8 else if n = 0x011 then 1
  else if n = 0x012 then 0x000FFFFFFFFFF00F else if n = 0x020 ∨ n = 0x021 ∨ n = 0x022 then 0xFFFFFFFF
  else if n = 0x031 then 0x83FF else 0xFFFFFFFFFFFFFFFF

/-- A write of TSTATE (R312): INH is bit 4, PPRV bits 3:2 but at most PRV, and PRV stays. -/
def TstateWritten (x y : Thread) (v : DWord) : Prop :=
  y.prv = x.prv ∧ y.inh = v.getLsbD 4 ∧ y.pprv = min (v.extractLsb' 2 2).toNat x.prv

/-- A team is on a die: resident there, or kept by the record store of one of its clusters. -/
def OnDie (p : TeamPlace) (d : Nat) : Prop := (∃ u, p = .resident u ∧ dieOf u = d) ∨ ∃ cl, p = .stored cl ∧ cl / 32 = d

/-- No team that some teams' end would take away owns a band. -/
def Apart (s : State) (bid : Nat) (gone : TeamPlace → Prop) : Prop :=
  (∀ p ∈ s.teams, gone p.2.place → bid ∉ (s.team p.1).bands) ∧ ∀ b, (s.band b).lanes ≤ 32

/-- A structure that failed its self-test is fenced (R422). -/
def Fenced (t : State) (st : Structure) : Prop :=
  match st.kind with
  | 0 => 64 * Structure.die st + st.unit % 64 ∈ t.fallbackFences ∧ (t.die (Structure.die st)).synslc.getLsbD (st.unit % 64) = true
  | 1 => st.unit ∈ (t.stack (Structure.die st)).fencedBanks
  | 2 => st.unit ∈ (t.die (Structure.die st)).fencedLanes
  | 3 => st.unit % 6 ∈ (t.core st.loc).fenced
  | _ => (t.core st.loc).scratchFenced = true

/-! ## The port and the fabric -/

/-- The port is open, and an operation of the event's queue pair is received (R432, R433, R440). -/
def Received (s : State) : Prop :=
  s.boot.stage = .up ∧ (s.qpair s.ev.qp).connected = true ∧ (s.qpair s.ev.qp).error = false

/-- An access of n bytes at the event's address lies in the region of its key, which permits it, and its bytes are at `as` (R433). -/
structure Reaches (s : State) (n : Nat) (region : MemRegion → Bool) (leaf : Leaf → Bool) (as : List Nat) : Prop where
  inside : ∃ r, s.regions.find? (fun r => r.key == s.ev.key) = some r ∧ region r = true ∧ r.base ≤ s.ev.va ∧
    s.ev.va + n ≤ r.base + r.len ∧
    ∀ i, i < n → ∃ l, s.portLeaf r.asid (s.ev.va + i) = some l ∧ leaf l = true ∧ as[i]? = s.extend (l.map (s.ev.va + i)) ∧
      (as[i]?).isSome = true
  length : as.length = n
  apart : as.Nodup
  near : ∀ a ∈ as, ∀ p, remotePkg a = some p → p ∉ s.unreachable ∧ s.fabid.getLsbD 15 = true
  banks : ∀ k, (s.stack k).fencedBanks = []

/-- A remote access error: the queue pair is in the error state and nothing else of the access is done (R433). -/
def AccessError (s : State) : State :=
  { s with qpairs := smod s.ev.qp (fun q => { q with error := true }) s.qpairs, outs := s.outs ++ [.rdmaError s.ev.qp] }

/-- Bytes are at their addresses of memory, and every other byte of it is as before. -/
def Placed (s t : State) (cells : List (Nat × Byte)) : Prop :=
  (∀ c ∈ cells, t.readByte .phys c.1 = c.2) ∧ ∀ a, a ∉ cells.map (·.1) → t.readByte .phys a = s.readByte .phys a

/-! ## Issue -/

/-- The state once the word of the first free lane `l` of a band has been fetched (R390). -/
def Fetched (s : State) (u bid l : Nat) : State := s.fetchFill u (s.asidOf (32 * bid + l)) (s.thread (32 * bid + l)).pc.toNat

/-- A bundle issues the 8 bytes at x (R14): they lie at the pc of its first free lane `l`, and the lanes that stand there and need not wait
for the word issue it. -/
structure Fetches (s : State) (u bid l : Nat) (lanes : List Nat) (pc : DWord) (x : Nat) : Prop where
  first : ∃ rest, (s.band bid).bundle.filter (fun m => (s.thread (32 * bid + m)).free) = l :: rest ∧
    pc = (s.thread (32 * bid + l)).pc ∧ (Fetched s u bid l).fetchAddr u (s.asidOf (32 * bid + l)) (pc.toNat / 8 * 8) = some x ∧
    let mine := (l :: rest).filter (fun m => (s.thread (32 * bid + m)).pc == pc)
    let f := { Fetched s u bid l with cur := ⟨u, bid, mine, pc, 0, []⟩ }
    lanes = mine.filter (fun m => !f.fetchedWaits (BitVec.ofNat 64 (f.readNat .phys x 8)) (32 * bid + m))
  some_ : lanes ≠ []
  near : (Fetched s u bid l).farOff x = false
  clean : (Fetched s u bid l).readsPoison .phys (runOf x 8) = false
  whole : ∀ m ∈ (s.band bid).bundle, s.mustTake (32 * bid + m) = false

/-- The word at x, issued by lanes of a band. -/
def Issued (s : State) (u bid l : Nat) (lanes : List Nat) (pc : DWord) (x : Nat) : State :=
  let f := Fetched s u bid l
  { f with cur := ⟨u, bid, lanes, pc, BitVec.ofNat 64 (f.readNat .phys x 8), []⟩ }

/-- What a step runs at x: the instruction that its bytes decode to, or the illegal word. -/
def RunsWord (s t : State) (x : Nat) : Prop :=
  (∀ i, decodeBytes (t.readN .phys x 8) = .ok i → step s = exec i t) ∧
  ∀ e, decodeBytes (t.readN .phys x 8) = .error e → step s = exec (.unassignedOpcode (BitVec.ofNat 64 (t.readNat .phys x 8))) t

/-- The clock may move to a moment: it lies in the past, or nothing has to happen before it (01 R13, 16 R404, R406, 17 R412, R422). -/
def MayReach (s : State) (t : Nat) : Prop := t ≤ s.clock ∨ ∀ d ∈ s.deadlines, t ≤ d

/-- The state at a moment that the clock may move to. -/
def State.at_ (s : State) (t : Nat) : State := { s with clock := max s.clock t }

/-! ## Forms that states keep -/

/-- Every memory is in its canonical form: addresses rising, no byte listed that is what an unlisted one reads as. -/
structure MemoryForm (s : State) : Prop where
  mem : Memory.wf s.mem = true
  scratch : ∀ p ∈ s.teams, Memory.wf p.2.scratch = true
  staging : ∀ p ∈ s.staging, Memory.wf p.2 = true

/-- The agenda lists no instruction word as if it were an event of the machine. -/
def AgendaOfEvents (s : State) : Prop := ∀ i e, Item.event i e ∈ s.agenda → msOf i = none

/-! ## Runs -/

/-- A run of any length never stops. -/
def Safe (s : State) : Prop := ∀ n, ∃ t, Sys2Proof.core.run n s = .next t

end Sys2Proof.Machine
end

