-- ==== Sys2Proof/Certificates/Slice0/Obligations.lean ====
section
/-!
DEFINITION. The statements for the provers.
-/

open Sys2Proof Sys2Proof.Machine

/-! ## Integer words (06 R177-R190) -/

/-- R177: the opcodes and fields of the integer words; each completes with the table's exact x in Dest(D), saturated when SAT is
set, its pc past the word and nothing else changed; an idle lane only moves on. -/
def Obligations.IntegerResults : Prop :=
  (∀ w : DWord, ∀ p ∈ [((0x01 : BitVec 8), Instr.add), (0x03, .sub), (0x04, .mul), (0x05, .mulh), (0x06, .mad), (0x07, .min),
      (0x08, .max), (0x09, .absd), (0x28, .clamp)], w.extractLsb' 56 8 = p.1 → ofWord w = p.2 (unpackR w)) ∧
  (∀ f : RFmt, ∀ mk ∈ [Instr.add, .sub, .mul, .mulh, .min, .max, .absd], legal (mk f) = true →
    (f.ty = 2 ∨ f.ty = 3 ∨ f.ty = 6 ∨ f.ty = 7) ∧ f.fn = 0 ∧ f.rm = 0 ∧ f.mod = 0 ∧ f.c = 0) ∧
  (∀ f : RFmt, ∀ mk ∈ [Instr.mad, .clamp], legal (mk f) = true →
    (f.ty = 2 ∨ f.ty = 3 ∨ f.ty = 6 ∨ f.ty = 7) ∧ f.fn = 0 ∧ f.rm = 0 ∧ f.mod = 0) ∧
  (∀ f : RFmt, ∀ mk ∈ [Instr.mulh, .min, .max, .absd, .clamp], legal (mk f) = true → f.sat = 0) ∧
  Family .add (exactWord (fun _ a b _ => a + b)) ∧
  Family .sub (exactWord (fun _ a b _ => a - b)) ∧
  Family .mul (exactWord (fun _ a b _ => a * b)) ∧
  Family .mulh (exactWord (fun n a b _ => Int.fdiv (a * b) (2 ^ n.toNat))) ∧
  Family .mad (exactWord (fun _ a b c => a * b + c)) ∧
  Family .min (exactWord (fun _ a b _ => if a ≤ b then a else b)) ∧
  Family .max (exactWord (fun _ a b _ => if a ≤ b then b else a)) ∧
  Family .absd (exactWord (fun _ a b _ => if a ≤ b then b - a else a - b)) ∧
  Family .clamp (exactWord (fun _ a b c => if c < b then c else if c < a then c else if a < b then b else a))

/-- R178: the immediate words complete at 32 and 64 bits; another FN, a MOD that is not 0, and a shift count outside 0 to n - 1
trap 0x01. -/
def Obligations.ImmediateResults : Prop :=
  (∀ w : DWord, ∀ p ∈ [((0x02 : BitVec 8), Instr.addi), (0x0B, .andi), (0x0D, .ori), (0x0F, .xori), (0x12, .shli), (0x14, .shri),
      (0x16, .sari)], w.extractLsb' 56 8 = p.1 → ofWord w = p.2 (unpackI w)) ∧
  (∀ (f : IFmt) (s : State) (l : Nat), ∀ p ∈ [(Instr.addi f, false), (.andi f, false), (.ori f, false), (.xori f, false),
      (.shli f, true), (.shri f, true), (.sari f, true)], Issuing p.1 s → s.cur.lanes = [l] → selected p.1 s l = true →
    (f.fn ≠ 0 ∧ f.fn ≠ 1 ∨ f.mod ≠ 0 ∨ p.2 = true ∧ (if f.fn = 1 then 64 else 32) ≤ f.imm.toNat) →
    exec p.1 s = .next ((s.raise (s.here l) 0x01 s.cur.word).keepBundle s.cur.bid [l])) ∧
  (∀ f : IFmt, ∀ mk ∈ [Instr.addi, .andi, .ori, .xori, .shli, .shri, .sari], legal (mk f) = true →
    (f.fn = 0 ∨ f.fn = 1) ∧ f.mod = 0) ∧
  (∀ f : IFmt, ∀ mk ∈ [Instr.shli, .shri, .sari], legal (mk f) = true → f.imm.toNat < if f.fn = 1 then 64 else 32) ∧
  FamilyI .addi (immWord (fun a x => a + x) (fun a x => a + x)) ∧
  FamilyI .andi (immWord (fun a x => a &&& x) (fun a x => a &&& x)) ∧
  FamilyI .ori (immWord (fun a x => a ||| x) (fun a x => a ||| x)) ∧
  FamilyI .xori (immWord (fun a x => a ^^^ x) (fun a x => a ^^^ x)) ∧
  FamilyI .shli (immWord (fun a x => a <<< x.toNat) (fun a x => a <<< x.toNat)) ∧
  FamilyI .shri (immWord (fun a x => a >>> x.toNat) (fun a x => a >>> x.toNat)) ∧
  FamilyI .sari (immWord (fun a x => a.sshiftRight x.toNat) (fun a x => a.sshiftRight x.toNat))

/-- R179: the logical and shift words at 32 and 64 bits; amounts of n or more shift everything out, ROT takes j mod n. -/
def Obligations.LogicAndShiftResults : Prop :=
  (∀ w : DWord, ∀ p ∈ [((0x0A : BitVec 8), Instr.and), (0x0C, .or), (0x0E, .xor), (0x10, .not), (0x11, .shl), (0x13, .shr),
      (0x15, .sar), (0x17, .rot)], w.extractLsb' 56 8 = p.1 → ofWord w = p.2 (unpackR w)) ∧
  (∀ f : RFmt, ∀ mk ∈ [Instr.and, .or, .xor, .not, .shl, .shr, .rot], legal (mk f) = true →
    (f.ty = 2 ∨ f.ty = 3) ∧ f.fn = 0 ∧ f.rm = 0 ∧ f.sat = 0 ∧ f.mod = 0) ∧
  (∀ f : RFmt, legal (.sar f) = true → (f.ty = 6 ∨ f.ty = 7) ∧ f.fn = 0 ∧ f.rm = 0 ∧ f.sat = 0 ∧ f.mod = 0) ∧
  (∀ f : RFmt, legal (.not f) = true → f.b = 0) ∧
  Family .and (rawWord (fun a b => a &&& b) (fun a b => a &&& b)) ∧
  Family .or (rawWord (fun a b => a ||| b) (fun a b => a ||| b)) ∧
  Family .xor (rawWord (fun a b => a ^^^ b) (fun a b => a ^^^ b)) ∧
  Family .not (rawWord (fun a _ => ~~~a) (fun a _ => ~~~a)) ∧
  Family .shl (shiftWord (fun a j => a <<< j) (fun a j => a <<< j)) ∧
  Family .shr (shiftWord (fun a j => a >>> j) (fun a j => a >>> j)) ∧
  Family .sar (shiftWord (fun a j => a.sshiftRight j) (fun a j => a.sshiftRight j)) ∧
  Family .rot (shiftWord (fun a j => a.rotateLeft (j % 32)) (fun a j => a.rotateLeft (j % 64)))

/-- R180, R181, R184, R187, R189, R190: fields, counts, selection, addresses, integer conversions and byte selection. What BSWZ's fill
mask does where the zero mask is not set is the model's choice (log 51). -/
def Obligations.BitFieldResults : Prop :=
  Family .bfe (fun f _ _ t =>
    let p := ((t.reg f.b.toNat).extractLsb' 0 8).toNat
    let l := ((t.reg f.b.toNat).extractLsb' 8 8).toNat
    let x := Int.fdiv (operand f.ty t f.a) (2 ^ p)
    deposit f.ty f.d (if l = 0 then 0 else if f.ty = 6 ∨ f.ty = 7 then Int.bmod x (2 ^ l) else Int.fmod x (2 ^ l)) t) ∧
  Family .bfi (fun f _ _ t =>
    let p := ((t.reg f.b.toNat).extractLsb' 0 8).toNat
    let l := ((t.reg f.b.toNat).extractLsb' 8 8).toNat
    bitwise f.ty f.d
      (fun t => (t.reg f.c.toNat &&& ~~~(fieldMask 32 p l)) ||| (t.reg f.a.toNat <<< p &&& fieldMask 32 p l))
      (fun t => (t.reg64 f.c.toNat &&& ~~~(fieldMask 64 p l)) ||| (t.reg64 f.a.toNat <<< p &&& fieldMask 64 p l)) t) ∧
  Family .popc (fun f _ _ t => t.setReg f.d.toNat (BitVec.ofNat 32
    (if f.ty = 3 then onesOf 64 (t.reg64 f.a.toNat).toNat else onesOf 32 (t.reg f.a.toNat).toNat))) ∧
  Family .clz (fun f _ _ t => t.setReg f.d.toNat (BitVec.ofNat 32
    (if f.ty = 3 then zerosAbove 64 (t.reg64 f.a.toNat).toNat else zerosAbove 32 (t.reg f.a.toNat).toNat))) ∧
  Family .brev (rawWord (fun a _ => a.reverse) (fun a _ => a.reverse)) ∧
  Family .sel (fun f _ _ t =>
    let first := t.reg f.c.toNat ≠ 0
    bitwise f.ty f.d (fun t => if first then t.reg f.a.toNat else t.reg f.b.toNat)
      (fun t => if first then t.reg64 f.a.toNat else t.reg64 f.b.toNat) t) ∧
  Family .lea (fun f _ _ t =>
    let b := t.reg f.b.toNat
    let e : DWord := if f.mod.getLsbD 3 then b.signExtend 64 else b.setWidth 64
    t.setReg64 f.d.toNat (t.reg64 f.a.toNat + e <<< (f.mod.extractLsb' 0 3).toNat)) ∧
  Family .cvti (fun f _ _ t =>
    let x := intCode (f.mod.extractLsb' 0 4) t f.a
    storeInt f.ty f.d (if f.sat = 1 then clampInt f.ty x else x) t) ∧
  Family .bswz (fun f _ _ t =>
    let src : DWord := t.reg f.b.toNat ++ t.reg f.a.toNat
    let byte := fun (i : Nat) =>
      let b : Byte := src.extractLsb' (8 * ((t.reg f.c.toNat).extractLsb' (3 * i) 3).toNat) 8
      if f.mod.getLsbD i then 0 else if f.mod.getLsbD (4 + i) then (if b.msb then 255 else 0) else b
    t.setReg f.d.toNat (byte 3 ++ byte 2 ++ byte 1 ++ byte 0))

/-- R182-R184: compares write the executing thread's own bit of a mask as FN bits 5:4 say, or a register. -/
def Obligations.CompareResults : Prop :=
  (∀ f s, Issuing (.cmp f) s → AllPass (.cmp f) s noCheck → MaskCompletes (.cmp f) s f.d.toNat (fun l old =>
    let c := holdsCond (f.fn.extractLsb' 0 3) (operand f.ty (s.thread (s.here l)) f.a) (operand f.ty (s.thread (s.here l)) f.b)
    if l ∈ s.cur.lanes ∧ selected (.cmp f) s l = true then
      (if f.fn.extractLsb' 4 2 = 0 then c else if f.fn.extractLsb' 4 2 = 1 then old = true ∧ c else old = true ∨ c)
    else old = true)) ∧
  (∀ f s, Issuing (.cmpi f) s → AllPass (.cmpi f) s noCheck → MaskCompletes (.cmpi f) s f.d.toNat (fun l old =>
    let a := (s.thread (s.here l)).reg f.a.toNat
    let b : Word := f.imm.signExtend 32
    let c := if f.fn.getLsbD 3 then holdsCond (f.fn.extractLsb' 0 3) a.toNat b.toNat
      else holdsCond (f.fn.extractLsb' 0 3) a.toInt b.toInt
    if l ∈ s.cur.lanes ∧ selected (.cmpi f) s l = true then
      (if f.fn.extractLsb' 4 2 = 0 then c else if f.fn.extractLsb' 4 2 = 1 then old = true ∧ c else old = true ∨ c)
    else old = true)) ∧
  (∀ f s, Issuing (.setc f) s → AllPass (.setc f) s noCheck → ∃ g, Completes (.setc f) s g ∧ ∀ tid t,
    (holdsCond (f.fn.extractLsb' 0 3) (operand f.ty t f.a) (operand f.ty t f.b) → g tid t = t.setReg f.d.toNat 1) ∧
    (¬ holdsCond (f.fn.extractLsb' 0 3) (operand f.ty t f.a) (operand f.ty t f.b) → g tid t = t.setReg f.d.toNat 0))

/-- R185, R186: moves and constants, into general registers, pairs and uniform registers; a uniform register takes the value
of the lowest-numbered performing thread (R176). -/
def Obligations.MoveResults : Prop :=
  (∀ f s, Issuing (.mov f) s → AllPass (.mov f) s noCheck →
    (f.fn = 0 → Completes (.mov f) s (fun _ t =>
      bitwise f.ty f.d (fun t => t.reg f.a.toNat) (fun t => t.reg64 f.a.toNat) t)) ∧
    (f.fn = 1 → Completes (.mov f) s (fun _ t => t.setReg f.d.toNat ((s.band s.cur.bid).sreg f.a.toNat))) ∧
    (f.fn = 2 → performers (.mov f) s ≠ [] → UniformCompletes (.mov f) s f.d.toNat
      ((s.thread (lowest 0 (performers (.mov f) s))).reg f.a.toNat)) ∧
    (f.fn = 3 → performers (.mov f) s ≠ [] → UniformCompletes (.mov f) s f.d.toNat ((s.band s.cur.bid).sreg f.a.toNat)) ∧
    (f.fn = 4 → Completes (.mov f) s (fun _ t => t.setReg f.d.toNat (s.readMask s.cur f.a.toNat)))) ∧
  (∀ f s, Issuing (.movi f) s → AllPass (.movi f) s noCheck →
    (f.fn = 0 → Completes (.movi f) s (fun _ t => t.setReg f.d.toNat f.imm)) ∧
    (f.fn = 1 → performers (.movi f) s ≠ [] → UniformCompletes (.movi f) s f.d.toNat f.imm) ∧
    (f.fn = 2 → Completes (.movi f) s (fun _ t => t.setReg64 f.d.toNat (f.imm.signExtend 64)))) ∧
  (∀ f s, Issuing (.movh f) s → AllPass (.movh f) s noCheck →
    (f.fn = 0 → Completes (.movh f) s (fun _ t => t.setReg (f.d.toNat + 1) f.imm)) ∧
    (f.fn = 1 → performers (.movh f) s ≠ [] → UniformCompletes (.movh f) s (f.d.toNat + 1) f.imm))

/-- R188: a zero divisor traps 0x0C with TVAL 0 before the destination empties; any other division completes, its quotient
truncated toward zero, its remainder with the sign of a, the overflow MinOf / -1 at MinOf, or MaxOf with SAT. -/
def Obligations.DivisionResults : Prop :=
  (∀ f s l, Issuing (.idiv f) s → s.cur.lanes = [l] → selected (.idiv f) s l = true →
    verdict (.idiv f) s noCheck l = .pass → operand f.ty (s.thread (s.here l)) f.b = 0 →
    exec (.idiv f) s = .next ((s.raise (s.here l) 0x0C 0).keepBundle s.cur.bid [l])) ∧
  (∀ f s, Issuing (.idiv f) s → AllPass (.idiv f) s noCheck →
    (∀ tid ∈ performers (.idiv f) s, operand f.ty (s.thread tid) f.b ≠ 0) →
    LateCompletes (.idiv f) s f.d.toNat (fun tid =>
      let t := s.thread tid
      let a := operand f.ty t f.a
      let b := operand f.ty t f.b
      let least : Int := if f.ty = 6 then -2 ^ 31 else -2 ^ 63
      let q := if (f.ty = 6 ∨ f.ty = 7) ∧ a = least ∧ b = -1 then (if f.sat = 1 then -least - 1 else least) else Int.tdiv a b
      let x := if f.fn = 0 then q else Int.tmod a b
      if f.ty = 3 ∨ f.ty = 7 then [BitVec.ofInt 32 x, BitVec.ofInt 32 (x / 2 ^ 32)] else [BitVec.ofInt 32 x]))

/-! ## Numbers (03 R83-R96, 06 R191-R198) -/

/-- R83, R86, R91: rounding a format's own value gives back its code in every mode, so that no code of a format loses a
bit. R91: under round to nearest, no finite code lies closer to the exact value than the result does, and where
another one lies as close the result's last significand bit is even. -/
def Obligations.RoundingIsExactAndNearest : Prop :=
  (∀ f ∈ [fp32, fp16, bf16, e4m3, e5m2, e2m1], ∀ rm code, code < 2 ^ f.bits → f.decode code ≠ .nan →
    f.round rm false false (f.decode code) = code) ∧
  (∀ f ∈ [fp32, fp16, bf16, e5m2], ∀ (neg : Bool) (m : Nat) (e k : Int) (rn : Bool) (rm : Nat) (re : Int) (st : Bool),
    f.decode (f.round 0 false false (.fin neg m e false)) = .fin rn rm re st →
    k ≤ e → k ≤ f.emin → ∀ code on om oe ost, f.decode code = .fin on om oe ost →
      (unitsAt k neg m e - unitsAt k rn rm re).natAbs ≤ (unitsAt k neg m e - unitsAt k on om oe).natAbs ∧
      ((unitsAt k neg m e - unitsAt k rn rm re).natAbs = (unitsAt k neg m e - unitsAt k on om oe).natAbs →
        unitsAt k rn rm re ≠ unitsAt k on om oe → f.round 0 false false (.fin neg m e false) % 2 = 0))

/-- R192: the FP32 words complete with the exact result of the modified sources rounded once to FP32 in the word's mode,
under the band's FTZ (R95): FADD, FSUB, FMUL, FFMA and FRND in their register at once, the eight others by a late result into a
register that is empty until it comes (R175). R84: an FP32 word that reads a NaN writes the canonical NaN 0x7FC00000, whatever the
payload, the sign and the modifiers. R96: the special values of the functions of one source. -/
def Obligations.FloatResults : Prop :=
  (Family .fadd (fun f s tid t => fop f (fun a b _ => sumNums f.rm.toNat [a, b]) s tid t) ∧
  Family .fsub (fun f s tid t => fop f (fun a b _ => sumNums f.rm.toNat [a, b.negate]) s tid t) ∧
  Family .fmul (fun f s tid t => fop f (fun a b _ => a.mul b) s tid t) ∧
  Family .ffma (fun f s tid t => fop f (fun a b c => sumNums f.rm.toNat [a.mul b, c]) s tid t) ∧
  Family .frnd (fun f s tid t => fop f (fun a _ _ => a.toIntegral f.rm.toNat) s tid t) ∧
  LateFamily .frcp (fun a => a.recip) ∧ LateFamily .frsq (fun a => a.rsqrt) ∧ LateFamily .fsqrt (fun a => a.sqrt) ∧
  LateFamily .fex2 (fun a => a.exp2) ∧ LateFamily .flg2 (fun a => a.log2) ∧ LateFamily .fsin (fun a => a.trig false) ∧
  LateFamily .fcos (fun a => a.trig true) ∧ LateFamily .ftanh (fun a => a.tanh)) ∧
  ((∀ (f : RFmt) (s : State) (tid : Nat) (t : Thread),
    (isNanCode (t.reg f.a.toNat) ∨ isNanCode (t.reg f.b.toNat)) →
    fop f (fun a b _ => sumNums f.rm.toNat [a, b]) s tid t = t.setReg f.d.toNat 0x7FC00000 ∧
    fop f (fun a b _ => sumNums f.rm.toNat [a, b.negate]) s tid t = t.setReg f.d.toNat 0x7FC00000 ∧
    fop f (fun a b _ => a.mul b) s tid t = t.setReg f.d.toNat 0x7FC00000) ∧
  (∀ (f : RFmt) (s : State) (tid : Nat) (t : Thread),
    (isNanCode (t.reg f.a.toNat) ∨ isNanCode (t.reg f.b.toNat) ∨ isNanCode (t.reg f.c.toNat)) →
    fop f (fun a b c => sumNums f.rm.toNat [a.mul b, c]) s tid t = t.setReg f.d.toNat 0x7FC00000) ∧
  (∀ (f : RFmt) (s : State) (tid : Nat) (t : Thread), isNanCode (t.reg f.a.toNat) →
    fop f (fun a _ _ => a.toIntegral f.rm.toNat) s tid t = t.setReg f.d.toNat 0x7FC00000 ∧
    ∀ g ∈ [(fun a => a.recip : Machine.Num → Machine.Num), fun a => a.rsqrt, fun a => a.sqrt, fun a => a.exp2, fun a => a.log2,
      fun a => a.trig false, fun a => a.trig true, fun a => a.tanh], fword f (fun a _ _ => g a) s tid t = 0x7FC00000)) ∧
  (∀ (f : RFmt) (s : State) (tid : Nat) (t : Thread), f.mod = 0 →
    let w := t.reg f.a.toNat
    (w = 0 → fword f (fun a _ _ => a.recip) s tid t = 0x7F800000 ∧ fword f (fun a _ _ => a.log2) s tid t = 0xFF800000) ∧
    (w = 0x80000000 → fword f (fun a _ _ => a.recip) s tid t = 0xFF800000 ∧ fword f (fun a _ _ => a.rsqrt) s tid t = 0xFF800000 ∧
      fword f (fun a _ _ => a.log2) s tid t = 0xFF800000) ∧
    (w = 0x7F800000 → fword f (fun a _ _ => a.trig false) s tid t = 0x7FC00000 ∧
      fword f (fun a _ _ => a.trig true) s tid t = 0x7FC00000 ∧ fword f (fun a _ _ => a.tanh) s tid t = 0x3F800000) ∧
    (w = 0xFF800000 → fword f (fun a _ _ => a.exp2) s tid t = 0 ∧ fword f (fun a _ _ => a.trig false) s tid t = 0x7FC00000 ∧
      fword f (fun a _ _ => a.trig true) s tid t = 0x7FC00000 ∧ fword f (fun a _ _ => a.tanh) s tid t = 0xBF800000))

/-- R193, R194, R196: minimum and maximum, comparison and class complete with what the codes of their sources, flushed and modified,
say: a NaN yields the other source, two NaNs the canonical one, -0 lies below +0 for a minimum or maximum and equals it in a
comparison; a class is the one bit of its table, of the unflushed source.
R197, R198: the packed words write each half of g[D] from the same halves of their sources, rounded once, minimum and maximum as
FMIN and FMAX; a NaN half of a source gives the canonical NaN in its own half and in no other. IDP4 adds four exact products of bytes;
FDP2 rounds the exact sum of two products and c once, and gives the canonical NaN for a NaN among its sources and for infinities of
opposite sign. -/
def Obligations.FloatSelectionAndPackedResults : Prop :=
  ((∃ w : Bool → RFmt → State → Nat → Thread → Word,
    Family .fmin (fun f s tid t => t.setReg f.d.toNat (w false f s tid t)) ∧
    Family .fmax (fun f s tid t => t.setReg f.d.toNat (w true f s tid t)) ∧
    ∀ greater f s tid t, Picks (8, 23) 0x7FC00000 greater (codeSource (8, 23) (s.ftz tid) f.mod 0 (t.reg f.a.toNat).toNat)
      (codeSource (8, 23) (s.ftz tid) f.mod 1 (t.reg f.b.toNat).toNat) (w greater f s tid t).toNat) ∧
  (∀ f s, Issuing (.fclass f) s → AllPass (.fclass f) s noCheck → Completes (.fclass f) s (fun _ t =>
    t.setReg f.d.toNat (BitVec.ofNat 32 (2 ^ codeClass (fieldsOf f.ty) (t.reg f.a.toNat).toNat)))) ∧
  (∀ f s, Issuing (.fcmp f) s → AllPass (.fcmp f) s noCheck →
    let holds := fun (tid : Nat) (t : Thread) => holdsFloat (8, 23) (f.fn.extractLsb' 0 3)
      (codeSource (8, 23) (s.ftz tid) f.mod 0 (t.reg f.a.toNat).toNat) (codeSource (8, 23) (s.ftz tid) f.mod 1 (t.reg f.b.toNat).toNat)
    (f.fn.getLsbD 3 = false → ∃ g, Completes (.fcmp f) s g ∧ ∀ tid t,
      (holds tid t → g tid t = t.setReg f.d.toNat 1) ∧ (¬ holds tid t → g tid t = t.setReg f.d.toNat 0)) ∧
    (f.fn.getLsbD 3 = true → MaskCompletes (.fcmp f) s f.d.toNat (fun l old =>
      let c := holds (s.here l) (s.thread (s.here l))
      if l ∈ s.cur.lanes ∧ selected (.fcmp f) s l = true then
        (if f.fn.extractLsb' 4 2 = 0 then c else if f.fn.extractLsb' 4 2 = 1 then old = true ∧ c else old = true ∨ c)
      else old = true)))) ∧
  (Family .pkadd (fun f s tid t => packedRound f (fun a b _ => sumNums f.rm.toNat [a, b]) s tid t) ∧
  Family .pkmul (fun f s tid t => packedRound f (fun a b _ => a.mul b) s tid t) ∧
  Family .pkfma (fun f s tid t => packedRound f (fun a b c => sumNums f.rm.toNat [a.mul b, c]) s tid t) ∧
  (∀ p ∈ [(Instr.pkadd, (fun f => fun a b _ => sumNums f.rm.toNat [a, b] : RFmt → Machine.Num → Machine.Num → Machine.Num → Machine.Num),
      false), (.pkmul, fun _ => fun a b _ => a.mul b, false), (.pkfma, fun f => fun a b c => sumNums f.rm.toNat [a.mul b, c], true)],
    ∀ f, legal (p.1 f) = true → (f.ty = 9 ∨ f.ty = 10) ∧ ∀ s tid t, ∃ w : Word, packedRound f (p.2.1 f) s tid t = t.setReg f.d.toNat w ∧
      ∀ h, h < 2 → (codeNan (fieldsOf f.ty) (half16 (t.reg f.a.toNat) h) ∨ codeNan (fieldsOf f.ty) (half16 (t.reg f.b.toNat) h) ∨
        p.2.2 = true ∧ codeNan (fieldsOf f.ty) (half16 (t.reg f.c.toNat) h)) → half16 w h = canonOf f.ty)) ∧
  (∃ w : Bool → RFmt → State → Nat → Thread → Word,
    Family .pkmin (fun f s tid t => t.setReg f.d.toNat (w false f s tid t)) ∧
    Family .pkmax (fun f s tid t => t.setReg f.d.toNat (w true f s tid t)) ∧
    ∀ greater f s tid t, f.ty = 9 ∨ f.ty = 10 → ∀ h, h < 2 →
      let z := s.ftz tid && f.ty == 10
      Picks (fieldsOf f.ty) (canonOf f.ty) greater (codeSource (fieldsOf f.ty) z f.mod 0 (half16 (t.reg f.a.toNat) h))
        (codeSource (fieldsOf f.ty) z f.mod 1 (half16 (t.reg f.b.toNat) h)) (half16 (w greater f s tid t) h)) ∧
  Family .idp4 (fun f _ _ t =>
    let byte := fun (w : Word) (i : Nat) (signed : Bool) =>
      if signed then (w.extractLsb' (8 * i) 8).toInt else ((w.extractLsb' (8 * i) 8).toNat : Int)
    let p := fun i => byte (t.reg f.a.toNat) i (f.mod.getLsbD 0) * byte (t.reg f.b.toNat) i (f.mod.getLsbD 1)
    let x := operand f.ty t f.c + p 0 + p 1 + p 2 + p 3
    deposit f.ty f.d (if f.sat = 1 then saturated f.ty x else x) t) ∧
  (∃ w : RFmt → State → Nat → Thread → Word, Family .fdp2 (fun f s tid t => t.setReg f.d.toNat (w f s tid t)) ∧
    ∀ f s tid t, legal (.fdp2 f) = true →
      let k := fieldsOf (f.mod.extractLsb' 0 4)
      let a := half16 (t.reg f.a.toNat)
      let b := half16 (t.reg f.b.toNat)
      w f s tid t = BitVec.ofNat 32 (fp32.round f.rm.toNat false (s.ftz tid) (fdp2Sum f (s.ftz tid) t)) ∧
      ((∃ h, h < 2 ∧ (codeNan k (a h) ∨ codeNan k (b h))) ∨ isNanCode (t.reg f.c.toNat) → w f s tid t = 0x7FC00000) ∧
      ∀ h, h < 2 → a h % 2 ^ (k.1 + k.2) = (2 ^ k.1 - 1) * 2 ^ k.2 → (t.reg f.c.toNat).toNat % 2 ^ 31 = 0x7F800000 →
        (t.reg f.c.toNat).msb ≠ (codeSign (k.1 + k.2) (a h) != codeSign (k.1 + k.2) (b h)) → w f s tid t = 0x7FC00000)

/-- R195, R92, R93: FCVT completes; a finite code rounds to an integer in the word's mode, clamped to the target's range, and an integer or
a finite code rounds once into a floating target; from FP32, a NaN, an infinity, a zero and every magnitude that SAT clamps go where the tables
say, in every rounding mode; a conversion to E2M1 without SAT is no legal word; an E8M0 code becomes the FP32 power of two that it
stands for, code 0 (2 to the -127) a zero under FTZ. -/
def Obligations.ConversionResults : Prop :=
  (∀ f : RFmt, legal (.fcvt f) = true → f.fn = 0 ∧ f.mod.extractLsb' 4 5 = 0 ∧ (8 ≤ f.ty.toNat ∨ 8 ≤ (f.mod.extractLsb' 0 4).toNat) ∧
    (f.ty = 13 → f.sat = 1) ∧ (f.ty = 14 → f.rm = 0 ∧ f.sat = 0)) ∧
  ∃ g : RFmt → State → Nat → Thread → Thread, Family .fcvt g ∧
    (∀ f s tid, legal (.fcvt f) = true → f.mod.extractLsb' 0 4 = 8 → Converts f (g f s tid)) ∧
    (∀ f s tid, legal (.fcvt f) = true → ConvertsFinite f (s.ftz tid) (g f s tid)) ∧
    ∀ f s tid t, legal (.fcvt f) = true → f.mod.extractLsb' 0 4 = 14 → f.ty = 8 → f.sat = 0 →
      let c : Byte := (t.reg f.a.toNat).extractLsb' 0 8
      g f s tid t = t.setReg f.d.toNat (if c = 255 then 0x7FC00000 else if c ≠ 0 then c.setWidth 32 <<< 23
        else if s.ftz tid = true then 0 else 0x00400000)

/-! ## Masks, votes and shuffles (01 R17-R22, 06 R199-R202) -/

/-- R200-R202: masks written as a whole, counts and lanes of masks, votes over the performing threads of the bundle, and
shuffles that read every source before any destination is written. -/
def Obligations.MaskAndVoteResults : Prop :=
  (∀ f s, Issuing (.mset f) s → AllPass (.mset f) s noCheck → performers (.mset f) s ≠ [] →
    MaskCompletes (.mset f) s f.d.toNat (fun l _ => hasLane
      (if f.fn = 0 then (s.band s.cur.bid).sreg f.a.toNat else (s.thread (lowest 0 (performers (.mset f) s))).reg f.a.toNat) l
      = true)) ∧
  (∀ f s, Issuing (.mops f) s → AllPass (.mops f) s noCheck → performers (.mops f) s ≠ [] →
    MaskCompletes (.mops f) s f.d.toNat (fun l _ =>
      let a := hasLane (s.readMask s.cur f.a.toNat) l
      let b := hasLane (s.readMask s.cur f.b.toNat) l
      (if f.fn = 0 then a && b else if f.fn = 1 then a || b else if f.fn = 2 then a != b else if f.fn = 3 then a && !b
       else a) = true)) ∧
  Family .mpop (fun f s tid t =>
    let m := (s.readMask s.cur f.a.toNat).toNat
    t.setReg f.d.toNat (BitVec.ofNat 32 (if f.fn = 0 then onesOf 32 m else onesOf (laneOf tid) m))) ∧
  (∀ f s, Issuing (.mffs f) s → AllPass (.mffs f) s noCheck → ∃ n : Nat,
    Completes (.mffs f) s (fun _ t => t.setReg f.d.toNat (BitVec.ofNat 32 n)) ∧
    (n = 32 ↔ ∀ l, l < 32 → hasLane (s.readMask s.cur f.a.toNat) l = false) ∧
    (n ≠ 32 → n < 32 ∧ hasLane (s.readMask s.cur f.a.toNat) n = true ∧ ∀ l, l < 32 →
      hasLane (s.readMask s.cur f.a.toNat) l = true → if f.fn = 0 then n ≤ l else l ≤ n)) ∧
  (∀ f s, Issuing (.poll f) s → AllPass (.poll f) s noCheck → ∃ w : Word,
    Completes (.poll f) s (fun _ t => t.setReg f.d.toNat w) ∧
    (f.fn = 0 → w = BitVec.ofNat 32 ((voters (.poll f) s f.a.toNat).filter (fun v => v.2 != 0)).length) ∧
    (f.fn = 1 → performers (.poll f) s ≠ [] → (w = 1 ∨ w = 0) ∧ (w = 1 ↔ ∀ v ∈ voters (.poll f) s f.a.toNat, v.2 ≠ 0)) ∧
    (f.fn = 2 → performers (.poll f) s ≠ [] → (w = 1 ∨ w = 0) ∧ (w = 1 ↔ ∃ v ∈ voters (.poll f) s f.a.toNat, v.2 ≠ 0)) ∧
    (f.fn = 3 → performers (.poll f) s ≠ [] → (w = 1 ∨ w = 0) ∧
      (w = 1 ↔ ∀ v ∈ voters (.poll f) s f.a.toNat, ∀ v' ∈ voters (.poll f) s f.a.toNat, v.2 = v'.2)) ∧
    (f.fn = 4 → performers (.poll f) s ≠ [] →
      w = BitVec.ofNat 32 (lowest 32 (((voters (.poll f) s f.a.toNat).filter (fun v => v.2 != 0)).map (·.1))))) ∧
  (∀ f s, Issuing (.lbits f) s → AllPass (.lbits f) s noCheck → performers (.lbits f) s ≠ [] →
    ∀ votes : Word, (∀ l, l < 32 → (hasLane votes l = true ↔
      ∃ v ∈ voters (.lbits f) s f.a.toNat, v.1 = l ∧ v.2 ≠ 0)) →
    (f.fn = 0 → Completes (.lbits f) s (fun _ t => t.setReg f.d.toNat votes)) ∧
    (f.fn = 1 → MaskCompletes (.lbits f) s f.d.toNat (fun l _ => hasLane votes l = true))) ∧
  (∀ f s, Issuing (.xlane f) s → AllPass (.xlane f) s noCheck → Completes (.xlane f) s (fun tid t =>
    let l : Int := laneOf tid
    let j := t.reg f.b.toNat
    let w : Int := 2 ^ (f.mod.extractLsb' 0 3).toNat
    let q : Int :=
      if f.fn = 0 then (j.extractLsb' 0 5).toNat
      else if f.fn = 1 then l + j.toInt
      else if f.fn = 2 then Int.fdiv l w * w + Int.fmod (l + j.toNat) w
      else ((laneOf tid ^^^ (j.extractLsb' 0 5).toNat : Nat) : Int)
    t.setReg f.d.toNat
      (if 0 ≤ q ∧ q < 32 ∧ q.toNat ∈ s.cur.lanes ∧ selected (.xlane f) s q.toNat = true then
        (s.thread (s.here q.toNat)).reg f.a.toNat else t.reg f.c.toNat)))

/-! ## Control (01 R14-R28, 06 R203-R210) -/

/-- R153, R203-R205, R24, R25: branches, calls and returns. A taken CALL pushes PC + 8, and where four entries are on chip
it spills the oldest to CSP - 8 of the private space with a plain store; RET pops, or refills from CSP and waits. R26,
R163: a BRX whose target is no multiple of 8 traps 0x04 with the target as TVAL; RET with no entry and CSP at the top of
the spill area traps 0x0D with TVAL 0; a CALLX that would spill below 8 traps 0x0D with TVAL = CSP. Nothing else happens. -/
def Obligations.BranchesCallsAndReturns : Prop :=
  ((∀ f s, Issuing (.bra f) s → AllPass (.bra f) s noCheck → Completes (.bra f) s (fun _ t =>
    let v := if f.cnd.getLsbD 4 then (s.band s.cur.bid).sreg f.a.toNat else t.reg f.a.toNat
    if branchCond (f.cnd.extractLsb' 0 4).toNat v then { t with pc := s.cur.pc + f.off.signExtend 64 * 8 }
    else t)) ∧
  (∀ f s, Issuing (.brx f) s → AllPass (.brx f) s noCheck →
    (∀ tid ∈ performers (.brx f) s, ((s.thread tid).reg64 f.a.toNat).toNat % 8 = 0) →
    Completes (.brx f) s (fun _ t => { t with pc := t.reg64 f.a.toNat })) ∧
  (∀ f s, Issuing (.call f) s → AllPass (.call f) s (fun x tid => if taken f x tid then x.pushCheck tid else .pass) →
    ∃ t, exec (.call f) s = .next t ∧ OnlyWalks s t ∧
      BundleStep (.call f) s t (fun tid t =>
        if taken f s tid then
          { t with pc := s.cur.pc + f.off.signExtend 64 * 8,
                   stack := (if t.stack.length < 4 then t.stack else t.stack.drop 1) ++ [s.cur.pc + 8],
                   csp := if t.stack.length < 4 then t.csp else t.csp - 8 }
        else t) ∧
      ∀ tid ∈ performers (.call f) s, taken f s tid = true → 4 ≤ (s.thread tid).stack.length →
        WriteInFlight t tid (fun r => r.kind = .store ∧ r.st = 0 ∧ r.rel = false)
          ((s.privBytes tid ((s.thread tid).csp.toNat - 8) 8).addrs.zip (toBytes 8 ((s.thread tid).stack.headD 0).toNat))) ∧
  (∀ f s, Issuing (.callx f) s → AllPass (.callx f) s
      (fun x tid => (targetCheck ((x.thread tid).reg64 f.a.toNat)).andThen (x.pushCheck tid)) →
    ∃ t, exec (.callx f) s = .next t ∧ OnlyWalks s t ∧
      BundleStep (.callx f) s t (fun _ t =>
        { t with pc := t.reg64 f.a.toNat,
                 stack := (if t.stack.length < 4 then t.stack else t.stack.drop 1) ++ [s.cur.pc + 8],
                 csp := if t.stack.length < 4 then t.csp else t.csp - 8 }) ∧
      ∀ tid ∈ performers (.callx f) s, 4 ≤ (s.thread tid).stack.length →
        WriteInFlight t tid (fun r => r.kind = .store ∧ r.st = 0 ∧ r.rel = false)
          ((s.privBytes tid ((s.thread tid).csp.toNat - 8) 8).addrs.zip (toBytes 8 ((s.thread tid).stack.headD 0).toNat))) ∧
  (∀ f s, Issuing (.ret f) s → AllPass (.ret f) s noCheck →
    (∀ tid ∈ performers (.ret f) s, ∃ x, (s.thread tid).stack.getLast? = some x ∧ x.toNat % 8 = 0) →
    Completes (.ret f) s (fun _ t => { t with pc := t.stack.getLast?.getD 0, stack := t.stack.dropLast })) ∧
  (∀ f s l, Issuing (.ret f) s → s.cur.lanes = [l] → selected (.ret f) s l = true → AllPass (.ret f) s State.popCheck →
    (s.thread (s.here l)).stack = [] →
    ∃ t id, exec (.ret f) s = .next t ∧ OnlyWalks s t ∧
      t.thread (s.here l) = { s.thread (s.here l) with pc := s.cur.pc, wait := .refill id } ∧
      ((∃ r ∈ t.reqs, r.id = id ∧ r.kind = .refill ∧ ∃ p ∈ r.parts, p.tid = s.here l ∧
          p.addrs = (s.privBytes (s.here l) (s.thread (s.here l)).csp.toNat 8).addrs) ∨ ∃ x ∈ t.lates, x.id = id))) ∧
  ((∀ f s l, Issuing (.brx f) s → s.cur.lanes = [l] → selected (.brx f) s l = true → verdict (.brx f) s noCheck l = .pass →
    ((s.thread (s.here l)).reg64 f.a.toNat).toNat % 8 ≠ 0 →
    exec (.brx f) s =
      .next ((s.raise (s.here l) 0x04 ((s.thread (s.here l)).reg64 f.a.toNat)).keepBundle s.cur.bid [l])) ∧
  (∀ f s l, Issuing (.callx f) s → s.cur.lanes = [l] → selected (.callx f) s l = true → verdict (.callx f) s noCheck l = .pass →
    ((s.thread (s.here l)).reg64 f.a.toNat).toNat % 8 = 0 → 4 ≤ (s.thread (s.here l)).stack.length →
    (s.thread (s.here l)).csp.toNat < 8 →
    exec (.callx f) s =
      .next ((s.raise (s.here l) 0x0D ((s.thread (s.here l)).csp.setWidth 64)).keepBundle s.cur.bid [l])) ∧
  (∀ f s l, Issuing (.ret f) s → s.cur.lanes = [l] → selected (.ret f) s l = true → verdict (.ret f) s noCheck l = .pass →
    (s.thread (s.here l)).stack = [] → (s.band s.cur.bid).spilltop ≤ (s.thread (s.here l)).csp →
    exec (.ret f) s = .next ((s.raise (s.here l) 0x0D 0).keepBundle s.cur.bid [l])))

/-- R206-R210: NOP, YIELD, SLEEP, CLK, SREG and EXIT. YIELD and SLEEP 0 act as NOP on a tile; a SLEEP holds the thread at the
word; CLK reads the clocks since the unit's die left reset, and on a management core, which lies on no die, the package's clock, which is
the model's reading (log 80); EXIT ends its threads with their call stack, version set and handles. -/
def Obligations.OtherControlResults : Prop :=
  Family .nop (fun _ _ _ t => t) ∧
  Family .yield (fun _ s _ t => if s.cur.u < 1024 then { t with wait := .regroup } else t) ∧
  FamilyI .sleep (fun f s _ t =>
    if f.imm = 0 then (if s.cur.u < 1024 then { t with wait := .regroup } else t)
    else { t with pc := s.cur.pc, wait := .sleep (s.clock + f.imm.toNat) }) ∧
  Family .clk (fun f s _ t =>
    t.setReg64 f.d.toNat (BitVec.ofNat 64 (s.clock - if 2048 ≤ s.cur.u then 0 else (s.die (s.cur.u / 256)).start))) ∧
  (∀ f s, Issuing (.sreg f) s → AllPass (.sreg f) s noCheck → ∃ v : Nat → Nat,
    Completes (.sreg f) s (fun tid t => t.setReg f.d.toNat (BitVec.ofNat 32 (v tid))) ∧
    ∀ tid ∈ performers (.sreg f) s,
      let b := s.band s.cur.bid
      let k := s.team b.team
      let d := (s.launch k.lid).desc
      let t := s.thread tid
      (f.imm = 0 → v tid = tid % 32) ∧ (f.imm = 1 → v tid = b.index) ∧ (f.imm = 2 → v tid = k.x) ∧ (f.imm = 3 → v tid = k.y) ∧
      (f.imm = 4 → v tid = k.z) ∧ (f.imm = 5 → v tid = d.gx) ∧ (f.imm = 6 → v tid = d.gy) ∧ (f.imm = 7 → v tid = d.gz) ∧
      (f.imm = 8 → s.cur.u < 1024 → v tid = s.cur.u + 2048 * (s.cur.bid % 64 % 4)) ∧
      (f.imm = 8 → 1024 ≤ s.cur.u → s.cur.u < 2048 → v tid = s.cur.u) ∧
      (f.imm = 9 → v tid = b.lanes) ∧ (f.imm = 10 → v tid = k.lid % 2 ^ 32) ∧ (f.imm = 11 → v tid = b.fpmode.toNat) ∧
      (f.imm = 12 → v tid = s.budget s.cur.u k.lid) ∧ (f.imm = 13 → v tid = if s.cur.u < 1024 then b.psize else 0) ∧
      (f.imm = 14 → v tid = k.alloc) ∧ (f.imm = 15 → v tid = t.csp.toNat) ∧ (f.imm = 16 → v tid = t.stack.length) ∧
      (f.imm = 17 → v tid = t.vset.length + if t.vover then 16 else 0)) ∧
  (∀ f s, Issuing (.exit f) s → AllPass (.exit f) s (fun x t => x.storeError t (fun _ => true)) →
    (∀ tid ∈ performers (.exit f) s, (s.thread tid).exited = false) →
    (∀ tid ∈ performers (.exit f) s, s.faultsOf tid = []) →
    ∃ t, exec (.exit f) s = .next t ∧ (∀ tid ∈ performers (.exit f) s,
      (t.thread tid).exited = true ∧ (t.thread tid).stack = [] ∧ (t.thread tid).vset = [] ∧ (t.thread tid).h = [] ∧
      (t.thread tid).wait = .none ∧ (t.thread tid).parked = none ∧ ∀ x ∈ t.lates, x.tid ≠ tid) ∧
      let k := (s.band s.cur.bid).team
      ((∀ m ∈ s.boxesOf k, m.holds = false) → (s.team k).boxes = [] → t.mem = s.mem)) ∧
  (∀ f s l q e, Issuing (.exit f) s → s.cur.lanes = [l] → selected (.exit f) s l = true →
    AllPass (.exit f) s (fun x t => x.storeError t (fun _ => true)) → (s.thread (s.here l)).exited = false → s.cur.u < 1024 →
    s.firstFault (s.here l) = some (q, e) →
    ∃ t, exec (.exit f) s = .next t ∧ (t.thread (s.here l)).exited = true ∧ (t.queue q).reported = true ∧
      ∃ n ∈ (t.core s.cur.u).notices, n.flags = 2 ∧ n.cause = e.faultOf.1 ∧ n.tval = e.faultOf.2 ∧ n.pc = e.addr ∧ n.lane = l)

/-! ## Traps and checks (05 R159, R160, 13 R313-R318) -/

/-- R207, R314, R337: TRAP, BKPT and SVC with a handler and INH 0 save the address of the word in TPC, the cause in TCAUSE
and SignExtend(IMM24) in TVAL, move PRV to PPRV, raise PRV to 1 unless it is 2, set INH, and go to TVEC; nothing else
changes. R315, R28, R318: a TRAP, BKPT or SVC of one thread of a shader core with no handler, or inside a trap, parks
it at the word with D set, its registers unchanged, and its core holds a notice of the cause, the value and the pc. R315: on a tile's
control thread or a management core the team ends instead, its launch records failed, and its unit holds such a notice with D. -/
def Obligations.TrapWords : Prop :=
  (∀ f s, ∀ p ∈ [(Instr.trap f, (0x11 : DWord)), (.bkpt f, 0x12), (.svc f, 0x17)],
    Issuing p.1 s → AllPass p.1 s noCheck → (∀ tid ∈ performers p.1 s, (s.thread tid).inh = false) →
    (s.band s.cur.bid).tvec &&& 0x000FFFFFFFFFFFF8 ≠ 0 →
    ∃ t, exec p.1 s = .next t ∧ OnlyBundle s t ∧ ∀ l ∈ s.cur.lanes, t.thread (s.here l) =
      let x := s.thread (s.here l)
      if selected p.1 s l then
        { x with tpc := x.pc &&& 0x000FFFFFFFFFFFF8, tcause := p.2, tval := f.imm.signExtend 64, pprv := x.prv,
                 prv := if x.prv = 2 then 2 else 1, inh := true, wait := .none,
                 pc := (s.band s.cur.bid).tvec &&& 0x000FFFFFFFFFFFF8 }
      else x.advance) ∧
  (∀ f s l, ∀ p ∈ [(Instr.trap f, 0x11), (.bkpt f, 0x12), (.svc f, 0x17)],
    Issuing p.1 s → s.cur.lanes = [l] → selected p.1 s l = true → AllPass p.1 s noCheck → s.cur.u < 1024 →
    ((s.thread (s.here l)).inh = true ∨ (s.band s.cur.bid).tvec &&& 0x000FFFFFFFFFFFF8 = 0) →
    ∃ t n, exec p.1 s = .next t ∧
      t.thread (s.here l) = { s.thread (s.here l) with parked := some ⟨p.2, f.imm.signExtend 64, true⟩, wait := .none } ∧
      (t.core s.cur.u).notices = (s.core s.cur.u).notices ++ [n] ∧ n.cause = p.2 ∧ n.flags = 1 ∧
      n.tval = f.imm.signExtend 64 ∧ n.pc = (s.thread (s.here l)).pc ∧ n.lane = l ∧ n.slot = s.cur.bid % 64 ∧ t.mem = s.mem) ∧
  (∀ f s l, ∀ p ∈ [(Instr.trap f, 0x11), (.bkpt f, 0x12), (.svc f, 0x17)],
    Issuing p.1 s → s.cur.lanes = [l] → selected p.1 s l = true → AllPass p.1 s noCheck → 1024 ≤ s.cur.u →
    ((s.thread (s.here l)).inh = true ∨ (s.band s.cur.bid).tvec &&& 0x000FFFFFFFFFFFF8 = 0) →
    let k := (s.band s.cur.bid).team
    (find? k s.teams).isSome = true → (s.team k).done = false → (find? (s.team k).lid s.launches).isSome = true →
    ∃ t, exec p.1 s = .next t ∧ (t.team k).done = true ∧ (t.launch (s.team k).lid).status = 3 ∧
      ∃ n ∈ (t.core s.cur.u).notices, n.cause = p.2 ∧ n.flags = 1 ∧ n.tval = f.imm.signExtend 64 ∧
        n.pc = (s.thread (s.here l)).pc ∧ n.lane = l)

/-- R159, R16, R160: for every instruction word and a bundle of one thread that its mask selects, a check that fails
decides: a trap of checks 4 to 6 is raised with its cause and value and nothing of the word's effect, a source or
destination that is empty keeps the thread at the word, and a lane mask select that is reserved, or names a mask off a
shader core, traps 0x01. R158, R159: a word whose opcode is not assigned, in a bundle of one selected thread, raises
trap 0x01 with the word as TVAL: with a handler and INH 0 the thread's next pc is TVEC and its TPC the word's address.
R328, R156: a word of class P below level 1, and DRST and STEST below level 2, raise trap 0x02 with the word as TVAL
and have no effect, on every unit that runs the class. R219, R213, R28: after those checks a memory word of one thread with no deferred
store error traps at the first check of R219 that fails: in the global space 0x05 for an invalid handle with its number, then 0x04, 0x05,
0x08 and 0x09 with the effective address; a pending handle keeps the thread at the word; on a shader core whose thread has a handler and
INH 0, a revoked or faulted handle parks it at the word, its registers unchanged, with a notice of 0x06 or 0x07 and the handle's base. In
the other spaces it traps 0x04, 0x05 and 0x08 with the space address. -/
def Obligations.ChecksComeBeforeEffects : Prop :=
  ((∀ i s l, Issuing i s → s.cur.lanes = [l] → selected i s l = true → ∀ cause tval,
    laneCheck i s.cur.word s.cur.u (s.band s.cur.bid).nregs (s.thread (s.here l)) = .trap cause tval →
    exec i s = .next ((s.raise (s.here l) cause tval).keepBundle s.cur.bid [l])) ∧
  (∀ i s l, Issuing i s → s.cur.lanes = [l] → selected i s l = true →
    laneCheck i s.cur.word s.cur.u (s.band s.cur.bid).nregs (s.thread (s.here l)) = .wait →
    exec i s = .next (s.keepBundle s.cur.bid [])) ∧
  (∀ i s l ms, msOf i = some ms → maskSelectOk ms s.cur.u = false → s.cur.lanes = [l] →
    exec i s = .next ((s.raise (s.here l) 0x01 s.cur.word).keepBundle s.cur.bid [l]))) ∧
  (∀ w s l, Issuing (.unassignedOpcode w) s → s.cur.word = w → s.cur.lanes = [l] → selected (.unassignedOpcode w) s l = true →
    (s.thread (s.here l)).inh = false → (s.band s.cur.bid).tvec &&& 0x000FFFFFFFFFFFF8 ≠ 0 →
    ∃ t, exec (.unassignedOpcode w) s = .next t ∧ OnlyBundle s t ∧
      (t.thread (s.here l)).pc = (s.band s.cur.bid).tvec &&& 0x000FFFFFFFFFFFF8 ∧ (t.thread (s.here l)).tcause = 1 ∧
      (t.thread (s.here l)).tval = w ∧ (t.thread (s.here l)).tpc = (s.thread (s.here l)).pc &&& 0x000FFFFFFFFFFFF8 ∧
      (t.thread (s.here l)).g = (s.thread (s.here l)).g) ∧
  (∀ i s l, Issuing i s → s.cur.lanes = [l] → selected i s l = true → fits i s.cur.u (s.band s.cur.bid).nregs = true →
    (classOf i = some .p ∧ (s.thread (s.here l)).prv = 0 ∨
      (∃ f, i = .drstQuiesce f ∨ i = .drstFlush f ∨ i = .drstCore f ∨ i = .drstAdmit f ∨ i = .drstEngine f ∨ i = .stest f) ∧
        (s.thread (s.here l)).prv < 2) →
    exec i s = .next ((s.raise (s.here l) 0x02 s.cur.word).keepBundle s.cur.bid [l])) ∧
  (∀ f s l, ∀ p ∈ [(Instr.ldg f, true, true, false, false), (.stg f, true, false, true, false), (.mcst f, true, false, true, false),
      (.ldv f, true, true, false, true), (.casv f, false, true, true, true), (.atom f, false, true, true, false),
      (.red f, false, true, true, false), (.evsig f, true, true, true, false), (.evwait f, true, true, false, false)],
    Issuing p.1 s → s.cur.lanes = [l] → selected p.1 s l = true → verdict p.1 s noCheck l = .pass → f.sp = 4 →
    (s.thread (s.here l)).serr = none →
    let x := s.thread (s.here l)
    let h := x.hdl f.a.toNat
    let ea := h.base + globalOff x f p.2.1
    let n := 2 ^ f.sz.toNat
    let stops := fun (cause : Nat) (v : DWord) => exec p.1 s = .next ((s.raise (s.here l) cause v).keepBundle s.cur.bid [l])
    (h.st = .invalid → stops 0x05 (BitVec.ofNat 64 f.a.toNat)) ∧
    ((h.st = .revoked ∨ h.st = .faulted) → s.cur.u < 1024 → x.inh = false →
      (s.band s.cur.bid).tvec &&& 0x000FFFFFFFFFFFF8 ≠ 0 →
      let cause := if h.st = .revoked then 6 else 7
      ∃ t m, exec p.1 s = .next t ∧ t.thread (s.here l) = { x with parked := some ⟨cause, h.base, false⟩, wait := .none } ∧
        (t.core s.cur.u).notices = (s.core s.cur.u).notices ++ [m] ∧ m.cause = cause ∧ m.flags = 0 ∧ m.tval = h.base ∧ m.pc = x.pc ∧
        m.lane = l ∧ t.mem = s.mem ∧ t.reqs = s.reqs) ∧
    (h.st = .valid →
      (ea.toNat % n ≠ 0 → stops 0x04 ea) ∧
      (ea.toNat % n = 0 → inPage h ea.toNat n = false → stops 0x05 ea) ∧
      (ea.toNat % n = 0 → inPage h ea.toNat n = true →
        (p.2.2.1 = true ∧ h.leaf.r = false ∨ p.2.2.2.1 = true ∧ h.leaf.w = false → stops 0x08 ea) ∧
        ((p.2.2.1 = false ∨ h.leaf.r = true) → (p.2.2.2.1 = false ∨ h.leaf.w = true) → p.2.2.2.2 = true → h.leaf.reps ≠ [] →
          stops 0x09 ea)))) ∧
  (∀ f s l, ∀ i ∈ [Instr.ldg f, .stg f, .mcst f, .ldv f, .casv f, .atom f, .red f, .evsig f, .evwait f],
    Issuing i s → s.cur.lanes = [l] → selected i s l = true → fits i s.cur.u (s.band s.cur.bid).nregs = true → f.sp = 4 →
    ((s.thread (s.here l)).hdl f.a.toNat).st = .pending → exec i s = .next (s.keepBundle s.cur.bid [])) ∧
  (∀ f s l, ∀ p ∈ [(Instr.ldl f, false), (.stl f, true), (.lds f, false), (.sts f, true), (.ldc f, false), (.stc f, true),
      (.ldp f, false), (.stp f, true)],
    Issuing p.1 s → s.cur.lanes = [l] → selected p.1 s l = true → verdict p.1 s noCheck l = .pass → (s.thread (s.here l)).serr = none →
    let a := spaceAddr (s.thread (s.here l)) f true
    let n := 2 ^ f.sz.toNat
    let stops := fun (cause : Nat) => exec p.1 s = .next ((s.raise (s.here l) cause (BitVec.ofNat 64 a)).keepBundle s.cur.bid [l])
    (a % n ≠ 0 → stops 0x04) ∧
    (a % n = 0 → (f.sp = 0 ∧ (s.band s.cur.bid).psize < a + n ∨ f.sp = 1 ∧ (s.team (s.band s.cur.bid).team).alloc < a + n ∨
      f.sp ≠ 0 ∧ s.spaceBytes (s.here l) f.sp.toNat a n = none) → stops 0x05) ∧
    (a % n = 0 → f.sp = 0 → a + n ≤ (s.band s.cur.bid).psize → s.privOk (s.here l) a n p.2 = false → stops 0x08))

/-! ## Joins (01 R17-R22) -/

/-- R18-R20: a live member that executes JOIN is added to the arrived set and waits at the word; another thread waits as under
WAITM, or goes on where the mask has no other live member. LEAVE clears the thread's bit and arrival and goes on. -/
def Obligations.JoinLeaveAndWaitm : Prop :=
  (∀ f s, Issuing (.join f) s → AllPass (.join f) s noCheck →
    ∃ t, exec (.join f) s = .next t ∧ t.mem = s.mem ∧
      (∀ l ∈ s.cur.lanes, selected (.join f) s l = true →
        (s.isMember (s.here l) f.a.toNat = true → (t.thread (s.here l)).wait = .join f.a.toNat ∧
          (t.thread (s.here l)).pc = s.cur.pc ∧ hasLane ((t.band s.cur.bid).arr f.a.toNat) l = true) ∧
        (s.isMember (s.here l) f.a.toNat = false → (s.members s.cur.bid f.a.toNat).all (· == l) = false →
          (t.thread (s.here l)).wait = .waitm f.a.toNat ((s.band s.cur.bid).gen f.a.toNat) ∧
          (t.thread (s.here l)).pc = s.cur.pc) ∧
        (s.isMember (s.here l) f.a.toNat = false → (s.members s.cur.bid f.a.toNat).all (· == l) = true →
          t.thread (s.here l) = (s.thread (s.here l)).advance)) ∧
      (∀ l, l < 32 → l ∉ s.cur.lanes →
        hasLane ((t.band s.cur.bid).arr f.a.toNat) l = hasLane ((s.band s.cur.bid).arr f.a.toNat) l) ∧
      (∀ n, (t.band s.cur.bid).mask n = (s.band s.cur.bid).mask n)) ∧
  (∀ f s, Issuing (.leave f) s → AllPass (.leave f) s noCheck →
    ∃ t, exec (.leave f) s = .next t ∧ OnlyMoves s t ∧
      (∀ l, l < 32 →
        (hasLane ((t.band s.cur.bid).mask f.a.toNat) l = (hasLane ((s.band s.cur.bid).mask f.a.toNat) l &&
          !decide (l ∈ s.cur.lanes ∧ selected (.leave f) s l = true))) ∧
        (hasLane ((t.band s.cur.bid).arr f.a.toNat) l = (hasLane ((s.band s.cur.bid).arr f.a.toNat) l &&
          !decide (l ∈ s.cur.lanes ∧ selected (.leave f) s l = true)))) ∧
      (∀ n, n ≠ f.a.toNat → (t.band s.cur.bid).mask n = (s.band s.cur.bid).mask n) ∧
      (∀ n, n ≠ f.a.toNat → (t.band s.cur.bid).arr n = (s.band s.cur.bid).arr n) ∧
      (∀ b, b ≠ s.cur.bid → t.band b = s.band b) ∧
      ({ t.band s.cur.bid with bundle := (s.band s.cur.bid).bundle, m := (s.band s.cur.bid).m,
                               arrived := (s.band s.cur.bid).arrived } : Band) = s.band s.cur.bid ∧
      ({ t with threads := s.threads, bands := s.bands } : State) = s) ∧
  (∀ f s, Issuing (.waitm f) s → AllPass (.waitm f) s noCheck → Completes (.waitm f) s (fun tid t =>
    if (s.members s.cur.bid f.a.toNat).all (· == laneOf tid) then t
    else { t with pc := s.cur.pc, wait := .waitm f.a.toNat ((s.band s.cur.bid).gen f.a.toNat) }))

/-! ## Memory words (04 R106-R142, 07 R213-R238) -/

/-- R220, R222: a load empties its destination and goes on; either its request, with the access's place, bytes, stream and
ordering, is in flight, or the L1 of the core already holds its bytes and the result that carries them is on its way. Which unperformed
stores of other threads such a result showed the thread is the model's own record, kept for R118; a private access also reads the
table entries of its page at their slices (R108, R390). -/
def Obligations.LoadsIssue : Prop :=
  ∀ f s, ∀ i ∈ [Instr.ldl f, .lds f, .ldc f, .ldp f, .ldg f], Issuing i s → AllPass i s (loadCheck f) →
    let n := if f.sz.toNat = 3 then 2 else if f.sz.toNat = 4 then 4 else 1
    ∃ t, exec i s = .next t ∧ (if f.sp = 0 then OnlyWalks s t else OnlyInFlight s t) ∧
      BundleStep i s t (fun tid x => { x.emptyRegs f.d.toNat n with seen := (t.thread tid).seen }) ∧
      ∀ tid ∈ performers i s,
        let x := s.access tid f true
        RequestInFlight t tid f .load x (destsOf f.d.toNat (2 ^ f.sz.toNat)) [] ∨
        ∃ r ∈ t.lates, r.tid = tid ∧ r.mark = 0 ∧ r.words = (destsOf f.d.toNat (2 ^ f.sz.toNat)).map (fun d =>
          (d.1, wordOf (x.addrs.map (fun a => (find? a (s.core s.cur.u).l1).getD 0)) d.2)) ∧
          ∀ a ∈ x.addrs, (find? a (s.core s.cur.u).l1).isSome

/-- R222-R224, R219: a store goes on at once with every byte of its data in flight to the address of its access; a multicast
store's bytes go to the page's primary replica first. No register and no byte of memory changes yet. -/
def Obligations.StoresIssue : Prop :=
  (∀ f s, ∀ i ∈ [Instr.stl f, .sts f, .stc f, .stp f, .stg f], Issuing i s → AllPass i s (storeCheck f) →
    ∃ t, exec i s = .next t ∧ (if f.sp = 0 then OnlyWalks s t else OnlyInFlight s t) ∧ BundleStep i s t (fun _ x => x) ∧
      ∀ tid ∈ performers i s,
        let x := s.access tid f true
        WriteInFlight t tid (fun r => r.kind = .store ∧ r.place = x.place ∧ r.st = f.st.toNat ∧ r.rel = f.ord.getLsbD 1 ∧
            r.scope = f.sc.toNat ∧ r.performed = false)
          (x.addrs.zip (dataBytes (s.thread tid) f.d.toNat (2 ^ f.sz.toNat)))) ∧
  (∀ f s, Issuing (.mcst f) s → AllPass (.mcst f) s (storeCheck f) →
    ∃ t, exec (.mcst f) s = .next t ∧ OnlyInFlight s t ∧ BundleStep (.mcst f) s t (fun _ x => x) ∧
      ∀ tid ∈ performers (.mcst f) s,
        let x := s.access tid f true
        let dst := if x.reps = [] then x.addrs else x.addrs.map (onStackOf · (x.reps.headD 0))
        WriteInFlight t tid (fun r => r.performed = false ∧ ∃ reps, r.kind = if reps = [] then .store else .multi reps)
          (dst.zip (dataBytes (s.thread tid) f.d.toNat (2 ^ f.sz.toNat))))

/-- R225-R231, R236-R238: versioned loads and their validation, compare-and-swap on a version, atomics with and without a
result, and event words issue their requests, their destinations empty; VSET takes and clears the version set.
That an overflowed set with a replicated line traps is the model's choice (log 90). -/
def Obligations.VersionsAndAtomicsIssue : Prop :=
  (∀ f s, Issuing (.ldv f) s → AllPass (.ldv f) s (fun x t => x.memCheck t f true true false true) →
    ∃ t, exec (.ldv f) s = .next t ∧ OnlyInFlight s t ∧
      BundleStep (.ldv f) s t (fun _ x => x.emptyRegs f.d.toNat (destsOf f.d.toNat (2 ^ f.sz.toNat)).length) ∧
      ∀ tid ∈ performers (.ldv f) s, let x := s.access tid f true
        RequestInFlight t tid f (.ldv x.asid x.va) x (destsOf f.d.toNat (2 ^ f.sz.toNat)) []) ∧
  (∀ f s, Issuing (.vset f) s → AllPass (.vset f) s vsetCheck →
    ∃ t, exec (.vset f) s = .next t ∧ OnlyInFlight s t ∧
      BundleStep (.vset f) s t (fun _ x => { x.emptyRegs f.d.toNat 1 with vset := [], vover := false }) ∧
      ∀ tid ∈ performers (.vset f) s,
        ((s.thread tid).vover = true → ∃ r ∈ t.lates, r.tid = tid ∧ r.words = [(f.d.toNat, 2)] ∧ r.mark = 0) ∧
        ((s.thread tid).vover = false → (s.thread tid).vset = [] →
          ∃ r ∈ t.lates, r.tid = tid ∧ r.words = [(f.d.toNat, 0)] ∧ r.mark = 0) ∧
        ((s.thread tid).vover = false → (s.thread tid).vset ≠ [] →
          ∃ r ∈ t.reqs, r.kind = .vset 0 (s.thread tid).vset ∧ ∃ p ∈ r.parts, p.tid = tid ∧ p.dests = [(f.d.toNat, 0)])) ∧
  (∀ f s, Issuing (.casv f) s → AllPass (.casv f) s (rmwCheck f true) →
    ∃ t, exec (.casv f) s = .next t ∧ OnlyInFlight s t ∧ BundleStep (.casv f) s t (fun _ x => x.emptyRegs f.d.toNat 2) ∧
      ∀ tid ∈ performers (.casv f) s, let d := f.d.toNat
        RequestInFlight t tid f (.casv (((s.thread tid).reg64 d).setWidth 40) (2 ^ f.sz.toNat)) (s.access tid f false)
          [(d, 0), (d + 1, 1)] (dataBytes (s.thread tid) (d + 2) (2 ^ f.sz.toNat))) ∧
  (∀ f s, ∀ p ∈ [(Instr.atom f, true), (.atoms f, true), (.red f, false)], Issuing p.1 s → AllPass p.1 s (rmwCheck f false) →
    let dests := if p.2 then destsOf f.d.toNat (2 ^ f.sz.toNat) else []
    ∃ t, exec p.1 s = .next t ∧ OnlyInFlight s t ∧ BundleStep p.1 s t (fun _ x => x.emptyRegs f.d.toNat dests.length) ∧
      ∀ tid ∈ performers p.1 s, RequestInFlight t tid f (.atom (atomOf f (s.thread tid)) p.2) (s.access tid f false) dests []) ∧
  (∀ f s, Issuing (.evsig f) s →
    AllPass (.evsig f) s (fun x t => (x.releaseError t f).andThen (x.memCheck t f true true true false)) →
    ∃ t, exec (.evsig f) s = .next t ∧ OnlyInFlight s t ∧ BundleStep (.evsig f) s t (fun _ x => x) ∧
      ∀ tid ∈ performers (.evsig f) s, RequestInFlight t tid f
        (.atom { code := 0, v := ((s.thread tid).reg f.d.toNat).setWidth 64, cmp := 0, size := 4 } false)
        (s.access tid f true) [] []) ∧
  (∀ f s, Issuing (.evwait f) s → AllPass (.evwait f) s (loadCheck f) →
    ∃ t, exec (.evwait f) s = .next t ∧ OnlyInFlight s t ∧
      ∀ tid ∈ performers (.evwait f) s, ∃ id,
        t.thread tid = { s.thread tid with pc := s.cur.pc, wait := .evwait id ((s.thread tid).reg f.d.toNat) f.d.toNat,
                                            wword := s.cur.word } ∧
        ∃ r ∈ t.reqs, r.id = id ∧ r.kind = .evwait ∧ r.performed = false ∧
          ∃ p ∈ r.parts, p.tid = tid ∧ p.addrs = (s.access tid f true).addrs)

/-- R214-R217, R232: TRN makes a handle pending on a TLB hit 12 clocks away or a walk from the root, or faulted above
2^52; HREL makes it invalid; HQRY reports its state word or base; PREF changes no register and no byte. R214,
R345-R349: a TLB hit makes its handle valid 12 clocks after the TRN; a walk reads its entries and ends valid with its
leaf, or faulted where an entry fails a check, once the network lets its reads through (R408, R412; log 81).
The base of a handle after HREL is the model's choice (log 89). -/
def Obligations.HandlesAndTranslations : Prop :=
  ((∀ f s, Issuing (.trn f) s → AllPass (.trn f) s noCheck →
    ∃ t, exec (.trn f) s = .next t ∧ OnlyBundle s t ∧ ∀ l ∈ s.cur.lanes, selected (.trn f) s l = true →
      let x := (s.thread (s.here l)).advance
      let va := (s.thread (s.here l)).reg64 f.a.toNat
      let asid := s.asidOf (s.here l)
      (2 ^ 52 ≤ va.toNat → t.thread (s.here l) = x.setHdl f.d.toNat { st := .faulted, base := va, asid := asid }) ∧
      (va.toNat < 2 ^ 52 → (s.core s.cur.u).tlbHit asid va.toNat = none →
        t.thread (s.here l) = x.setHdl f.d.toNat
          { st := .pending, base := va, asid := asid, walk := some (3, (s.space asid).root) }) ∧
      (va.toNat < 2 ^ 52 → ∀ e, (s.core s.cur.u).tlbHit asid va.toNat = some e →
        t.thread (s.here l) = x.setHdl f.d.toNat
          { st := .pending, base := va, asid := asid, leaf := e.leaf, due := some (s.clock + 12), tlb := e.id })) ∧
  Family .hrel (fun f _ _ t => t.setHdl f.a.toNat {}) ∧
  Family .hqry (fun f _ _ t =>
    let h := t.hdl f.a.toNat
    let bit := fun (b : Bool) (n : Nat) => if b then 2 ^ n else 0
    if f.fn = 1 then t.setReg64 f.d.toNat h.base
    else t.setReg f.d.toNat (BitVec.ofNat 32 (match h.st with
      | .invalid => 0
      | .pending => 1
      | .faulted => 3
      | .revoked => 4
      | .valid => 2 + 16 * h.leaf.size + bit h.leaf.r 6 + bit h.leaf.w 7 + bit h.leaf.x 8 + 512 * granCode h.leaf.gran +
          bit h.leaf.vd 11 + bit (!h.leaf.reps.isEmpty) 12 + bit h.leaf.c 13 + 16384 * h.leaf.sdef +
          bit (isFabric h.leaf.pa) 18))) ∧
  (∀ f s, Issuing (.pref f) s → AllPass (.pref f) s noCheck →
    ∃ t, exec (.pref f) s = .next t ∧ BundleStep (.pref f) s t (fun _ x => x) ∧ ∀ pl a, t.readByte pl a = s.readByte pl a)) ∧
  ((∀ s d, let h := (s.thread s.ev.tid).hdl s.ev.hdl
    (find? s.ev.tid s.threads).isSome = true → h.st = .pending → h.due = some d → MayReach s d →
    ∃ t, exec .tlbHitValid s = .next t ∧ t.clock = max s.clock d ∧ SameBytes s t ∧
      t.thread s.ev.tid = (s.thread s.ev.tid).setHdl s.ev.hdl { h with st := .valid, due := none }) ∧
  (∀ s, let h := (s.thread s.ev.tid).hdl s.ev.hdl
    (find? s.ev.tid s.threads).isSome = true → h.st = .pending → h.walk = some (3, (s.space h.asid).root) → h.base.toNat < 2 ^ 52 →
    s.walkCache = [] → Quiet s →
    ∃ t, exec .pageWalkEnd s = .next t ∧ (t.thread s.ev.tid).hdl s.ev.hdl =
      match s.walk h.asid h.base.toNat with
      | some l => { h with st := .valid, leaf := l, walk := none, tlb := ((t.thread s.ev.tid).hdl s.ev.hdl).tlb }
      | none => { h with st := .faulted, walk := none }))

/-! ## Fences (04 R126-R130, 07 R233-R235) -/

/-- R233, R126, R113: a FENCE whose wait is over goes on; its acquire part at team scope or wider, whatever its mask, invalidates
the L1 of the core. FXI captures the thread's off-die writes on the masked streams that are not acknowledged and
raises the token's issued count; FXW waits for the acknowledgement of what the FXIs of its token captured. -/
def Obligations.FencesComplete : Prop :=
  (∀ f s, Issuing (.fence f) s → AllPass (.fence f) s (fenceCheck f) → performers (.fence f) s ≠ [] →
    ∃ t, exec (.fence f) s = .next t ∧ BundleStep (.fence f) s t (fun _ x => x) ∧
      (if f.ord.getLsbD 0 = true ∧ 2 ≤ f.sc.toNat then
        t.core s.cur.u = { s.core s.cur.u with l1 := [] } ∧ ∀ u, u ≠ s.cur.u → t.core u = s.core u
       else t.cores = s.cores) ∧
      ({ t with threads := s.threads, bands := s.bands, cores := s.cores } : State) = s) ∧
  (∀ f s tid, Issuing (.fxi f) s → performers (.fxi f) s = [tid] → AllPass (.fxi f) s (fxiCheck f) →
    ∃ t, exec (.fxi f) s = .next t ∧ OnlyMoves s t ∧ t.reqs = s.reqs ∧ t.mem = s.mem ∧
      t.token tid f.d.toNat = { s.token tid f.d.toNat with issued := (s.token tid f.d.toNat).issued + 1 } ∧
      ∃ r, (t.band s.cur.bid).fxis = (s.band s.cur.bid).fxis ++ [r] ∧ r.tid = tid ∧ r.tok = f.d.toNat ∧ r.posted = false ∧
        r.reqs = (s.reqs.filter (fun q => q.of tid && q.writes && f.off.getLsbD q.st && q.offDie)).map (·.id)) ∧
  (∀ f s, Issuing (.fxw f) s → AllPass (.fxw f) s (fxwCheck f) → performers (.fxw f) s ≠ [] →
    ∃ t, exec (.fxw f) s = .next t ∧ t.mem = s.mem ∧ t.reqs = s.reqs ∧ ∀ l ∈ s.cur.lanes, selected (.fxw f) s l = true →
      t.thread (s.here l) = if s.fxwDone s.cur.bid f.a.toNat then (s.thread (s.here l)).advance
        else { s.thread (s.here l) with pc := s.cur.pc, wait := .fxw f.a.toNat }) ∧
  (∀ s r, (find? s.ev.bid s.bands).isSome = true → (s.band s.ev.bid).fxis.find? (fun x => x.id == s.ev.id) = some r →
    r.posted = false → (∀ i ∈ r.reqs, ∀ q, s.req? i = some q → q.posted = true) → bandOf r.tid = s.ev.bid →
    ∃ t, exec .fxiPosted s = .next t ∧ (t.token r.tid r.tok).done = (s.token r.tid r.tok).done + 1 ∧
      (∀ x ∈ (t.band s.ev.bid).fxis, x.id = r.id → x.posted = true) ∧ t.threads = s.threads ∧ t.mem = s.mem) ∧
  (∀ s n, (find? s.ev.tid s.threads).isSome = true → (s.thread s.ev.tid).wait = .fxw n →
    s.fxwDone (bandOf s.ev.tid) n = true → s.storeError s.ev.tid (s.fxwCovers (bandOf s.ev.tid) n) = .pass →
    ∃ t, exec .fxwRelease s = .next t ∧
      t.thread s.ev.tid = { s.thread s.ev.tid with pc := (s.thread s.ev.tid).pc + 8, wait := .none } ∧ t.mem = s.mem)

/-! ## Barriers (01 R29, R30, 07 R239-R245) -/

/-- R29, R240-R244: a barrier word ends the leg with status 1 where its barrier is broken, or with `.trap` traps 0x0E with the
barrier's kind and number, its thread staying at the word; BARW ends it with status 0
where the generation of the recorded arrival is over; otherwise the thread has arrived, and it waits at the word or,
where that completed the barrier and flipped its generation, its leg has ended with status 0. BARA arrives and goes
on. R29: the arrival of the last live thread of a resident team on a shader core completes its team barrier; an
arrival that leaves a live thread to arrive completes nothing, and the thread waits.
When the scratchpad beyond the carry size is zeroed follows the reading of log 85. -/
def Obligations.BarrierWords : Prop :=
  ((∀ f s, ∀ p ∈ [(Instr.bar f, BarKind.team, false), (.barw f, .team, true), (.cbar f, .cluster, false),
      (.lbar f, .launch, false)],
    Issuing p.1 s → AllPass p.1 s (barCheck p.2.1 f) →
    (find? (s.band s.cur.bid).team s.teams).isSome = true →
    (find? (s.team (s.band s.cur.bid).team).lid s.launches).isSome = true →
    ∃ t, exec p.1 s = .next t ∧ t.mem = s.mem ∧ ∀ tid ∈ performers p.1 s,
      let k := s.teamOf tid
      let gen := (s.barState p.2.1 k (barOf f)).gen
      let recorded := if p.2.1 = .team then s.recorded tid (barOf f) else none
      (s.barBroken p.2.1 k (barOf f) = true → LegEnded s t f tid 1) ∧
      (s.barBroken p.2.1 k (barOf f) = false → p.2.2 = true → recorded = some (!gen) → LegEnded s t f tid 0) ∧
      (s.barBroken p.2.1 k (barOf f) = false → (p.2.2 = false ∨ recorded ≠ some (!gen)) →
        ((t.thread tid).wait = .barrier p.2.1 (barOf f) gen (carryOf f) f.d.toNat (f.mod.getLsbD 0) s.clock ∧
          (t.thread tid).pc = s.cur.pc ∨
         LegEnded s t f tid 0 ∧ (t.barState p.2.1 k (barOf f)).gen = !gen) ∧
        (recorded = none → (t.barState p.2.1 k (barOf f)).gen = gen →
          s.rid tid ∈ (t.barState p.2.1 k (barOf f)).arrived))) ∧
  (∀ f s, Issuing (.bara f) s → AllPass (.bara f) s (fun x t => x.releaseAll t 2) →
    (find? (s.band s.cur.bid).team s.teams).isSome = true →
    ∃ t, exec (.bara f) s = .next t ∧ t.mem = s.mem ∧ ∀ tid ∈ performers (.bara f) s,
      (s.thread tid).wait = .none →
      let k := s.teamOf tid
      (t.thread tid).pc = (s.thread tid).pc + 8 ∧ (t.thread tid).g = (s.thread tid).g ∧
      ((t.barState .team k (barOf f)).gen = (s.barState .team k (barOf f)).gen →
        s.rid tid ∈ (t.barState .team k (barOf f)).arrived) ∧
      t.recorded tid (barOf f) = some (s.barState .team k (barOf f)).gen)) ∧
  (∀ f s l u, Issuing (.bar f) s → s.cur.lanes = [l] → selected (.bar f) s l = true →
    AllPass (.bar f) s (barCheck .team f) →
    let k := (s.band s.cur.bid).team
    (find? k s.teams).isSome = true → (s.team k).place = .resident u → u < 1024 → s.here l ∈ s.teamTids k →
    (s.thread (s.here l)).exited = false → s.recorded (s.here l) (barOf f) = none →
    ((∀ r ∈ s.liveRids k, r = s.rid (s.here l) ∨ r ∈ (s.barState .team k (barOf f)).arrived) →
      ∃ t, exec (.bar f) s = .next t ∧ LegEnded s t f (s.here l) 0 ∧
        t.barState .team k (barOf f) = ⟨!(s.barState .team k (barOf f)).gen, []⟩ ∧ (t.core u).l1 = []) ∧
    ((∃ r ∈ s.liveRids k, r ≠ s.rid (s.here l) ∧ r ∉ (s.barState .team k (barOf f)).arrived) →
      ∃ t, exec (.bar f) s = .next t ∧ (t.thread (s.here l)).pc = s.cur.pc ∧
        (t.thread (s.here l)).wait = .barrier .team (barOf f) (s.barState .team k (barOf f)).gen (carryOf f) f.d.toNat
          (f.mod.getLsbD 0) s.clock ∧
        (t.barState .team k (barOf f)).gen = (s.barState .team k (barOf f)).gen)) ∧
  (∀ f s l, ∀ p ∈ [(Instr.cbar f, BarKind.cluster, 16), (.lbar f, .launch, 32)], Issuing p.1 s → s.cur.lanes = [l] →
    selected p.1 s l = true → verdict p.1 s noCheck l = .pass → s.declares (s.here l) p.2.1 = true → (s.thread (s.here l)).serr = none →
    s.barBroken p.2.1 (s.band s.cur.bid).team (barOf f) = true → f.mod.getLsbD 0 = true →
    exec p.1 s = .next ((s.raise (s.here l) 0x0E (BitVec.ofNat 64 (p.2.2 + barOf f))).keepBundle s.cur.bid [l]))

/-! ## Launch-level words (01 R36-R41, 07 R246-R251) -/

/-- R246-R251: FETCHW clears the ready word of its mailbox and records its request; NOTIFY issues the hint of the team once,
for all the records that the model holds of it (log 20); WPRED and TWAIT go on or wait at the word; CANCEL marks its level, its team, its
launch, or its graph or job, none of whose launches then has an unplaced team; CNTQ delivers its counter late: of an identifier that names
no launch it gives status 4, with the remaining field 0, which is the model's choice (log 91). -/
def Obligations.LaunchWords : Prop :=
  (∀ f s tid, Issuing (.fetchw f) s → performers (.fetchw f) s = [tid] → AllPass (.fetchw f) s (fetchwCheck f) →
    let k := s.teamOf tid
    let a := ((s.thread tid).reg f.a.toNat).toNat
    (∀ m ∈ s.boxesOf k, m.addr ≠ a) → s.teamWith (s.team k).aid = some k →
    ∃ t, exec (.fetchw f) s = .next t ∧ OnlyMoves s t ∧
      (∀ i, i < 4 → t.readByte (.scratch (s.team k).aid) (a + i) = 0) ∧
      (∀ b, b < a ∨ a + 4 ≤ b → t.readByte (.scratch (s.team k).aid) b = s.readByte (.scratch (s.team k).aid) b) ∧
      (∀ b aid, s.teamWith aid ≠ some k → t.readByte (.scratch aid) b = s.readByte (.scratch aid) b) ∧
      t.mem = s.mem ∧ t.staging = s.staging ∧
      ∃ m ∈ (t.band s.cur.bid).boxes, m.addr = a ∧ m.pending = true ∧ m.holds = false ∧
        m.lid = 2 ^ 32 * s.ctxOf tid + ((s.thread tid).reg f.d.toNat).toNat) ∧
  (∀ f s, Issuing (.notify f) s → AllPass (.notify f) s noCheck → performers (.notify f) s ≠ [] →
    let k := (s.band s.cur.bid).team
    (find? k s.teams).isSome = true → (find? (s.team k).lid s.launches).isSome = true →
    ∃ t, exec (.notify f) s = .next t ∧ OnlyMoves s t ∧ (t.team k).hinted = true ∧ t.mem = s.mem ∧
      (t.launch (s.team k).lid).hints = (s.launch (s.team k).lid).hints +
        if ∃ p ∈ s.teams, p.2.lid = (s.team k).lid ∧ p.2.index = (s.team k).index ∧ p.2.hinted = true then 0 else 1) ∧
  (∀ f s, Issuing (.wpred f) s → AllPass (.wpred f) s wpredCheck → performers (.wpred f) s ≠ [] →
    ∃ t, exec (.wpred f) s = .next t ∧ t.mem = s.mem ∧ ∀ tid ∈ performers (.wpred f) s,
      if s.predsDone tid then t.thread tid = (s.thread tid).advance ∧ (t.core s.cur.u).l1 = []
      else t.thread tid = { s.thread tid with pc := s.cur.pc, wait := .wpred }) ∧
  (∀ f s, Issuing (.twait f) s → AllPass (.twait f) s noCheck →
    ∃ t, exec (.twait f) s = .next t ∧ t.mem = s.mem ∧ ∀ tid ∈ performers (.twait f) s,
      t.thread tid = if (s.token tid f.a.toNat).outstanding ≤ f.imm.toNat then (s.thread tid).advance
        else { s.thread tid with pc := s.cur.pc, wait := .twait f.a.toNat f.imm.toNat }) ∧
  (∀ f s, Issuing (.cancel f) s → AllPass (.cancel f) s noCheck → performers (.cancel f) s ≠ [] →
    let k := (s.band s.cur.bid).team
    let lid := (s.team k).lid
    (find? k s.teams).isSome = true → (find? lid s.launches).isSome = true →
    ∃ t, exec (.cancel f) s = .next t ∧
      (∀ l ∈ s.cur.lanes, selected (.cancel f) s l = true → (s.thread (s.here l)).wait = .none →
        t.thread (s.here l) = (s.thread (s.here l)).advance) ∧
      (f.fn = 0 → (t.team k).status = if (s.team k).status = 3 then 3 else 2) ∧
      (f.fn = 1 → (t.launch lid).cancelled = true ∧ (t.launch lid).next = (t.launch lid).total ∧
        ((s.launch lid).desc.pkgbar = false → (t.launch lid).status =
          if (s.launch lid).status = 3 then 3 else 2)) ∧
      (f.fn = 2 ∨ f.fn = 3 →
        let key := fun (d : Desc) => if f.fn = 2 then d.graph else d.job
        let own := 65536 * (s.launch lid).ctx + key (s.launch lid).desc
        (∀ c, find? own (if f.fn = 2 then s.graphs else s.jobs) = some c →
          ∃ c', find? own (if f.fn = 2 then t.graphs else t.jobs) = some c' ∧ c'.status = if c.status = 3 then 3 else 2) ∧
        ∀ x l, find? x s.launches = some l → l.ctx = (s.launch lid).ctx → key l.desc = key (s.launch lid).desc →
          (t.launch x).next = l.total)) ∧
  (∀ f s, Issuing (.cntq f) s → AllPass (.cntq f) s noCheck →
    LateCompletes (.cntq f) s f.d.toNat (fun tid =>
      let k := s.team (s.teamOf tid)
      let l := s.launch k.lid
      let word := fun (status remaining : Nat) => (BitVec.ofNat 64 (status * 2 ^ 48 + remaining) : DWord)
      let counter := fun (c : Option Counter) => match c with | some c => word c.status c.remaining | none => word 4 0
      let v : DWord :=
        if f.fn = 0 then word k.status ((s.teamTids (s.teamOf tid)).filter (fun t => !(s.thread t).exited)).length
        else if f.fn = 1 then word l.status l.remaining
        else if f.fn = 2 then counter (find? (65536 * l.ctx + l.desc.graph) s.graphs)
        else if f.fn = 3 then counter (find? (65536 * l.ctx + l.desc.job) s.jobs)
        else match find? (2 ^ 32 * s.ctxOf tid + ((s.thread tid).reg f.a.toNat).toNat) s.launches with
          | some x => word x.status x.remaining
          | none => word 4 0
      [v.extractLsb' 0 32, v.extractLsb' 32 32]))

/-! ## Gangs, fragments and compression (03 R101-R105, 08 R258-R263) -/

/-- R258-R263: GANG sets the gang of its band with its count at 0; a GMMA that is not the last of its gang waits at the
latch; fragment words issue their requests in the allocation; CMPRS and DCMPRS keep the register group's width. R260,
R261: the last arrival of a gang releases it: every waiting thread of the arriving band goes past its GMMA with its 32
accumulators empty and their results on their way; the results of the oldest product of a core are delivered together;
a gang that waits for its limit takes trap 0x13 with the bands that are missing, and at once where a listed band has no live thread; the
clock does not pass that limit.
The poison of an operand and the order of the causes at a release follow the readings of log 46. -/
def Obligations.GangWords : Prop :=
  ((∀ f s, Issuing (.gang f) s → performers (.gang f) s ≠ [] →
    let w := (s.thread (lowest 0 (performers (.gang f) s))).reg f.a.toNat
    s.gangOk s.cur.bid f.fn.toNat w = true → AllPass (.gang f) s noCheck →
    ∃ t, exec (.gang f) s = .next t ∧ OnlyMoves s t ∧
      (t.band s.cur.bid).gang = { (s.band s.cur.bid).gang with n := f.fn.toNat, list := w, count := 0 } ∧
      ({ t with threads := s.threads, bands := s.bands } : State) = s) ∧
  (∀ f s, Issuing (.gmma f) s → performers (.gmma f) s ≠ [] → AllPass (.gmma f) s (gmmaCheck f) →
    s.arrival s.cur.bid = none → s.gangDead s.cur.bid = false → (∃ b ∈ s.gangBands s.cur.bid, b ≠ s.cur.bid ∧ s.arrival b = none) →
    ∃ t, exec (.gmma f) s = .next t ∧ t.mem = s.mem ∧
      (∀ tid ∈ performers (.gmma f) s, t.thread tid =
        { s.thread tid with pc := s.cur.pc, wait := .latch s.clock, wword := s.cur.word }) ∧
      (t.band s.cur.bid).gang.arrivals =
        [⟨(performers (.gmma f) s).map laneOf, [f.d.toNat, f.a.toNat, f.b.toNat, f.c.toNat], s.clock, s.cur.word⟩]) ∧
  (∀ f s, Issuing (.gldf f) s → AllPass (.gldf f) s (fragCheck f) →
    ∃ t, exec (.gldf f) s = .next t ∧ OnlyInFlight s t ∧
      BundleStep (.gldf f) s t (fun _ x => x.emptyRegs f.d.toNat (fragRegs f.sz)) ∧
      ∀ tid ∈ performers (.gldf f) s, ∀ j, j < fragRegs f.sz / 4 → ∃ r ∈ t.reqs, r.kind = .load ∧ r.performed = false ∧
        r.place = .scratch (s.team (s.teamOf tid)).aid ∧ ∃ p ∈ r.parts, p.tid = tid ∧
          p.addrs = runOf (fragAddr f (s.thread tid) (laneOf tid) + 16 * j) 16 ∧
          p.dests = (List.range 4).map (fun i => (f.d.toNat + 4 * j + i, i))) ∧
  (∀ f s, Issuing (.gstf f) s → AllPass (.gstf f) s (fragCheck f) →
    ∃ t, exec (.gstf f) s = .next t ∧ OnlyInFlight s t ∧ BundleStep (.gstf f) s t (fun _ x => x) ∧
      ∀ tid ∈ performers (.gstf f) s, WriteInFlight t tid
        (fun r => r.kind = .store ∧ r.performed = false ∧ r.place = .scratch (s.team (s.teamOf tid)).aid)
        ((runOf (fragAddr f (s.thread tid) (laneOf tid)) (4 * fragRegs f.sz)).zip
          (dataBytes (s.thread tid) f.d.toNat (4 * fragRegs f.sz)))) ∧
  Family .cmprs (fun f _ _ t =>
    let k := compress f.ty (regsNat t f.a.toNat (groupRegs f.ty))
    t.setNat f.d.toNat (keptRegs f.ty) (k.1 + k.2 * 2 ^ (32 * keptHi f.ty))) ∧
  Family .dcmprs (fun f _ _ t =>
    let x := regsNat t f.a.toNat (keptRegs f.ty)
    t.setNat f.d.toNat (groupRegs f.ty) (expand f.ty (x % 2 ^ (32 * keptHi f.ty)) (x / 2 ^ (32 * keptHi f.ty) % 16)))) ∧
  ((∀ f s w, Issuing (.gmma f) s → performers (.gmma f) s ≠ [] → AllPass (.gmma f) s (gmmaCheck f) →
    s.arrival s.cur.bid = none → s.gangDead s.cur.bid = false → (s.gangBands s.cur.bid).head? = some s.cur.bid →
    (s.gangBands s.cur.bid).Nodup →
    (∀ b ∈ s.gangBands s.cur.bid, (s.band b).gang.count = (s.band s.cur.bid).gang.count ∧
      (s.band b).gang.n = (s.band s.cur.bid).gang.n ∧ (s.band b).gang.list = (s.band s.cur.bid).gang.list ∧
      (b ≠ s.cur.bid → ∃ a, s.arrival b = some a ∧ (∀ l ∈ a.lanes, l < 32) ∧ ∀ x ∈ s.fmtWords b a, x.2 = w)) →
    s.fresh ≠ 0 →
    (∀ tid ∈ performers (.gmma f) s, (s.thread tid).reg f.c.toNat = w) → fmtOk w = true →
    let base := ((s.thread ((performers (.gmma f) s).headD 0)).reg f.b.toNat).toNat
    let k := s.team (s.band s.cur.bid).team
    let bytes := 2048 * if fmtFa w ≤ 1 then 2 else 1
    base % 128 = 0 → base + bytes ≤ k.alloc → (∀ a, s.poisoned (.scratch k.aid) a = false) →
    ∃ t, exec (.gmma f) s = .next t ∧ SameBytes s t ∧ ∀ tid ∈ performers (.gmma f) s,
      t.thread tid = ({ s.thread tid with pc := s.cur.pc + 8, wait := .none, wword := s.cur.word } : Thread).emptyRegs f.d.toNat 32 ∧
      ∃ l ∈ t.lates, l.tid = tid ∧ l.mark = 0 ∧ l.grp ≠ 0 ∧ l.u = s.cur.u ∧
        l.words.map (·.1) = (List.range 32).map (f.d.toNat + ·)) ∧
  (∀ s l, l ∈ s.lates → l.u = s.ev.u → l.grp ≠ 0 → (∀ x ∈ s.lates, x.u = l.u → x.grp ≠ 0 → l.grp ≤ x.grp) →
    (find? l.tid s.threads).isSome = true → (l.words.map (·.1)).Nodup → l.mark = 0 →
    s.lates.filter (fun x => x.tid == l.tid && x.grp == l.grp) = [l] →
    ∃ t, exec .gmmaResultDelivery s = .next t ∧ t.lates = s.lates.filter (fun x => !(x.grp == l.grp && x.u == l.u)) ∧
      SameBytes s t ∧ ∀ w ∈ l.words, (t.thread l.tid).reg w.1 = w.2 ∧ (t.thread l.tid).isEmpty w.1 = false) ∧
  (∀ s a l, s.arrival s.ev.bid = some a → a.lanes = [l] → (s.gangBands s.ev.bid).filter (fun b => (s.arrival b).isSome) = [s.ev.bid] →
    let till := a.since + (s.core (unitOfBand s.ev.bid)).gangLive.toNat % 2 ^ 32
    let dead := ∃ b ∈ s.gangBands s.ev.bid, ∀ t ∈ s.bandTids b, (s.thread t).exited = true
    let ends := fun (x : State) => (x.onBand s.ev.bid (Band.popArrival · false)).raise (32 * s.ev.bid + l) 0x13
      ((s.missing s.ev.bid).setWidth 64)
    (dead → exec .gangTimeout s = .next (ends s)) ∧
    (¬ dead → s.teamHalted (s.band s.ev.bid).team = false → till ≠ a.since →
      (MayReach s till → exec .gangTimeout s = .next (ends (s.at_ till))) ∧
      (s.boot.stage = .up → ∀ n, (s.elapse n).clock ≤ max s.clock till))))

/-- R104, R105: compression keeps two different places of a group, and expanding what it kept gives those elements back in their
places and 0 in the others. -/
def Obligations.ExpandUndoesCompress : Prop :=
  ∀ ty x, ty ∈ [(4 : BitVec 4), 5, 6, 8, 9, 10, 11, 12, 13] → x < 2 ^ (4 * elemBits ty) →
    let w := elemBits ty
    let k := compress ty x
    let i0 := k.2 % 4
    let i1 := k.2 / 4 % 4
    i0 < i1 ∧ k.2 < 16 ∧ ∀ i, i < 4 →
      expand ty k.1 k.2 / 2 ^ (w * i) % 2 ^ w = if i = i0 ∨ i = i1 then x / 2 ^ (w * i) % 2 ^ w else 0

/-! ## The ray unit (08 R264-R270) -/

/-- R266-R270: RAYB starts a traversal at a root; RAYQ drops a pending candidate and, where the traversal has ended, delivers
status 0 late, else it waits at the word for the node's 128 bytes; RAYN reads and RAYC settles the candidate. -/
def Obligations.RayWords : Prop :=
  Family .rayb (fun f _ _ t =>
    let a := f.a.toNat
    let root := t.reg64 f.c.toNat
    { t with ray := { o := [t.reg a, t.reg (a + 1), t.reg (a + 2)], tmin := t.reg (a + 3),
                      dir := [t.reg (a + 4), t.reg (a + 5), t.reg (a + 6)], tmax := t.reg (a + 7), hdl := f.b.toNat,
                      cur := root, sub := 0, stack := [], cand := none, hit := none, finished := refKind root == 0 } }) ∧
  (∀ f s, Issuing (.rayq f) s → AllPass (.rayq f) s rayqCheck →
    ∃ t, exec (.rayq f) s = .next t ∧ OnlyInFlight s t ∧ ∀ tid ∈ performers (.rayq f) s,
      let x := s.thread tid
      let r := { x.ray with cand := none }
      (x.ray.ended = true →
        t.thread tid = { x.advance with ray := r }.emptyRegs f.d.toNat 1 ∧
        ∃ l ∈ t.lates, l.tid = tid ∧ l.words = [(f.d.toNat, 0)] ∧ l.mark = 0) ∧
      (x.ray.ended = false → ∃ id, t.thread tid =
          { x with ray := r, pc := s.cur.pc, wait := .ray id f.d.toNat, seen := (t.thread tid).seen } ∧
        ((∃ q ∈ t.reqs, q.id = id ∧ q.kind = .load ∧ q.performed = false ∧ ∃ p ∈ q.parts, p.tid = tid ∧
            p.addrs = (s.globalBytes (x.hdl x.ray.hdl) s.cur.u (x.ray.nodeVa (x.hdl x.ray.hdl)) 128).addrs) ∨
          ∃ l ∈ t.lates, l.id = id ∧ l.tid = tid))) ∧
  Family .rayn (fun f _ _ t =>
    let h := if f.fn = 0 then t.ray.cand else t.ray.hit
    let w := h.getD ⟨0x7F800000, 0, 0, 0xFFFFFFFF⟩
    (((t.setReg f.d.toNat w.t).setReg (f.d.toNat + 1) w.u).setReg (f.d.toNat + 2) w.v).setReg (f.d.toNat + 3) w.id) ∧
  Family .rayc (fun f _ _ t => { t with ray := t.ray.candidate f.fn })

/-! ## Engine dispatch (02 R44-R56, 08 R254-R286) -/

/-- R44-R46, R273-R280: an engine word of a control thread whose slots are claimed, whose ranges fit and whose queue has
room places its entry in the queue of its engine and completes for the control thread. R131, R256, R271, R281-R283: a
copy word or BVHR whose causes do not hold, whose release at its scope is over and whose queue has room places an
entry in the copy queue of its band, or in CQ on a tile, with the eight registers, the handles and, for a cluster
destination, the target allocations; that a copy waits for room before the checks of its token is the model's choice (log 30). R46, R52, R56: a dispatch into a queue of 32 entries waits at the word; a
produced token that another producer holds traps 0x14 with its number, and an operand slot that is not claimed traps
0x15 with its number; nothing is dispatched. -/
def Obligations.EngineAndCopyWordsDispatch : Prop :=
  (∀ f s tid, ∀ p ∈ ([(Instr.mma f, EngineQ.mq, noCheck, fun _ => []), (.mmas f, .mq, noCheck, fun _ => []),
      (.mzero f, .mq, noCheck, fun _ => []), (.old f, .lq, oldCheck f, fun t => [t.reg f.b.toNat, t.reg f.c.toNat]),
      (.mdrn f, .sq, mdrnCheck f, fun t => [t.reg f.b.toNat, t.reg f.c.toNat]),
      (.vld f, .lq, fun x t => scratchCheck (x.gval t f.b % (if f.efn.getLsbD 0 then 4 else 16) != 0)
        (x.gval t f.b + (if f.efn.getLsbD 0 then 4 else 256)) (x.team (x.teamOf t)).alloc (x.gval t f.b),
        fun t => [t.reg f.b.toNat]),
      (.vst f, .sq, fun x t => scratchCheck (x.gval t f.b % 16 != 0)
        (x.gval t f.b + 4 * (if f.efn == 0 then 64 else f.efn.toNat)) (x.team (x.teamOf t)).alloc (x.gval t f.b),
        fun t => [t.reg f.b.toNat]),
      (.vadd f, .aq, noCheck, fun _ => []), (.vsub f, .aq, noCheck, fun _ => []), (.vmul f, .aq, noCheck, fun _ => []),
      (.vfma f, .aq, noCheck, fun _ => []), (.vmin f, .aq, noCheck, fun _ => []), (.vmax f, .aq, noCheck, fun _ => []),
      (.vexp f, .aq, noCheck, fun _ => []), (.vrcp f, .aq, noCheck, fun _ => []), (.vrsq f, .aq, noCheck, fun _ => []),
      (.vtanh f, .aq, noCheck, fun _ => []), (.vcvt f, .aq, noCheck, fun _ => []), (.vred f, .aq, noCheck, fun _ => []),
      (.vbcst f, .aq, noCheck, fun _ => []), (.vperm f, .aq, noCheck, fun _ => []), (.vsel f, .aq, noCheck, fun _ => []),
      (.vcmp f, .aq, noCheck, fun _ => []), (.vscl f, .aq, noCheck, fun _ => []),
      (.vmov f, .aq, noCheck, fun t => if f.efn = 4 then [t.reg f.c.toNat] else [])] :
      List (Instr × EngineQ × (State → Nat → Check) × (Thread → List Word))),
    Issuing p.1 s → performers p.1 s = [tid] →
    AllPass p.1 s (fun x t => ((slotCheck (x.tile (unitOf t)) (slotsNamed p.1 [])).andThen (p.2.2.1 x t)).andThen
      (x.roomCheck t (.tile s.cur.u p.2.1) f.d)) →
    Dispatches p.1 f s tid (.tile s.cur.u p.2.1) (p.2.2.2 (s.thread tid), [], [])) ∧
  (∀ f s tid, ∀ p ∈ ([(Instr.tcpy f, tensorCheck f (f.efn.getLsbD 7), fun x => tensorArgs f x tid),
      (.tcst f, tensorCheck f false, fun x => tensorArgs f x tid), (.cpy f, flatCheck f false, fun x => flatArgs f false x tid),
      (.cpym f, flatCheck f true, fun x => flatArgs f true x tid),
      (.bvhr f, bvhrCheck f, fun x => ([(x.thread tid).reg f.b.toNat, (x.thread tid).reg (f.b.toNat + 1),
        (x.thread tid).reg f.c.toNat], [(x.thread tid).hdl f.a.toNat], []))] :
      List (Instr × (State → Nat → Check) × (State → List Word × List Handle × List Nat))),
    Issuing p.1 s → performers p.1 s = [tid] →
    AllPass p.1 s (fun x t => ((copyError f x t).andThen ((p.2.1 x t).andThen (copyRelease f x t))).andThen
      (x.roomCheck t (queueFor t .cq) f.d)) →
    Dispatches p.1 f s tid (queueFor tid .cq) (p.2.2 s)) ∧
  ((∀ f s l, Issuing (.mma f) s → s.cur.lanes = [l] → selected (.mma f) s l = true → verdict (.mma f) s noCheck l = .pass →
    (s.tile s.cur.u).claimed f.b.toNat = true → (s.tile s.cur.u).claimed f.c.toNat = true →
    (32 ≤ (s.tile s.cur.u).mq.entries.length → exec (.mma f) s = .next (s.keepBundle s.cur.bid [])) ∧
    (s.dispatchStalls (.tile s.cur.u .mq) = false → f.d ≠ 63 →
      ((s.tile s.cur.u).mq.entries.filter (fun e => e.tok == some f.d.toNat)).length <
        (s.token (s.here l) f.d.toNat).outstanding →
      exec (.mma f) s = .next ((s.raise (s.here l) 0x14 (BitVec.ofNat 64 f.d.toNat)).keepBundle s.cur.bid [l]))) ∧
  (∀ f s l, Issuing (.mma f) s → s.cur.lanes = [l] → selected (.mma f) s l = true → verdict (.mma f) s noCheck l = .pass →
    (s.tile s.cur.u).claimed f.b.toNat = false →
    exec (.mma f) s = .next ((s.raise (s.here l) 0x15 (BitVec.ofNat 64 f.b.toNat)).keepBundle s.cur.bid [l])))

/-- R47, R53, R56, R68-R74, R80, R272, R284-R286: the words a control thread performs on its tile itself. -/
def Obligations.TileControlWords : Prop :=
  (∀ f s tid, Issuing (.tqcfg f) s → performers (.tqcfg f) s = [tid] → AllPass (.tqcfg f) s noCheck →
    ∃ t, exec (.tqcfg f) s = .next t ∧ OnlyMoves s t ∧
      t.tile s.cur.u = { s.tile s.cur.u with
        slip := sset 160 (s.tile s.cur.u).slip (f.imm.extractLsb' 8 3).toNat (f.imm.extractLsb' 0 8).toNat }) ∧
  FamilyI .tokr (fun f s tid t => t.setReg f.d.toNat ((s.token tid f.a.toNat).issued ++ (s.token tid f.a.toNat).done)) ∧
  (∀ f s tid, Issuing (.mcfg f) s → performers (.mcfg f) s = [tid] → AllPass (.mcfg f) s noCheck →
    ∃ t, exec (.mcfg f) s = .next t ∧ OnlyMoves s t ∧
      t.tile s.cur.u = { s.tile s.cur.u with nanM := f.imm.getLsbD 0, nanV := f.imm.getLsbD 1 }) ∧
  (∀ f s tid, Issuing (.oclm f) s → performers (.oclm f) s = [tid] → AllPass (.oclm f) s noCheck →
    (s.tile s.cur.u).claimed f.a.toNat = false →
    ∃ t, exec (.oclm f) s = .next t ∧ OnlyMoves s t ∧ (t.tile s.cur.u).claimed f.a.toNat = true ∧
      ∀ n, n ≠ f.a.toNat → (t.tile s.cur.u).claimed n = (s.tile s.cur.u).claimed n) ∧
  (∀ f s tid, Issuing (.orel f) s → performers (.orel f) s = [tid] → AllPass (.orel f) s noCheck →
    (s.tile s.cur.u).claimed f.a.toNat = true →
    (s.waitsMet tid (s.targets tid [f.w0, f.w1, f.w2]) = true → (s.tile s.cur.u).named f.a.toNat = false →
      ∃ t, exec (.orel f) s = .next t ∧ OnlyMoves s t ∧ (t.tile s.cur.u).claimed f.a.toNat = false ∧ t.mem = s.mem) ∧
    (s.waitsMet tid (s.targets tid [f.w0, f.w1, f.w2]) = false →
      ∃ t, exec (.orel f) s = .next t ∧ t.tiles = s.tiles ∧ t.thread tid =
        { s.thread tid with
          pc := s.cur.pc
          wait := .tokens (s.targets tid [f.w0, f.w1, f.w2]) (.orel f.a.toNat) })) ∧
  (∀ f s tid, Issuing (.rngd f) s → performers (.rngd f) s = [tid] →
    let q := (f.imm.extractLsb' 0 3).toNat
    let count := (f.imm.extractLsb' 3 5).toNat + 1
    let size := ((f.imm.extractLsb' 8 9).toNat + 1) * 128
    let base := ((s.thread tid).reg f.a.toNat).toNat
    AllPass (.rngd f) s noCheck → base % 128 = 0 → base + count * size ≤ (s.team (s.teamOf tid)).alloc →
    find? q (s.tile s.cur.u).rings = none →
    ∃ t, exec (.rngd f) s = .next t ∧ OnlyMoves s t ∧ find? q (t.tile s.cur.u).rings =
      some { base := base, size := size, count := count, fill := 0, acq := 0, free := 0, filled := 0, acquired := 0, part := 0,
             chan := none }) ∧
  (∀ f s tid r, Issuing (.rnga f) s → performers (.rnga f) s = [tid] → AllPass (.rnga f) s noCheck →
    find? (f.imm.extractLsb' 0 3).toNat (s.tile s.cur.u).rings = some r →
    (r.filled = 0 ∨ s.readsDone tid (fun _ => true) = false → ∃ t, exec (.rnga f) s = .next t ∧ t.tiles = s.tiles ∧ t.thread tid =
      { s.thread tid with pc := s.cur.pc, wait := .rnga (f.imm.extractLsb' 0 3).toNat f.d.toNat }) ∧
    (r.filled ≠ 0 → s.readsDone tid (fun _ => true) = true → ∃ t, exec (.rnga f) s = .next t ∧
      t.thread tid = (s.thread tid).advance.setReg f.d.toNat (BitVec.ofNat 32 (r.base + r.acq * r.size)) ∧
      find? (f.imm.extractLsb' 0 3).toNat (t.tile s.cur.u).rings =
        some { r with acq := (r.acq + 1) % r.count, filled := r.filled - 1, acquired := r.acquired + 1 })) ∧
  (∀ f s tid r, Issuing (.rngf f) s → performers (.rngf f) s = [tid] → AllPass (.rngf f) s noCheck →
    find? (f.imm.extractLsb' 0 3).toNat (s.tile s.cur.u).rings = some r → r.acquired ≠ 0 →
    let ws := s.targets tid [f.imm.extractLsb' 3 5, f.imm.extractLsb' 8 5]
    (s.waitsMet tid ws = true → ∃ t, exec (.rngf f) s = .next t ∧ OnlyMoves s t ∧
      find? (f.imm.extractLsb' 0 3).toNat (t.tile s.cur.u).rings =
        some { r with free := (r.free + 1) % r.count, acquired := r.acquired - 1 }) ∧
    (s.waitsMet tid ws = false → ∃ t, exec (.rngf f) s = .next t ∧ t.tiles = s.tiles ∧ t.thread tid =
      { s.thread tid with pc := s.cur.pc, wait := .tokens ws (.rngf (f.imm.extractLsb' 0 3).toNat) })) ∧
  (∀ f s tid, Issuing (.brcv f) s → performers (.brcv f) s = [tid] → AllPass (.brcv f) s (brcvCheck f) →
    let c := (f.efn.extractLsb' 0 7).toNat
    (f.efn.getLsbD 7 = false → ∃ t r, exec (.brcv f) s = .next t ∧ OnlyMoves s t ∧
      ((find? c t.channels).getD {}).bound = some (s.cur.u, f.b.toNat) ∧
      find? f.b.toNat (t.tile s.cur.u).rings = some r ∧ r.chan = some c) ∧
    (f.efn.getLsbD 7 = true → ∃ t, exec (.brcv f) s = .next t ∧ OnlyMoves s t ∧
      ((find? c t.channels).getD {}).bound = none))

/-! ## Events of the memory system (04 R116-R142, 05 R162) -/

/-- R116, R125, R133, R223, R416: a request that nothing holds back is performed at its memory point, the slice's or the
agent's: a load, or the read of a call-stack slot (R108), delivers the bytes, an atomic the old bytes and writes the new, a store writes
its bytes and stays for its acknowledgement; no other byte changes. A write raises its line's version by one, an atomic that writes
nothing does not. R135: an LDV takes bytes and version in one step. R138, R227: a CASV writes only where the version is the expected one.
R136, R226: a VSET validates its entries one by one. R141: a multicast store is written replica by replica, the first at the primary, the
others in its order. R238: the read of an event word releases its thread or leaves it waiting. R118, R120, R122: an access that has to
follow an earlier one of its thread stays as it is until then. R408: a request whose packet has not arrived, or that is held back, stays as it is. R221, R223: a request that
meets an error reply writes no byte: a store keeps the cause for its acknowledgement, a load marks its registers with
it.
Which accesses to a die that is not online get the error follows the reading of log 40, and what travels as a packet that of log 81. -/
def Obligations.RequestsArePerformed : Prop :=
  (∀ e ∈ [(Instr.memoryPointPerform, false), (.fallbackAgentPerform, true)],
  (∀ s r p, Performable s r e.2 → (r.kind = .load ∨ r.kind = .refill) → r.parts = [p] →
    ((s.acquireDrop r).fillFor (dataWho r.u) r.place p.addrs).readsPoison r.place p.addrs = false →
    ∃ t, exec e.1 s = .next t ∧ SameBytes s t ∧ t.threads = s.threads ∧ t.req? r.id = none ∧
      Answered t r p (wordOf (p.addrs.map (s.readByte r.place)))) ∧
  (∀ s r, Performable s r e.2 → r.kind = .store → r.parts ≠ [] → (∀ n, (s.stack n).fencedBanks = []) →
    let cells := r.parts.flatMap (fun p => p.addrs.zip p.data)
    ∃ t, exec e.1 s = .next t ∧ WritesOnly s t r.place cells ∧ t.threads = s.threads ∧
      t.req? r.id = some { r with performed := true, posted := true, err := none } ∧
      ∀ line, r.place = .phys → cells ≠ [] → (∀ c ∈ cells, lineOf c.1 = line) → Steady s line → t.version line = s.version line + 1) ∧
  (∀ s r reps, Performable s r e.2 → r.kind = .multi reps → r.place = .phys → r.parts ≠ [] → r.acq = false →
    (∀ n, (s.stack n).fencedBanks = []) →
    let earlier := fun (d : Nat) => ∃ q ∈ s.reqs, q.id ≠ r.id ∧ q.order ≠ 0 ∧ q.order < r.order ∧ lineOf q.first = lineOf r.first ∧
      ∃ ds, q.kind = .multi ds ∧ d ∈ ds
    (∀ d, (r.order = 0 ∧ reps.head? = some d ∨ r.order ≠ 0 ∧ d = s.ev.die ∧ d ∈ reps ∧ ¬ earlier d) →
      let left := reps.filter (· != d)
      ∃ t o, exec e.1 s = .next t ∧ t.threads = s.threads ∧
        WritesOnly s t .phys ((r.parts.flatMap (fun p => p.addrs.zip p.data)).map (fun c => (onStackOf c.1 d, c.2))) ∧
        t.req? r.id = some { r with kind := .multi left, order := o, performed := left.isEmpty, posted := r.posted || left.isEmpty }) ∧
    (r.order ≠ 0 → (s.ev.die ∉ reps ∨ earlier s.ev.die) → exec e.1 s = .next s)) ∧
  (∀ s r p asid va, Performable s r e.2 → r.kind = .ldv asid va → r.place = .phys → r.parts = [p] →
    ((s.acquireDrop r).fillFor (dataWho r.u) .phys p.addrs).readsPoison .phys p.addrs = false → Steady s (lineOf r.first) →
    (∀ a ∈ p.addrs, lineOf a = lineOf r.first) → (find? p.tid s.threads).isSome = true → (s.thread p.tid).exited = false →
    let x := s.thread p.tid
    let known := x.vset.any (fun v => v.line == lineOf r.first) = true
    ∃ t, exec e.1 s = .next t ∧ SameBytes s t ∧ t.req? r.id = none ∧ Answered t r p (wordOf (p.addrs.map (s.readByte .phys))) ∧
      t.version (lineOf r.first) = s.version (lineOf r.first) ∧
      (known → t.thread p.tid = x) ∧ (¬ known → 8 ≤ x.vset.length → t.thread p.tid = { x with vover := true }) ∧
      (¬ known → x.vset.length < 8 →
        t.thread p.tid = { x with vset := x.vset ++ [⟨lineOf r.first, s.version (lineOf r.first), asid, va⟩] })) ∧
  (∀ s r p want reps, Performable s r e.2 → r.kind = .casv want reps → r.place = .phys → r.parts = [p] →
    (∀ n, (s.stack n).fencedBanks = []) → Steady s (lineOf r.first) → p.addrs.zip p.data ≠ [] →
    (∀ a ∈ p.addrs, lineOf a = lineOf r.first) →
    let v := s.version (lineOf r.first)
    ∃ t, exec e.1 s = .next t ∧ t.threads = s.threads ∧ t.req? r.id = none ∧
      (v = want → WritesOnly s t .phys (p.addrs.zip p.data) ∧ t.version (lineOf r.first) = v + 1 ∧
        Answered t r p (fun i => (words64 ((1 : DWord) <<< 63 ||| (v + 1).setWidth 64)).getD i 0)) ∧
      (v ≠ want → SameBytes s t ∧ t.version (lineOf r.first) = v ∧
        Answered t r p (fun i => (words64 (v.setWidth 64)).getD i 0))) ∧
  (∀ s r p next es x, Performable s r e.2 → r.kind = .vset next es → r.parts = [p] → es[next]? = some x → Steady s x.line →
    ∃ t, exec e.1 s = .next t ∧ SameBytes s t ∧ t.threads = s.threads ∧ t.version x.line = s.version x.line ∧
      (s.version x.line ≠ x.ver → t.req? r.id = none ∧ Answered t r p (fun _ => BitVec.ofNat 32 (16 * next + 1))) ∧
      (s.version x.line = x.ver → es.length = next + 1 → t.req? r.id = none ∧ Answered t r p (fun _ => 0)) ∧
      (s.version x.line = x.ver → next + 1 < es.length → t.req? r.id = some { r with kind := .vset (next + 1) es })) ∧
  (∀ s r p want d, Performable s r e.2 → r.kind = .evwait → r.parts = [p] → (find? p.tid s.threads).isSome = true →
    (s.thread p.tid).wait = .evwait r.id want d →
    ((s.acquireDrop r).fillFor (dataWho r.u) r.place p.addrs).readsPoison r.place p.addrs = false →
    let w := wordOf (p.addrs.map (s.readByte r.place)) 0
    ∃ t, exec e.1 s = .next t ∧ SameBytes s t ∧
      ((w - want).toNat < 2 ^ 31 → t.thread p.tid = (({ (s.thread p.tid).advance with wait := .none } : Thread)).setReg d w ∧
        t.req? r.id = none) ∧
      (2 ^ 31 ≤ (w - want).toNat → t.threads = s.threads ∧ t.req? r.id = some { r with performed := true })) ∧
  (∀ s r q tid, s.req? s.ev.id = some r → q ∈ s.reqs → q.seq < r.seq → (∃ p ∈ r.parts, p.tid = tid) → (∃ p ∈ q.parts, p.tid = tid) →
    Follows q r tid → exec e.1 s = .next s) ∧
  (∀ s r p op ret a, Performable s r e.2 → r.kind = .atom op ret → r.parts = [p] → p.addrs = runOf a op.size →
    (∀ n, (s.stack n).fencedBanks = []) →
    ((s.acquireDrop r).fillFor (dataWho r.u) r.place p.addrs).readsPoison r.place p.addrs = false →
    let old := p.addrs.map (s.readByte r.place)
    ∃ t, exec e.1 s = .next t ∧ OnlyBytes s t r.place p.addrs ∧ t.threads = s.threads ∧
      (∀ i, i < op.size → t.readByte r.place (a + i) = ((op.new (fromBytes old)).map (fun v => (toBytes op.size v).getD i 0)).getD
        (old.getD i 0)) ∧
      (∀ line, r.place = .phys → op.size ≠ 0 → (∀ x ∈ p.addrs, lineOf x = line) → Steady s line →
        t.version line = s.version line + if (op.new (fromBytes old)).isSome = true then 1 else 0) ∧
      (ret = true → Answered t r p (wordOf old))) ∧
  (∀ s r, s.req? s.ev.id = some r → (r.performed = true ∨ s.blocked r = true ∨ s.hasArrived r s.ev.die = false) →
    exec e.1 s = .next s)) ∧
  (∀ s r c, s.req? s.ev.id = some r → r.performed = false → s.blocked r = false → s.agentServes r s.ev.die = false →
    s.hasArrived r s.ev.die = true → (s.ev.discard && r.place == .phys && decide (2 ^ 60 ≤ r.point 0)) = false → s.replyError r = some c →
    (r.isStore = true → ∃ t, exec .memoryPointPerform s = .next t ∧ SameBytes s t ∧ t.threads = s.threads ∧
      t.req? r.id = some { r with performed := true, posted := true, err := some c }) ∧
    (∀ p, r.kind = .load → r.parts = [p] → p.dests ≠ [] → ∃ t, exec .memoryPointPerform s = .next t ∧ SameBytes s t ∧
      t.threads = s.threads ∧ t.req? r.id = none ∧ ∃ l ∈ t.lates, l.tid = p.tid ∧ l.mark = (if c = 0x0F then 1 else 2) ∧
        l.words.map (·.1) = p.dests.map (·.1)))

/-- R122, R124, R221, R238: a write that its link accepts counts as posted; its acknowledgement ends it, and leaves its
error with a thread that has none, a second one being dropped while one stands (log 25); an event word read again releases its thread where the value satisfies it. R162,
R220, R25, R26, R288: a late result fills its registers, or marks them with its error and leaves their values; a
refill gives the RET its next pc and moves CSP up, or traps at the RET where its target is misaligned. -/
def Obligations.RepliesAreDelivered : Prop :=
  ((∀ s r, s.req? s.ev.id = some r → r.writes = true →
    ∃ t, exec .writePosted s = .next t ∧ t.req? r.id = some { r with posted := true } ∧ ({ t with reqs := s.reqs } : State) = s) ∧
  (∀ s r, s.req? s.ev.id = some r → r.isStore = true → r.performed = true → s.carries .rsp r.id = true →
    exec .storeAcknowledge s = .next s) ∧
  (∀ s r, s.req? s.ev.id = some r → r.isStore = true → r.performed = true → s.carries .rsp r.id = false →
    ∃ t, exec .storeAcknowledge s = .next t ∧ t.req? r.id = none ∧ SameBytes s t ∧
      (r.err = none → t.threads = s.threads) ∧
      (∀ c p, r.err = some c → r.parts = [p] → (find? p.tid s.threads).isSome = true →
        t.thread p.tid = if (s.thread p.tid).serr = none then { s.thread p.tid with serr := some ⟨r.st, c, p.va⟩ }
          else s.thread p.tid)) ∧
  (∀ s r p want d, s.req? s.ev.id = some r → r.kind = .evwait → r.performed = true → r.parts = [p] → s.replyError r = none →
    (find? p.tid s.threads).isSome = true → (s.thread p.tid).wait = .evwait r.id want d →
    ((s.acquireDrop r).fillFor (dataWho r.u) r.place p.addrs).readsPoison r.place p.addrs = false →
    let w := wordOf (p.addrs.map (s.readByte r.place)) 0
    s.crossing .rsp ((s.endAt r.place r.first).getD settEnd) r.u = true →
    ∃ t, exec .evwaitReread s = .next t ∧ SameBytes s t ∧
      ((w - want).toNat < 2 ^ 31 → t.thread p.tid = (({ (s.thread p.tid).advance with wait := .none } : Thread)).setReg d w ∧
        t.req? r.id = none) ∧
      (2 ^ 31 ≤ (w - want).toNat → t.threads = s.threads ∧ t.req? r.id = some r))) ∧
  ((∀ s l, s.lates.find? (fun x => x.id == s.ev.id) = some l → s.carries .rsp l.id = false → l.grp = 0 → (s.thread l.tid).wait ≠ .refill l.id →
    (∀ d, (s.thread l.tid).wait ≠ .ray l.id d) → (find? l.tid s.threads).isSome = true → (l.words.map (·.1)).Nodup →
    ∃ t, exec .lateResultDelivery s = .next t ∧ SameBytes s t ∧ (∀ tid, tid ≠ l.tid → t.thread tid = s.thread tid) ∧
      (∀ w ∈ l.words, (t.thread l.tid).isEmpty w.1 = false ∧ (t.thread l.tid).markOf w.1 = l.mark ∧
        (t.thread l.tid).reg w.1 = if l.mark = 0 then w.2 else (s.thread l.tid).reg w.1) ∧
      (∀ r, r ∉ l.words.map (·.1) → (t.thread l.tid).reg r = (s.thread l.tid).reg r ∧
        (t.thread l.tid).isEmpty r = (s.thread l.tid).isEmpty r ∧ (t.thread l.tid).markOf r = (s.thread l.tid).markOf r) ∧
      (t.thread l.tid).pc = (s.thread l.tid).pc ∧ (t.thread l.tid).wait = (s.thread l.tid).wait) ∧
  (∀ s id l lo hi, (find? s.ev.tid s.threads).isSome = true → (s.thread s.ev.tid).wait = .refill id →
    s.lates.find? (fun x => x.id == id) = some l → s.carries .rsp id = false → l.mark = 0 → l.words = [(0, lo), (1, hi)] →
    let x : DWord := hi ++ lo
    let t0 := { s.thread s.ev.tid with wait := .none }
    (x.toNat % 8 = 0 → ∃ t, exec .callStackRefillReturn s = .next t ∧
      t.thread s.ev.tid = { t0 with pc := x, csp := t0.csp + 8 } ∧ SameBytes s t) ∧
    (x.toNat % 8 ≠ 0 → (s.band (bandOf s.ev.tid)).tvec &&& 0x000FFFFFFFFFFFF8 ≠ 0 → t0.inh = false →
      ∃ t, exec .callStackRefillReturn s = .next t ∧ (t.thread s.ev.tid).tcause = 4 ∧ (t.thread s.ev.tid).tval = x ∧
        (t.thread s.ev.tid).csp = t0.csp ∧ (t.thread s.ev.tid).tpc = t0.pc &&& 0x000FFFFFFFFFFFF8)))

/-! ## Waits that end (01 R37, R38; 02 R51-R56, R69, R70; 06 R208; 07 R246-R249; 08 R260, R261; 13 R327, R332) -/

/-- R208, R53, R54, R56, R69, R70, R248, R332: the event that a waiting word waits for takes its thread past it, with what
the word gives: a sleep, a token wait, a slot released, a ring slot acquired, the predecessors, an invalidation
command. R37, R38, R246: the distributor answers a fetch-work request: the ready word 1 and the coordinates of the
next team in index order, which the launch then no longer draws, or the ready word 2 where no team is left or the
launch is cancelled. -/
def Obligations.WaitsEnd : Prop :=
  (∀ s, (find? s.ev.tid s.threads).isSome = true →
  let tid := s.ev.tid
  let x := s.thread tid
  let past : Thread := { x.advance with wait := .none }
  (∀ till, x.wait = .sleep till → MayReach s till → ∃ t, exec .sleepExpire s = .next t ∧ t.clock = max s.clock till ∧
    t.thread tid = { past with wait := if unitOf tid < 1024 then .regroup else .none } ∧
    ({ t with threads := s.threads, clock := s.clock } : State) = s) ∧
  (∀ n c, x.wait = .twait n c → (s.token tid n).outstanding ≤ c →
    ∃ t, exec .tokenWaitRelease s = .next t ∧ t.thread tid = past ∧ t.mem = s.mem ∧
      ((s.token tid n).acq = true → (t.core (unitOf tid)).l1 = [])) ∧
  (∀ n c, x.wait = .twait n c → c < (s.token tid n).outstanding → exec .tokenWaitRelease s = .next s) ∧
  (∀ ts n, x.wait = .tokens ts (.orel n) → s.waitsMet tid ts = true → (s.tile (unitOf tid)).named n = false →
    ∃ t, exec .tokenWaitRelease s = .next t ∧ t.thread tid = past ∧ (t.tile (unitOf tid)).claimed n = false) ∧
  (∀ ts q r, x.wait = .tokens ts (.rngf q) → s.waitsMet tid ts = true → find? q (s.tile (unitOf tid)).rings = some r →
    ∃ t, exec .tokenWaitRelease s = .next t ∧ t.thread tid = past ∧
      find? q (t.tile (unitOf tid)).rings = some { r with free := (r.free + 1) % r.count, acquired := r.acquired - 1 }) ∧
  (∀ q d r, x.wait = .rnga q d → find? q (s.tile (unitOf tid)).rings = some r → r.filled ≠ 0 →
    s.readsDone tid (fun _ => true) = true →
    ∃ t, exec .rngaRelease s = .next t ∧ t.thread tid = past.setReg d (BitVec.ofNat 32 (r.base + r.acq * r.size)) ∧
      find? q (t.tile (unitOf tid)).rings =
        some { r with acq := (r.acq + 1) % r.count, filled := r.filled - 1, acquired := r.acquired + 1 }) ∧
  (x.wait = .wpred → s.predsDone tid = true → s.storeError tid (fun _ => true) = .pass →
    ∃ t, exec .wpredRelease s = .next t ∧ t.thread tid = past ∧ (t.core (unitOf tid)).l1 = [] ∧ t.mem = s.mem) ∧
  (∀ n d c, x.wait = .invw n d → s.invCmd (BitVec.ofNat 32 n) = some c → c.complete = true →
    ∃ t, exec .invwReturn s = .next t ∧ t.thread tid = past.emptyRegs d 1 ∧
      ∃ l ∈ t.lates, l.tid = tid ∧ l.mark = 0 ∧ l.words = [(d, if s.pinBlocks c then 1 else 0)])) ∧
  (∀ s m, (find? s.ev.bid s.bands).isSome = true →
    (s.band s.ev.bid).boxes.find? (fun x => x.id == s.ev.id && x.pending) = some m →
    let k := (s.band s.ev.bid).team
    let pl := Place.scratch (s.team k).aid
    let l := s.launch m.lid
    s.teamWith (s.team k).aid = some k → (∀ p ∈ s.teams, p.2.lid = m.lid → p.2.place ≠ .returned) →
    (l.next < l.total → l.cancelled = false → l.desc.tensor = false → (find? m.lid s.launches).isSome = true →
      ∃ t, exec .fetchwDelivery s = .next t ∧ (t.launch m.lid).next = l.next + 1 ∧
        t.readN pl m.addr 16 = toBytes 4 1 ++ toBytes 4 (l.next % l.desc.gx) ++ toBytes 4 (l.next / l.desc.gx % l.desc.gy) ++
          toBytes 4 (l.next / l.desc.gx / l.desc.gy) ∧
        (∀ a, a < m.addr ∨ m.addr + 16 ≤ a → t.readByte pl a = s.readByte pl a) ∧ t.mem = s.mem ∧
        ∀ x ∈ (t.band s.ev.bid).boxes, x.id = m.id → x.pending = false ∧ x.holds = true) ∧
    ((l.total ≤ l.next ∨ l.cancelled = true) →
      ∃ t, exec .fetchwDelivery s = .next t ∧ t.launches = s.launches ∧ t.readN pl m.addr 4 = toBytes 4 2 ∧
        (∀ a, a < m.addr ∨ m.addr + 4 ≤ a → t.readByte pl a = s.readByte pl a) ∧ t.mem = s.mem ∧
        ∀ x ∈ (t.band s.ev.bid).boxes, x.id = m.id → x.pending = false ∧ x.holds = false))

/-! ## Engine entries (02 R48-R61, R67, R75-R80; 03 R97; 08 R271-R283; 13 R316) -/

/-- R48-R50, R57: the head of a queue that runs starts once its waits are satisfied, and its fill mark falls to 0; a
finished oldest entry leaves and its token's done count rises; an entry whose waits are not satisfied, or a queue in
Fault, stays. R412: a tensor copy whose read of its TCB cannot reach memory does not start yet. R76, R316: an entry's fault puts its queue into Fault; the thread takes it before its next instruction
with E, the queue, the cause and the entry's word, address and numbers, and its bundle is kept by the rule of R14 (R314); a thread
inside a handler holds it back.
That copy engines overlap only entries that can meet no fault follows the reading of log 95. -/
def Obligations.EntriesStartCompleteAndFault : Prop :=
  ((∀ s e rest, Oldest s s.ev.q e rest → e.started = false → e.finished = false → s.waitsMet (queueTid s.ev.q) e.waits = true →
    (isTensor e.instr = false ∨ s.tcbReach s.ev.q e = true) →
    ∃ t x, exec .engineEntryStart s = .next t ∧ x ∈ (t.queue s.ev.q).entries ∧ x.dno = e.dno ∧ x.instr = e.instr ∧
      x.tok = e.tok ∧ x.started = true ∧ (t.queue s.ev.q).entries.length = rest.length + 1 ∧ SameBytes s t ∧
      t.threads = s.threads ∧ ∀ u n o, s.ev.q = .tile u n → slotOfEntry e = some o → (t.tile u).mark o = 0) ∧
  (∀ s e rest, Oldest s s.ev.q e rest → e.started = false → e.finished = false →
    (s.waitsMet (queueTid s.ev.q) e.waits = false ∨ isTensor e.instr = true ∧ s.tcbReach s.ev.q e = false) →
    exec .engineEntryStart s = .next s) ∧
  (∀ s e rest, Oldest s s.ev.q e rest → e.finished = true → NoArrivals s (s.queueTeam s.ev.q) →
    ∃ t, exec .engineEntryComplete s = .next t ∧ Leaves s t s.ev.q e rest ∧ SameBytes s t ∧ t.threads = s.threads) ∧
  (∀ s, (s.queue s.ev.q).faulted = true →
    exec .engineEntryStart s = .next s ∧ exec .engineEntryComplete s = .next s ∧ exec .copyRowLand s = .next s ∧
    exec .bvhRefitNode s = .next s)) ∧
  ((∀ s e rest x, (s.queue s.ev.q).entries = e :: rest → (s.queue s.ev.q).faulted = false → e.fault = some x →
    (s.thread e.tid).exited = false →
    ∃ t, exec .engineFault s = .next t ∧ t.queue s.ev.q = { s.queue s.ev.q with faulted := true, reported := false } ∧
      SameBytes s t ∧ t.threads = s.threads) ∧
  (∀ s q e c v, let tid := s.ev.tid
    let x := s.thread tid
    (find? tid s.threads).isSome = true → x.exited = false → x.parked = none → x.inh = false → x.wait = .none →
    s.firstFault tid = some (q, e) → e.fault = some (c, v) → (s.band (bandOf tid)).tvec &&& 0x000FFFFFFFFFFFF8 ≠ 0 →
    ∃ t, exec .engineTrapEntry s = .next t ∧ (t.queue q).reported = true ∧ SameBytes s t ∧ t.thread tid =
      { x with tpc := x.pc &&& 0x000FFFFFFFFFFFF8, tcause := BitVec.ofNat 64 (c + 256 + 1024 * queueCode q), tval := v, pprv := x.prv,
               prv := if x.prv = 2 then 2 else 1, inh := true, pc := (s.band (bandOf tid)).tvec &&& 0x000FFFFFFFFFFFF8, wait := .none,
               efword := e.word, efpc := e.addr,
               efinfo := BitVec.ofNat 64 (queueCode q * 2 ^ 48 + e.dno % 2 ^ 32 * 2 ^ 16 + e.upc % 2 ^ 16) } ∧
      ∀ l ∈ (t.band (bandOf tid)).bundle, ∀ m ∈ (t.band (bandOf tid)).bundle,
        (t.thread (32 * bandOf tid + l)).pc.toNat = (t.thread (32 * bandOf tid + m)).pc.toNat) ∧
  (∀ s, (s.thread s.ev.tid).inh = true → s.stuckDispatch s.ev.tid = false → s.neverEnds s.ev.tid = false →
    ∃ t, exec .engineTrapEntry s = .next t ∧ t.threads = s.threads ∧ (∀ q, t.queue q = s.queue q) ∧
      ({ t with bands := s.bands } : State) = s))

/-- R61, R279, R280: an entry of the vector engine that meets no poison and no trapping NaN writes the 64 lanes of v[A]. -/
def Obligations.VectorEntriesCompute : Prop :=
  ∀ s u e rest, s.ev.q = .tile u .aq → Working s (.tile u .aq) e rest → NoArrivals s (s.queueTeam (.tile u .aq)) →
    vPoisoned e.instr (s.tile u) = none → vNan u e (s.tile u) = none → ∀ f : EFmt,
    let A := f.a.toNat
    let b := fun l => (s.tile u).lane f.b.toNat l
    let c := fun l => (s.tile u).lane f.c.toNat l
    let num := fun (w : Word) => fp32.decode w.toNat
    let out := fun (x : Machine.Num) => BitVec.ofNat 32 (fp32.round 0 false false x)
    let one := fun (mk : EFmt → Instr) (g : Nat → Word) => e.instr = mk f → VectorWrites s u e rest A g
    one .vadd (fun l => vectorSum f.efn (· + ·) (fun x y => sumNums 0 [x, y]) (b l) (c l)) ∧
    one .vsub (fun l => vectorSum f.efn (· - ·) (fun x y => sumNums 0 [x, y.negate]) (b l) (c l)) ∧
    one .vmul (fun l => vectorSum f.efn (· * ·) Machine.Num.mul (b l) (c l)) ∧
    one .vfma (fun l => out (sumNums 0 [(num (b l)).mul (num (c l)), num ((s.tile u).lane A l)])) ∧
    one .vmin (fun l => vPick (f.efn.extractLsb' 0 2).toNat false (b l) (c l)) ∧
    one .vmax (fun l => vPick (f.efn.extractLsb' 0 2).toNat true (b l) (c l)) ∧
    one .vexp (fun l => out (num (b l)).exp2) ∧ one .vrcp (fun l => out (num (b l)).recip) ∧
    one .vrsq (fun l => out (num (b l)).rsqrt) ∧ one .vtanh (fun l => out (num (b l)).tanh) ∧
    one .vcvt (fun l => (vConvert f.efn ((List.range 64).map b)).getD l 0) ∧
    one .vred (fun _ => vReduce f.efn ((List.range 64).map b)) ∧
    one .vbcst (fun _ => b (f.efn.extractLsb' 2 6).toNat) ∧
    one .vperm (fun l => b ((c l).toNat % 64)) ∧
    one .vsel (fun l => if c l ≠ 0 then b l else (s.tile u).lane A l) ∧
    one .vcmp (fun l => vCond f.efn (b l) (c l)) ∧
    one .vmov (fun l => if f.efn = 4 then e.regs.headD 0 else b l) ∧
    one .vscl (fun l => out ((num (b l)).shift (max (-1024) (min 1024 (c l).toInt))))

/-- R57-R60, R97-R99, R273-R278: a k-step adds the contribution of its elements to every element of the accumulator; MZERO
clears it; OLD copies a row into its slot and marks it full with the last; MDRN writes a rounded row; VLD and VST move lanes. That
each occurrence of ENGINE_ENTRY_COMPLETE does one row of an OLD or MDRN, or all of a VLD, VST or MZERO, is the model's choice (log 61).
R54, R293: an element that OLD reads where a bridge beat is due is the old or the new one. -/
def Obligations.MatrixAndTransferEntriesCompute : Prop :=
  (∀ s e rest f sparse, let u := s.ev.u
    Working s (.tile u .mq) e rest → e.instr = (if sparse then .mmas f else .mma f) →
    (s.tile u).stepWaits f e.upc = false → (s.tile u).stepFault u e f sparse e.upc = none →
    ∃ t, exec .mmaKstep s = .next t ∧ Steps s t (.tile u .mq) e rest (decide ((f.efn.extractLsb' 0 3).toNat + 1 ≤ e.upc + 1)) ∧
      (∀ i j, i < 64 → j < 64 → (t.tile u).accAt f.a.toNat i j = BitVec.ofNat 32 (fadd32
        ((s.tile u).accAt f.a.toNat i j).toNat ((s.tile u).contribution f sparse e.upc i j))) ∧
      (∀ a i j, a ≠ f.a.toNat → i < 64 → j < 64 → (t.tile u).accAt a i j = (s.tile u).accAt a i j) ∧ SameBytes s t) ∧
  (∀ s u e rest f, s.ev.q = .tile u .mq → Working s (.tile u .mq) e rest → e.instr = .mzero f →
    NoArrivals s (s.queueTeam (.tile u .mq)) →
    ∃ t, exec .engineEntryComplete s = .next t ∧ Leaves s t (.tile u .mq) e rest ∧
      (∀ i j, i < 64 → j < 64 → (t.tile u).accAt f.a.toNat i j = 0) ∧
      (∀ a i j, a ≠ f.a.toNat → i < 64 → j < 64 → (t.tile u).accAt a i j = (s.tile u).accAt a i j) ∧ SameBytes s t) ∧
  (∀ s u e rest f, s.ev.q = .tile u .lq → Working s (.tile u .lq) e rest → e.instr = .old f →
    NoArrivals s (s.queueTeam (.tile u .lq)) →
    let row := oldRow f e.regs e.upc
    e.upc < 64 → s.scratchFault (s.tileAid u) (row.map (·.2)) = none →
    ∃ t, exec .engineEntryComplete s = .next t ∧ SameBytes s t ∧
      (∀ p ∈ row, (t.tile u).slotByte f.a.toNat p.1 = s.readByte (.scratch (s.tileAid u)) p.2 ∨
        s.dueAt u p.2 = some ((t.tile u).slotByte f.a.toNat p.1)) ∧
      (e.upc < 63 → Steps s t (.tile u .lq) e rest false) ∧
      (e.upc = 63 → Leaves s t (.tile u .lq) e rest ∧ (t.tile u).mark f.a.toNat = 16)) ∧
  (∀ s u e rest f, s.ev.q = .tile u .sq → Working s (.tile u .sq) e rest → e.instr = .mdrn f →
    NoArrivals s (s.queueTeam (.tile u .sq)) → (s.teamWith (s.tileAid u)).isSome = true → e.upc < 64 →
    (∀ j, j < 64 → sget false (s.tile u).accPoison (4096 * f.a.toNat + 64 * e.upc + j) = false) →
    let a := (e.regs.getD 0 0).toNat + e.upc * (e.regs.getD 1 0).toNat
    let row := drainRow (s.tile u) f e.upc
    ∃ t, exec .engineEntryComplete s = .next t ∧ t.readN (.scratch (s.tileAid u)) a row.length = row ∧
      OnlyBytes s t (.scratch (s.tileAid u)) ((List.range row.length).map (a + ·)) ∧
      (e.upc < 63 → Steps s t (.tile u .sq) e rest false) ∧ (e.upc = 63 → Leaves s t (.tile u .sq) e rest)) ∧
  (∀ s u e rest f, s.ev.q = .tile u .lq → Working s (.tile u .lq) e rest → e.instr = .vld f →
    NoArrivals s (s.queueTeam (.tile u .lq)) →
    let at_ := fun i => (e.regs.getD 0 0).toNat + if f.efn.getLsbD 0 then 0 else 4 * i
    s.scratchFault (s.tileAid u) ((List.range 64).map at_) = none →
    ∃ t, exec .engineEntryComplete s = .next t ∧ Leaves s t (.tile u .lq) e rest ∧ SameBytes s t ∧
      ∀ l, l < 64 → (∀ i, i < 4 → s.dueAt u (at_ l + i) = none) →
        (t.tile u).lane f.a.toNat l = BitVec.ofNat 32 (s.readNat (.scratch (s.tileAid u)) (at_ l) 4)) ∧
  (∀ s u e rest f, s.ev.q = .tile u .sq → Working s (.tile u .sq) e rest → e.instr = .vst f →
    NoArrivals s (s.queueTeam (.tile u .sq)) → (s.teamWith (s.tileAid u)).isSome = true → vPoisoned e.instr (s.tile u) = none →
    let a := (e.regs.getD 0 0).toNat
    let n := if f.efn = 0 then 64 else f.efn.toNat
    ∃ t, exec .engineEntryComplete s = .next t ∧ Leaves s t (.tile u .sq) e rest ∧
      (∀ l, l < n → t.readNat (.scratch (s.tileAid u)) (a + 4 * l) 4 = ((s.tile u).lane f.a.toNat l).toNat) ∧
      OnlyBytes s t (.scratch (s.tileAid u)) ((List.range (4 * n)).map (a + ·)))

/-- R65-R67, R71, R271, R281-R283: a row of a TCPY puts each element, or PAD outside the tensor, at its place; a piece of a flat
copy puts its source bytes at its destination, or at every target of a CPYM, and a piece of a bridge copy leaves as beats, each a packet
of the network (R283, R408), once what it reads and writes can be reached (R412); of its own scratchpad, each element that a beat is
due at is the old or the new one (R54, R293); a beat lands in the fill slot of its ring, and the last one finishes its copy; a refit writes the bounds of a node.
A row or a piece lands as one step by the model's choice (log 36, DESIGN CHOICE). -/
def Obligations.CopiesLand : Prop :=
  (∀ s e rest f b rb size aid base, Working s s.ev.q e rest → s.ev.dno = e.dno → e.instr = .tcpy f → e.snap = some b → e.region = some (rb, size) →
    s.destOf s.ev.q e = .scratch aid base → (s.teamWith aid).isSome = true →
    let d := tcbOf b
    d.mx = false → d.order = 0 → d.bits ∈ [8, 16, 32] → d.fmt ≤ 5 → s.rowReach s.ev.q e = true →
    ∃ t, exec .copyRowLand s = .next t ∧ t.mem = s.mem ∧ Steps s t s.ev.q e rest (decide (d.rows ≤ e.upc + 1)) ∧
      ∀ x k, x < d.tile 0 → k < d.bits / 8 →
        t.readByte (.scratch aid) (base + e.upc * d.pitch + x * (d.bits / 8) + k) =
          if d.inside (d.coords (originOf e) e.upc x) then
            s.readByte .phys (d.bitAddr rb (d.coords (originOf e) e.upc x) / 8 + k)
          else BitVec.ofNat 8 (d.pad / 256 ^ k)) ∧
  (∀ s e rest f a b, Working s s.ev.q e rest → s.ev.dno = e.dno → e.instr = .cpy f → bridgeOf e = none → e.upc < flatPieces e → s.ev.discard = false →
    s.flatSides s.ev.q e e.upc = .inl (a, b) → s.pieceReach s.ev.q e = true → b.addrs.Nodup → a.addrs.length = b.addrs.length →
    (∀ n, (s.stack n).fencedBanks = []) → (∀ aid, b.place = .scratch aid → (s.teamWith aid).isSome = true) →
    ∃ t, exec .copyRowLand s = .next t ∧ Steps s t s.ev.q e rest (decide (flatPieces e ≤ e.upc + 1)) ∧
      OnlyBytes s t b.place b.addrs ∧ ∀ c ∈ b.addrs.zip a.addrs, Reads s s.ev.q a.place c.2 (t.readByte b.place c.1)) ∧
  (∀ s e rest f a b, Working s s.ev.q e rest → s.ev.dno = e.dno → e.instr = .cpym f → e.upc < flatPieces e → s.ev.discard = false →
    s.flatSides s.ev.q e e.upc = .inl (a, b) → s.pieceReach s.ev.q e = true → b.addrs.Nodup → a.addrs.length = b.addrs.length →
    (∀ n, (s.stack n).fencedBanks = []) → (∀ aid ∈ e.aids, (s.teamWith aid).isSome = true) →
    ∃ t, exec .copyRowLand s = .next t ∧ Steps s t s.ev.q e rest (decide (flatPieces e ≤ e.upc + 1)) ∧ t.mem = s.mem ∧
      ∀ aid ∈ e.aids, ∀ c ∈ b.addrs.zip a.addrs, Reads s s.ev.q a.place c.2 (t.readByte (.scratch aid) c.1)) ∧
  (∀ s e rest f a b c, Working s s.ev.q e rest → s.ev.dno = e.dno → e.instr = .cpy f → bridgeOf e = some c → e.upc < flatPieces e →
    s.ev.discard = false → s.bridgeHeld s.ev.q e = false → s.channelFull c = false → s.flatSides s.ev.q e e.upc = .inl (a, b) →
    s.pieceReach s.ev.q e = true →
    let ch := (find? c s.channels).getD {}
    ∃ t new, exec .copyRowLand s = .next t ∧ SameBytes s t ∧ (find? c t.channels).getD {} = { ch with sent := ch.sent ++ new } ∧
      new.length = a.addrs.length / 16 ∧ (∀ x ∈ new, t.carries .brg x.1 = true) ∧
      ∀ i, i < new.length → let bs := (new.map (·.2.data)).getD i []
        bs.length = 16 ∧ ∀ c ∈ bs.zip ((a.addrs.drop (16 * i)).take 16), Reads s s.ev.q a.place c.2 c.1) ∧
  (∀ s u q r ch b rest, find? s.ev.chan s.channels = some ch → ch.bound = some (u, q) → ch.beats = b :: rest →
    find? q (s.tile u).rings = some r → r.hasRoom = true → r.chan = some s.ev.chan → (s.teamWith (s.tileAid u)).isSome = true →
    (s.team ch.team).place = .resident u →
    ∃ t, exec .bridgeBeatLand s = .next t ∧ find? s.ev.chan t.channels = some { ch with beats := rest } ∧
      t.readN (.scratch (s.tileAid u)) (r.base + r.fill * r.size + r.part) b.data.length = b.data ∧
      find? q (t.tile u).rings = some (if r.part + 16 < r.size then { r with part := r.part + 16 }
        else { r with part := 0, filled := r.filled + 1, fill := (r.fill + 1) % r.count }) ∧
      (b.last = true → ∀ bid, (s.team b.team).bands.find? (fun x => (s.band x).index == b.index) = some bid →
        ∀ x ∈ (t.queue (.band bid)).entries, x.dno = b.dno → x.finished = true)) ∧
  (∀ s e rest f, Working s s.ev.q e rest → s.ev.dno = e.dno → e.instr = .bvhr f → (s.refitReads s.ev.q e).refitFault s.ev.q e = none →
    s.ev.discard = false → s.refitReach s.ev.q e = true →
    (∀ n, (s.stack n).fencedBanks = []) →
    let h := e.hdls.headD {}
    let u := unitOfQueue s.ev.q
    let ref := s.refitRef u e e.upc
    let addrs := s.pageBytesAt h u (pageBase h.leaf h.base.toNat + refOff ref) 96
    ∃ t, exec .bvhRefitNode s = .next t ∧ Steps s t s.ev.q e rest (decide ((e.regs.getD 2 0).toNat ≤ e.upc + 1)) ∧
      OnlyBytes s t .phys addrs ∧ addrs.map (t.readByte .phys) =
        (List.range 4).flatMap (fun c => (s.newBounds h u (s.nodeBytes h u ref) c).flatMap (fun w => toBytes 4 w.toNat)))

/-! ## Launches and teams (01 R10-R15, R33-R37; 15 R363-R386, R449) -/

/-- R364-R367, R381: a launch at the read count of a queue becomes its head with the team count of its grid, its graph and job
counted; one that fails a check records failed with no team; a PKGBAR launch reserves slots where the ring has them.
The order of the checks of a descriptor follows the reading of log 55. -/
def Obligations.LaunchesAreSubmitted : Prop :=
  (∀ s e a b, let c := s.ev.ctx
    let q := s.ev.queue
    let x := s.ctx c
    let d := Desc.parse b
    let lid := launchId c q (fieldOf e 16 4)
    x.valid = true → q < 64 → find? q x.heads = none → s.ctxBytes c (x.qtab + 64 * q) 64 = some e → fieldOf e 12 4 ≠ fieldOf e 16 4 →
    s.ctxNat c (fieldOf e 0 8 + 8 * (fieldOf e 16 4 % 2 ^ fieldOf e 8 1)) 8 = some a → s.ctxBytes c a 256 = some b →
    find? (65536 * c + d.graph) s.graphs = none → find? (65536 * c + d.job) s.jobs = none →
    (s.descOk c false s.fresh b = true → d.preds = [] →
      ∃ t, exec .launchSubmit s = .next t ∧ find? lid t.launches = some
        { ctx := c, queue := q, desc := d, inst := s.fresh, remaining := d.gx * d.gy * d.gz, total := d.gx * d.gy * d.gz,
          budgets := [(s.clock, BitVec.ofNat 32 d.steps)] } ∧
        find? q (t.ctx c).heads = some lid ∧
        find? (65536 * c + d.graph) t.graphs = some { remaining := d.gcount, accepted := 1, count := d.gcount, inst := s.fresh } ∧
        find? (65536 * c + d.job) t.jobs = some { remaining := d.jcount, accepted := 1, count := d.jcount, inst := s.fresh } ∧
        SameBytes s t) ∧
    ((∀ n, s.descOk c false n b = false) → ∃ t, exec .launchSubmit s = .next t ∧ (t.launch lid).status = 3 ∧ (t.launch lid).remaining = 0)) ∧
  (∀ s tail head resv, let l := s.launch s.ev.lid
    let x := s.ctx l.ctx
    l.desc.pkgbar = true → l.reserved = false → s.isHead s.ev.lid = true → l.next < l.total → s.ctxNat l.ctx x.burrow 8 = some tail →
    s.ctxNat l.ctx (x.burrow + 0x80) 8 = some head → s.ctxNat l.ctx (x.burrow + 0x100) 4 = some resv →
    (2 ^ x.bcap < resv + l.total + (tail - head) → exec .pkgbarReserve s = .next (s.readRing l.ctx)) ∧
    (∀ w, resv + l.total + (tail - head) ≤ 2 ^ x.bcap → (s.readRing l.ctx).ctxWrite l.ctx (x.burrow + 0x100) (toBytes 4 (resv + l.total)) = some w →
      exec .pkgbarReserve s = .next (w.onLaunch s.ev.lid (fun y => { y with reserved := true }))))

/-- R369: with no ticket among the ready queues a draw takes the lowest-numbered one and leaves the context's generator X; else it
moves X once (x ^= x << 13, x ^= x >> 17, x ^= x << 5) and takes the queue among whose tickets, counted on from the lowest-numbered
ready queue, the number X mod T lies. R371, R372, R449: the next team of the chosen launch, or its whole cluster group, goes to the tail of
the open cluster queue with the most free places, which must hold the group, ties to the lowest; the machine queue's head places without a
draw. R11, R373-R375: a queued team starts on the core of its cluster with room for it that has the most free bands, ties to the lowest
position, with the bands, registers, masks and entry point of its launch and its L1 invalid; a group starts together, each team on a core of
its own, or not at all; an idle cluster takes the oldest team of its longest neighbour, but nothing while that one starts a team, or can
start one; a tensor launch is placed whole on its tiles. -/
def Obligations.TeamsAreDrawnAndPlaced : Prop :=
  ((∀ (s : State) (i q lid n : Nat) (y : Word) (cl : Nat), let c := s.ev.ctx
    let l := s.launch lid
    let qs := s.readyQueues c
    let x := (s.ctx c).x
    let total := (qs.map (·.2.2)).sum
    let before := ((qs.take i).map (·.2.2)).sum
    let a := x ^^^ (x <<< 13)
    let b := a ^^^ (a >>> 17)
    (s.ctx c).valid = true → (s.ctx c).suspended = false → s.machineFirst = false →
    s.returnedTeams (fun l => l.ctx == c && l.queue != 64) = [] → (qs.map (·.1)).Pairwise (· < ·) → qs[i]? = some (q, lid, n) →
    (total = 0 ∧ i = 0 ∧ y = x ∨
      total ≠ 0 ∧ y = b ^^^ (b <<< 5) ∧ before ≤ y.toNat % total ∧ y.toNat % total < before + n) →
    let g := max 1 l.desc.cgroup
    let stop := min l.total ((l.next / g + 1) * g)
    s.clusterFor lid = some cl → s.turnAt cl = some c →
    ∃ t, exec .lotteryDraw s = .next t ∧ (t.ctx c).x = y ∧ (t.launch lid).next = stop ∧
      sget [] t.clusterQ cl = sget [] s.clusterQ cl ++ (List.range (stop - l.next)).map (s.fresh + ·) ∧
      ∀ j, j < stop - l.next → let n := l.next + j
        find? (s.fresh + j) t.teams = some
          { lid := lid, index := n, x := n % l.desc.gx, y := n / l.desc.gx % l.desc.gy, z := n / l.desc.gx / l.desc.gy,
            place := .queued cl }) ∧
  (∀ (s : State) (lid cl : Nat), s.clusterFor lid = some cl ↔
    cl < 128 ∧ s.mayRun lid cl = true ∧ (s.launch lid).desc.places + (sget [] s.clusterQ cl).length ≤ 16 ∧
      ∀ n, n < 128 → s.mayRun lid n = true → (s.launch lid).desc.places + (sget [] s.clusterQ n).length ≤ 16 →
        (sget [] s.clusterQ cl).length < (sget [] s.clusterQ n).length ∨
          (sget [] s.clusterQ cl).length = (sget [] s.clusterQ n).length ∧ cl ≤ n) ∧
  (∀ s lid cl, let l := s.launch lid
    s.returnedTeams (fun l => l.queue == 64 && !(s.ctx l.ctx).suspended) = [] → s.machineHead = some lid → s.headReady lid = true →
    s.clusterFor lid = some cl → l.desc.cgroup = 0 → s.machineWait = [] →
    ∃ t, exec .machineQueuePlace s = .next t ∧ (t.launch lid).next = l.next + 1 ∧ t.ctxs = s.ctxs ∧
      sget [] t.clusterQ cl = sget [] s.clusterQ cl ++ [s.fresh])) ∧
  ((∀ s k u sl, let cl := s.ev.cl
    let d := (s.launch (s.team k).lid).desc
    s.headGroup cl = [k] → (find? k s.teams).isSome = true → s.throttled cl = false → s.wokenWaits cl = false →
    s.teamSuspended k = false → s.clusterOpen cl = true → s.coresFor cl (s.team k).lid 1 [] = some [u] →
    s.slotsFor u d.bands = some sl → d.tensor = false →
    ∃ t, exec .teamResident s = .next t ∧ (t.team k).place = .resident u ∧ (t.team k).bands = sl.map (64 * u + ·) ∧
      k ∉ sget [] t.clusterQ cl ∧ (t.core u).l1 = [] ∧ t.mem = s.mem ∧ ∀ i b, (sl.map (64 * u + ·))[i]? = some b → i < d.bands →
        (t.band b).team = k ∧ (t.band b).index = i ∧ (t.band b).lanes = d.lanesOf i ∧ (t.band b).nregs = d.regs ∧
        (t.band b).mask 0 = maskOf (List.range (d.lanesOf i)) ∧ ∀ l, l < d.lanesOf i → t.thread (32 * b + l) =
          { pc := BitVec.ofNat 64 d.entry, csp := BitVec.ofNat 32 d.spilltop, prv := if d.priv then 1 else 0 }) ∧
  (∀ (s : State) (cl lid : Nat) (others : List Nat) (u : Nat), let d := (s.launch lid).desc
    let takes := fun (v : Nat) => v / 8 = cl ∧ v ∉ others ∧ s.unitFenced v = false ∧ (s.slotsFor v d.bands).isSome = true ∧
      s.regBytes v + d.bands * (128 * d.regs) ≤ 2 ^ 18 ∧ s.allocBytes v + d.scratch ≤ scratchSize v
    s.coreFor cl lid others = some u ↔ takes u ∧ ∀ v, takes v → s.freeSlotsOn v < s.freeSlotsOn u ∨
      s.freeSlotsOn v = s.freeSlotsOn u ∧ u ≤ v) ∧
  (∀ (s : State) (k : Nat) (ks : List Nat), let cl := s.ev.cl
    let lid := (s.team k).lid
    s.headGroup cl = k :: ks → (sget [] s.clusterQ cl).Nodup → (∀ j ∈ k :: ks, (find? j s.teams).isSome = true ∧ (s.team j).lid = lid) →
    (s.launch lid).desc.tensor = false →
    (s.coresFor cl lid (ks.length + 1) [] = none → exec .teamResident s = .next s) ∧
    ∀ (us : List Nat), s.coresFor cl lid (ks.length + 1) [] = some us → us.length = ks.length + 1 ∧ us.Nodup ∧ (∀ u ∈ us, u / 8 = cl) ∧
      (s.throttled cl = false → s.wokenWaits cl = false → s.teamSuspended k = false → s.clusterOpen cl = true →
        ∃ t, exec .teamResident s = .next t ∧ ∀ (i j u : Nat), (k :: ks)[i]? = some j → us[i]? = some u →
          (t.team j).place = .resident u ∧ j ∉ sget [] t.clusterQ cl)) ∧
  (∀ s n k rest, let cl := s.ev.cl
    cl < 128 → (∀ x, find? cl s.lastSteal = some x → x + 64 ≤ s.clock) → sget [] s.clusterQ cl = [] → s.longest cl = some n →
    n ≠ cl → sget [] s.clusterQ n = k :: rest →
    ((find? n s.lastStart = some s.clock ∨ (s.nextStart n).isSome = true) → exec .clusterSteal s = .next s) ∧
    (find? n s.lastStart ≠ some s.clock → s.nextStart n = none → s.stealable k cl = true → (s.coreFor cl (s.team k).lid []).isSome = true →
    (find? k s.teams).isSome = true →
    ∃ t, exec .clusterSteal s = .next t ∧ sget [] t.clusterQ cl = [k] ∧ sget [] t.clusterQ n = rest ∧
      find? cl t.lastSteal = some s.clock ∧ t.team k = { s.team k with place := .queued cl })) ∧
  (∀ s, let lid := s.ev.lid
    let l := s.launch lid
    l.desc.tensor = true → s.isHead lid = true → l.next < l.total → s.predsHinted lid = true → (s.ctx l.ctx).suspended = false →
    (l.queue = 64 ∨ (s.ctx l.ctx).valid = true ∧ s.queueOn l.ctx l.queue = true ∧ s.machineWants lid = false) →
    (∀ u ∈ l.desc.tiles, s.tileFree u l.desc.scratch = true ∧ (s.die (dieOf u)).st = .online) → l.desc.last ≠ 0 → s.machineWait = [] →
    ∃ t, exec .tensorLaunchPlace s = .next t ∧ (t.launch lid).next = l.total ∧ ∀ i, i < l.total → ∃ k,
      (t.team k).place = .resident (l.desc.tileOf i) ∧ (t.team k).lid = lid ∧ (t.team k).index = i ∧
      (t.thread (2048 * l.desc.tileOf i)).pc = BitVec.ofNat 64 l.desc.entry))

/-- R13: a regroup falls on a multiple of 4 clocks since its die's core region left reset. Its candidates are the bands with a ready
thread; it picks up to 4 of them in round-robin order of band slot, starting after the last band of the previous pick, and leaves out
a candidate only when 4 others come before it. A picked band's bundle is one whole group of its ready threads at one pc: the lowest
pc among those of age 64 or more, else the group of most threads, at a tie the lowest pc. The group's ages become 0, those of the
band's other ready threads rise by one up to 127, no other age changes. R14: a band that is not picked has no bundle. R18, R20-R22: the
regroup completes each join whose live members have all arrived: its waiting threads go past the word, the arrived set is cleared and the
generation flips; a thread in WAITM goes on where the generation has changed or every other live member has arrived; others wait on.
That a regroup which picked no band leaves the place in the order as it was is the model's choice (log 96). -/
def Obligations.RegroupPicksReadyBands : Prop :=
  ∀ s, let u := s.ev.u
    let sub := s.ev.sub
    let bs := s.bandsOf u sub
    let pos := fun (b : Nat) => (b % 64 / 4 + 15 - (s.window u sub).last % 16) % 16
    s.boot.stage = .up → u < 1024 → sub < 4 → (s.window u sub).over s.clock = true → MayReach s (s.slotDue u sub) → bs.Nodup →
    (∀ b ∈ bs, (s.band b).lanes ≤ 32 ∧ ∀ l, l < (s.band b).lanes → (find? (32 * b + l) s.threads).isSome = true) →
    ∃ t p, exec .regroup s = .next t ∧ (∃ n, t.clock = (s.die (u / 256)).start + 4 * n) ∧
      (t.window u sub).picked = p ∧ (t.window u sub).next = (if p = [] then 4 else 0) ∧
      (∀ b, p.getLast? = some b → (t.window u sub).last = b % 64 / 4) ∧ (t.window u sub).start = t.clock ∧
      (∀ b ∈ bs, (∀ n, n < 12 →
          let waits := fun (l : Nat) => l < (s.band b).lanes ∧ (s.thread (32 * b + l)).wait = .join n
          ((∃ l, waits l) ∧ (∀ l ∈ s.members b n, hasLane ((s.band b).arr n) l = true) →
            (t.band b).gen n = !(s.band b).gen n ∧ (t.band b).arr n = 0 ∧ ∀ l, waits l →
              (t.thread (32 * b + l)).pc = (s.thread (32 * b + l)).pc + 8 ∧ (t.thread (32 * b + l)).wait = .none) ∧
          ((¬ ∃ l, waits l) ∨ (∃ l ∈ s.members b n, hasLane ((s.band b).arr n) l = false) →
            (t.band b).gen n = (s.band b).gen n ∧ (t.band b).arr n = (s.band b).arr n ∧ ∀ l, waits l →
              (t.thread (32 * b + l)).pc = (s.thread (32 * b + l)).pc ∧ (t.thread (32 * b + l)).wait = .join n)) ∧
        ∀ l n g, l < (s.band b).lanes → (s.thread (32 * b + l)).wait = .waitm n g →
          ((t.band b).gen n ≠ g ∨ (∀ m ∈ s.members b n, m = l ∨ hasLane ((t.band b).arr n) m = true) →
            (t.thread (32 * b + l)).pc = (s.thread (32 * b + l)).pc + 8 ∧ (t.thread (32 * b + l)).wait = .none) ∧
          ((t.band b).gen n = g → (∃ m ∈ s.members b n, m ≠ l ∧ hasLane ((t.band b).arr n) m = false) →
            (t.thread (32 * b + l)).pc = (s.thread (32 * b + l)).pc ∧ (t.thread (32 * b + l)).wait = .waitm n g)) ∧
      let ready := fun b l => l < (s.band b).lanes ∧ t.ready (32 * b + l) = true
      let pc := fun b l => (t.thread (32 * b + l)).pc
      let age := fun b l => (s.thread (32 * b + l)).age
      p.length ≤ 4 ∧ p.Pairwise (fun a b => pos a < pos b) ∧ (∀ b ∈ p, b ∈ bs ∧ ∃ l, ready b l) ∧
      (∀ b ∈ bs, b ∉ p → (t.band b).bundle = [] ∧ ((∃ l, ready b l) → p.length = 4 ∧ ∀ a ∈ p, pos a < pos b) ∧
        ∀ l, l < (s.band b).lanes → (t.thread (32 * b + l)).age = age b l) ∧
      ∀ b ∈ p, ∃ x, (t.band b).bundle ≠ [] ∧ (∀ l, l ∈ (t.band b).bundle ↔ ready b l ∧ pc b l = x) ∧
        (∀ l, ready b l → 64 ≤ age b l → (∃ m, ready b m ∧ 64 ≤ age b m ∧ pc b m = x) ∧ x.toNat ≤ (pc b l).toNat) ∧
        ((∀ l, ready b l → age b l < 64) → ∀ l, ready b l →
          let size := fun y => ((List.range (s.band b).lanes).filter (fun m => t.ready (32 * b + m) && pc b m == y)).length
          size (pc b l) < size x ∨ size (pc b l) = size x ∧ x.toNat ≤ (pc b l).toNat) ∧
        ∀ l, l < (s.band b).lanes → (t.thread (32 * b + l)).age =
          if l ∈ (t.band b).bundle then 0 else if t.ready (32 * b + l) = true then min 127 (age b l + 1) else age b l

/-- R34, R35, R38, R382, R384, R386: a team whose threads have exited and whose tokens are done is counted, once for all the records
that the model holds of it (log 20), and its threads are freed; a withdrawn team that waits for writes of its fetching band counts once a release at package scope would no longer wait for
them, and not before (log 12); quarantined space is freed with the last request towards it; held records and step budgets are written.
R385, R406: a congestion level reaches a cluster that has a request queued, with the clock, and drops after 4096
clocks.
That a queued request's data does not wait for its grant is the model's choice (log 72). -/
def Obligations.TeamsCompleteAndCongest : Prop :=
  ((∀ s, let k := s.ev.team
    let x := s.team k
    (find? k s.teams).isSome = true → s.isResident k = true → s.teamDone k = true → x.done = false →
    (∀ b ∈ x.bands, (s.band b).boxes = []) → x.boxes = [] → (s.launch x.lid).remaining ≠ 0 →
    ∃ t, exec .teamComplete s = .next t ∧ (t.team k).done = true ∧ (t.team k).place = .gone ∧ (t.team k).bands = [] ∧
      (t.team k).status = (if x.status = 0 then 1 else x.status) ∧
      (t.launch x.lid).remaining = (s.launch x.lid).remaining -
        (if ∃ p ∈ s.teams, p.2.lid = x.lid ∧ p.2.index = x.index ∧ p.1 ≠ k ∧ p.2.done = true then 0 else 1) ∧ ∀ tid ∈ s.teamTids k, tid / 32 ∈ x.bands → find? tid t.threads = none) ∧
  (∀ s, s.teamDone s.ev.team = false → exec .teamComplete s = .next s) ∧
  (∀ s lid ids rest, s.agenda = .countWithdrawn :: rest → s.counts = [(lid, ids)] →
    ((∃ r ∈ s.reqs, r.id ∈ ids ∧ r.holds 5 = true) → step s = .next { s with agenda := rest }) ∧
    ((∀ r ∈ s.reqs, r.id ∈ ids → r.holds 5 = false) → 1 < (s.launch lid).remaining → (s.launch lid).desc.pkgbar = false →
      ∃ t, step s = .next t ∧ t.counts = [] ∧ (t.launch lid).remaining = (s.launch lid).remaining - 1 ∧
        ({ t with agenda := s.agenda, counts := s.counts, launches := s.launches } : State) = s)) ∧
  (∀ s u n x, (s.team s.ev.team).place = .resident u → 1024 ≤ u → u < 2048 → find? n (s.tile u).k = some x → x.issued ≠ x.done →
    exec .teamComplete s = .next s) ∧
  (∀ s, (s.inbound s.ev.id = 0 → ∃ t, exec .quarantineEnd s = .next t ∧ (∀ p ∈ t.quarantine, p.1 ≠ s.ev.id) ∧
      ({ t with quarantine := s.quarantine } : State) = s) ∧ (s.inbound s.ev.id ≠ 0 → exec .quarantineEnd s = .next s)) ∧
  (∀ s, s.ev.discard = true → exec .heldCompletionRecordWrite s = .next { s with heldRecs := [], complFault := false }) ∧
  (∀ s r a b, s.ev.discard = false → s.heldRecs = [r] → s.ctxCells r.ctx r.va r.body = some a →
    s.ctxCells r.ctx (r.va + 12) (toBytes 4 r.status) = some b → exec .heldCompletionRecordWrite s =
      .next { (s.writeHome settWho a).writeHome settWho b with heldRecs := [], complFault := false }) ∧
  (∀ s, (find? s.ev.lid s.launches).isSome = true → ∃ t, exec .stepBudgetRewrite s = .next t ∧
    (t.launch s.ev.lid).budgets = (s.clock, s.ev.v.setWidth 32) :: (s.launch s.ev.lid).budgets ∧
    ({ t with launches := s.launches, packets := s.packets } : State) = s)) ∧
  ((∀ s, let x := s.stack s.ev.stack
    s.ev.cl < 256 → (sget {} x.chans s.ev.ch).queue.any (fun r => r.cl == s.ev.cl) = true →
    let q := (sget {} x.chans s.ev.ch).queue.length
    let level := if x.temps.any (fun p => decide (105 < p.2)) then 3 else if q < 64 then 0 else if q < 96 then 1 else if q < 120 then 2 else 3
    ∃ t, exec .congestionLevelMessage s = .next t ∧ find? (4 * s.ev.cl + level) t.levels = some ⟨level, s.clock⟩ ∧
      find? s.ev.cl (sget {} (t.stack s.ev.stack).chans s.ev.ch).sent = some (level, s.clock) ∧
      ({ t with levels := s.levels, hbm := s.hbm } : State) = s) ∧
  (∀ s l, find? (4 * s.ev.cl + s.congestion s.ev.cl) s.levels = some l → MayReach s (l.at_ + 4096) →
    ∃ t, exec .congestionLevelExpire s = .next t ∧ t.clock = max s.clock (l.at_ + 4096) ∧
      ∀ p ∈ t.levels, p.1 / 4 = s.ev.cl → t.clock < p.2.at_ + 4096))

/-- R32, R33, R325, R333, R377, R380: a team at barriers leaves its core for a place of its cluster's record store, its carried bytes
with it; a woken one comes back; a leg save takes its team off the core and gives the size of its image; the firmware ends a context after a fault of its ring. -/
def Obligations.TeamsAreSwapped : Prop :=
  (∀ s, let k := s.ev.team
    let u := s.unitOfTeam k
    (find? k s.teams).isSome = true → s.isResident k = true → s.swappable k u = true →
    s.storeRoom (u / 8) (s.launch (s.team k).lid).desc.legBytes = true →
    ∃ t, exec .swapOut s = .next t ∧ (t.team k).place = .stored (u / 8) ∧ (t.team k).leg.isSome = true ∧ (t.team k).bands = [] ∧
      (∀ a, a < (s.team k).carry → Memory.read (t.team k).scratch a = Memory.read (s.team k).scratch a) ∧
      (∀ a, (s.team k).carry ≤ a → Memory.read (t.team k).scratch a = 0) ∧ t.mem = s.mem) ∧
  (∀ s, s.swappable s.ev.team (s.unitOfTeam s.ev.team) = false → exec .swapOut s = .next s) ∧
  (∀ s cl u sl g, let k := s.ev.team
    let d := (s.launch (s.team k).lid).desc
    (find? k s.teams).isSome = true → (s.team k).place = .stored cl → (s.team k).leg = some g → (s.team k).woken = true →
    (s.team k).done = false → s.teamSuspended k = false → s.throttled cl = false → (s.die (cl / 32)).st = .online →
    s.pickCore cl d.bands d.regs d.scratch [] = some u → s.slotsFor u d.bands = some sl →
    ∃ t, exec .teamWake s = .next t ∧ (t.team k).place = .resident u ∧ (t.team k).bands = sl.map (64 * u + ·) ∧
      (t.team k).woken = false ∧ (t.team k).leg = none ∧ t.mem = s.mem) ∧
  (∀ s r, let k := r.team
    s.saves.find? (fun p => p.id == s.ev.id && p.leg == true) = some r → (find? k s.teams).isSome = true → s.isResident k = true →
    (s.die (dieOf (s.unitOfTeam k))).st = .online →
    ((∃ tid ∈ s.teamTids k, (s.thread tid).exited = false ∧ atBarrier (s.thread tid) = false) → exec .ctxsLegSave s = .next s) ∧
    ((∀ tid ∈ s.teamTids k, (s.thread tid).exited = false → atBarrier (s.thread tid) = true) → s.teamQuiet k r.id = true →
      r.copy = false → r.tid ∉ s.teamTids k →
      ∃ t, exec .ctxsLegSave s = .next t ∧ (t.team k).place = .savedOut (s.unitOfTeam k) r.image ∧ (∀ p ∈ t.saves, p.id ≠ r.id) ∧
        ∃ l ∈ t.lates, l.tid = r.tid ∧ l.words = [(r.d, BitVec.ofNat 32 ((s.imageSize k 3 + 4095) / 4096 * 256))])) ∧
  (∀ s, s.contextFaults s.ev.ctx = true → (find? s.ev.ctx s.ctxs).isSome = true →
    ∃ t, exec .contextEnd s = .next t ∧ (t.ctx s.ev.ctx).valid = false ∧
      (∀ lid l, find? lid s.launches = some l → l.ctx = s.ev.ctx → l.remaining ≠ 0 → (t.launch lid).status = 3) ∧
      ∀ k x, find? k s.teams = some x → (s.launch x.lid).ctx = s.ev.ctx → (t.team k).done = true) ∧
  (∀ s, s.contextFaults s.ev.ctx = false → exec .contextEnd s = .next s)

/-! ## System words (13 R311-R340, 17 R414-R419) -/

/-- R5, R311, R312, R330, R424, R436: CSRR reads a control register; CSRW, CSRS and CSRC read the old value and write the new
one, whose bits outside the register are dropped, in one step that changes no other control register; a write of TSTATE keeps
PRV and holds PPRV down to it; below its level a register raises trap 0x02. -/
def Obligations.ControlRegisters : Prop :=
  (∀ f s, Issuing (.csrr f) s → AllPass (.csrr f) s (csrCheck f false) →
    Completes (.csrr f) s (fun tid t => t.setReg64 f.d.toNat (s.csr tid f.imm.toNat))) ∧
  (∀ f s tid, ∀ p ∈ ([(Instr.csrw f, fun _ a => a), (.csrs f, fun o a => o ||| a), (.csrc f, fun o a => o &&& ~~~a)] :
      List (Instr × (DWord → DWord → DWord))),
    Issuing p.1 s → performers p.1 s = [tid] → AllPass p.1 s (csrCheck f true) →
    let n := f.imm.toNat
    let old := s.csr tid n
    let v := p.2 old ((s.thread tid).reg64 f.a.toNat)
    ∃ t, exec p.1 s = .next t ∧ (t.thread tid).pc = (s.thread tid).pc + 8 ∧ (t.thread tid).reg64 f.d.toNat = old ∧
      (∀ r, r ≠ f.d.toNat → r ≠ f.d.toNat + 1 → (t.thread tid).reg r = (s.thread tid).reg r) ∧ t.mem = s.mem ∧
      (n ≠ 0 → t.csr tid n = v &&& csrMask n ∧ (t.thread tid).prv = (s.thread tid).prv) ∧
      (n = 0 → TstateWritten (s.thread tid) (t.thread tid) v) ∧
      ∀ m, csrExists m = true → m ≠ n → t.csr tid m = s.csr tid m) ∧
  (∀ f s l, ∀ p ∈ [(Instr.csrr f, false), (.csrw f, true), (.csrs f, true), (.csrc f, true)],
    Issuing p.1 s → s.cur.lanes = [l] → selected p.1 s l = true →
    laneCheck p.1 s.cur.word s.cur.u (s.band s.cur.bid).nregs (s.thread (s.here l)) = .pass →
    (s.thread (s.here l)).prv < 2 →
    (0x40 ≤ f.imm.toNat ∨ p.2 = true ∧ (f.imm = 0x012 ∨ f.imm = 0x020 ∨ f.imm = 0x031)) →
    exec p.1 s = .next ((s.raise (s.here l) 0x02 s.cur.word).keepBundle s.cur.bid [l])) ∧
  (∀ s, (find? s.ev.tid s.threads).isSome = true →
    ∃ t, exec .tstateWrite s = .next t ∧ TstateWritten (s.thread s.ev.tid) (t.thread s.ev.tid) s.ev.v ∧
      (∀ tid, tid ≠ s.ev.tid → t.thread tid = s.thread tid) ∧ ({ t with threads := s.threads } : State) = s)

/-- R329, R76, R240, R244: TRET in a handler (INH = 1) clears INH and restores PRV from PPRV; for a thread's own cause it goes on
at TPC, at TPC + 8 (a broken barrier is then complete with status 1), or ends the thread and fails its launch; for an engine
entry's fault it goes on at TPC and the entry restarts or is completed as it stands, or the team ends; after an engine reset it goes on
at TPC and no entry changes (R79). With INH = 0 it is illegal. -/
def Obligations.TrapReturns : Prop :=
  (∀ f s, Issuing (.tretRetry f) s → AllPass (.tretRetry f) s tretCheck →
    (∀ tid ∈ performers (.tretRetry f) s, (s.thread tid).tcause.getLsbD 8 = false) →
    Completes (.tretRetry f) s (fun _ t => { t with inh := false, prv := t.pprv, pc := t.tpc })) ∧
  (∀ f s, Issuing (.tretSkip f) s → AllPass (.tretSkip f) s tretCheck →
    (∀ tid ∈ performers (.tretSkip f) s, (s.thread tid).tcause.getLsbD 8 = false ∧
      (s.thread tid).tcause.extractLsb' 0 8 ≠ 0x0E) →
    Completes (.tretSkip f) s (fun _ t => { t with inh := false, prv := t.pprv, pc := t.tpc + 8 })) ∧
  (∀ f s tid w, Issuing (.tretSkip f) s → performers (.tretSkip f) s = [tid] → AllPass (.tretSkip f) s tretCheck →
    let x := s.thread tid
    let b := unpackI w
    x.tcause.getLsbD 8 = false → x.tcause.extractLsb' 0 8 = 0x0E → s.fetch s.cur.u (s.asidOf tid) x.tpc.toNat = some w →
    ∃ t, exec (.tretSkip f) s = .next t ∧ (t.thread tid).pc = x.tpc + 8 ∧ (t.thread tid).inh = false ∧
      (t.thread tid).prv = x.pprv ∧ (t.thread tid).wait = .none ∧ (t.thread tid).reg b.d.toNat = 1 ∧
      ∀ r, r ≠ b.d.toNat → (t.thread tid).reg r = if r < carryOf b then x.reg r else 0) ∧
  (∀ f s tid, Issuing (.tretKill f) s → performers (.tretKill f) s = [tid] → AllPass (.tretKill f) s tretCheck →
    (find? (s.lidOf tid) s.launches).isSome = true → (find? (s.teamOf tid) s.teams).isSome = true →
    ((s.thread tid).tcause.getLsbD 8 = false → s.cur.u < 1024 → ∃ t, exec (.tretKill f) s = .next t ∧
      (t.thread tid).exited = true ∧ (t.launch (s.lidOf tid)).status = 3) ∧
    (((s.thread tid).tcause.getLsbD 8 = true ∨ 1024 ≤ s.cur.u) → ∃ t, exec (.tretKill f) s = .next t ∧
      (t.team (s.teamOf tid)).done = true)) ∧
  (∀ f s tid, Issuing (.tretRetry f) s → performers (.tretRetry f) s = [tid] → AllPass (.tretRetry f) s tretCheck →
    let x := s.thread tid
    let q := queueOfCode tid (x.tcause.extractLsb' 10 3).toNat
    x.tcause.getLsbD 8 = true → x.tcause.extractLsb' 0 8 ≠ 0x18 →
    ∃ t, exec (.tretRetry f) s = .next t ∧ t.thread tid = { x with inh := false, prv := x.pprv, pc := x.tpc } ∧
      (t.queue q).faulted = false ∧ (∀ e ∈ (t.queue q).entries, e.fault = none) ∧
      (t.queue q).entries.map (·.dno) = (s.queue q).entries.map (·.dno)) ∧
  (∀ f s tid, ∀ i ∈ [Instr.tretRetry f, .tretSkip f], Issuing i s → performers i s = [tid] → AllPass i s tretCheck →
    let x := s.thread tid
    x.tcause.getLsbD 8 = true → x.tcause.extractLsb' 0 8 = 0x18 →
    ∃ t, exec i s = .next t ∧ t.thread tid = { x with inh := false, prv := x.pprv, pc := x.tpc } ∧ (∀ q, t.queue q = s.queue q) ∧
      SameBytes s t) ∧
  (∀ f s tid e, Issuing (.tretSkip f) s → performers (.tretSkip f) s = [tid] → AllPass (.tretSkip f) s tretCheck →
    let x := s.thread tid
    let q := queueOfCode tid (x.tcause.extractLsb' 10 3).toNat
    x.tcause.getLsbD 8 = true → x.tcause.extractLsb' 0 8 ≠ 0x18 → (s.queue q).faultedEntry = some e →
    (∀ u n, q = .tile u n → isTile u = true) →
    ∃ t, exec (.tretSkip f) s = .next t ∧ t.thread tid = { x with inh := false, prv := x.pprv, pc := x.tpc } ∧
      (t.queue q).faulted = false ∧ (t.queue q).entries = (s.queue q).entries.filter (fun y => y.dno != e.dno) ∧
      ∀ n, (t.token (queueTid q) n).done = (s.token (queueTid q) n).done + if e.tok = some n then 1 else 0) ∧
  (∀ f s l, ∀ i ∈ [Instr.tretRetry f, .tretSkip f, .tretKill f], Issuing i s → s.cur.lanes = [l] → selected i s l = true →
    laneCheck i s.cur.word s.cur.u (s.band s.cur.bid).nregs (s.thread (s.here l)) = .pass → (s.thread (s.here l)).inh = false →
    exec i s = .next ((s.raise (s.here l) 0x01 s.cur.word).keepBundle s.cur.bid [l]))

/-- R331, R332: INVQ places its command at the end of the invalidation queue and gives its number; INVW gives status 0 for
a complete command, as an acquire, 1 where a backed pin overlaps, and else waits; below level 2 a foreign space traps
0x08. R352-R354, R359, R360: a command is broadcast, makes a core drop matching TLB entries and revoke matching
handles; an acknowledgement waits until what it stands for is done (R353), and the first incomplete command completes with its last
acknowledgement, a later one not before it; a migration is refused with its status or copies line
after line.
That a copied line whose source version is lost takes a free version is the model's reading (log 7), and so is the refusal of a request of 0
frames (log 108) or of a granule code above 3 (log 63). -/
def Obligations.InvalidationAndMigration : Prop :=
  ((∀ f s tid, Alone (.invq f) s (invqCheck f) tid →
    let a := (s.thread tid).reg f.a.toNat
    ∃ t c, exec (.invq f) s = .next t ∧ t.invq = s.invq ++ [c] ∧ t.invNext = s.invNext + 1 ∧
      StatusComes t tid f.d.toNat (BitVec.ofNat 32 s.invNext) ∧ c.seq = s.invNext ∧ c.asid = (a.extractLsb' 0 16).toNat ∧
      c.kind = (a.extractLsb' 16 4).toNat ∧ c.hint = (a.extractLsb' 20 2).toNat ∧
      c.count = ((s.thread tid).reg (f.a.toNat + 1)).toNat ∧ c.base = ((s.thread tid).reg64 (f.a.toNat + 2)).toNat ∧
      c.complete = false ∧ t.mem = s.mem) ∧
  (∀ f s l, Issuing (.invq f) s → s.cur.lanes = [l] → selected (.invq f) s l = true →
    let x := s.thread (s.here l)
    let a := x.reg f.a.toNat
    laneCheck (.invq f) s.cur.word s.cur.u (s.band s.cur.bid).nregs x = .pass →
    invOk a (x.reg (f.a.toNat + 1)) (x.reg64 (f.a.toNat + 2)) = true → x.prv < 2 →
    (a.extractLsb' 0 16).toNat ≠ s.asidOf (s.here l) →
    exec (.invq f) s = .next ((s.raise (s.here l) 0x08 (a.setWidth 64)).keepBundle s.cur.bid [l])) ∧
  (∀ f s tid c, Alone (.invw f) s (invwCheck f) tid → s.invCmd ((s.thread tid).reg f.a.toNat) = some c →
    (c.complete = true → s.pinBlocks c = false → ∃ t, exec (.invw f) s = .next t ∧ StatusComes t tid f.d.toNat 0 ∧
      (t.core s.cur.u).l1 = [] ∧ t.mem = s.mem) ∧
    (c.complete = true → s.pinBlocks c = true → ∃ t, exec (.invw f) s = .next t ∧ StatusComes t tid f.d.toNat 1 ∧ t.mem = s.mem) ∧
    (c.complete = false → ∃ t, exec (.invw f) s = .next t ∧ t.mem = s.mem ∧
      t.thread tid = { s.thread tid with pc := s.cur.pc, wait := .invw c.seq f.d.toNat }))) ∧
  ((∀ s c, s.invq.find? (fun c => !c.broadcast) = some c → c.complete = false →
    ∃ t, exec .invalidationBroadcast s = .next t ∧ (∃ x ∈ t.invq, x.seq = c.seq ∧ x.broadcast = true) ∧ SameBytes s t ∧
      t.threads = s.threads) ∧
  (∀ s c u, s.ev.r = .unit u → s.invq.find? (fun c => c.broadcast && !c.complete && !c.received.contains (.unit u)) = some c →
    c.seq = s.ev.id → s.answered (.unit u) = false → s.cmdThere (.unit u) c.seq = true →
    ∃ t, exec .invalidationReceive s = .next t ∧ (∃ x ∈ t.invq, x.seq = c.seq ∧ .unit u ∈ x.received) ∧
      (∀ e ∈ (t.core u).tlb, c.matches e.asid e.va e.leaf = false) ∧
      ∀ tid h, unitOf tid = u → ((s.thread tid).hdl h).st = .valid →
        c.matches ((s.thread tid).hdl h).asid ((s.thread tid).hdl h).base.toNat ((s.thread tid).hdl h).leaf = true →
        ((t.thread tid).hdl h).st = .revoked) ∧
  (∀ s before c after, s.invq = before ++ c :: after → (∀ x ∈ before ++ after, x.seq ≠ c.seq) → c.seq = s.ev.id →
    s.ev.r ∈ c.received → c.complete = false → s.ev.r ∉ c.acked → s.mayAck s.ev.r c = true →
    let full := ∀ y ∈ receivers, y = s.ev.r ∨ y ∈ c.acked
    let lacks := fun (x : InvCmd) => ∃ y ∈ receivers, y ∉ x.acked
    ((∀ x ∈ before, x.complete = true) → (∀ x, after.find? (fun x => !x.complete) = some x → lacks x) → full →
      ∃ t fr, exec .invalidationAcknowledge s = .next t ∧ SameBytes s t ∧ t.threads = s.threads ∧
        t.invq = before ++ { c with acked := c.acked ++ [s.ev.r], complete := true, frames := c.frames ++ fr } :: after ∧
        t.invseq = BitVec.ofNat 32 c.seq) ∧
    (((∃ x ∈ before, x.complete = false ∧ lacks x) ∨ (∀ x ∈ before, x.complete = true) ∧ ¬ full) →
      (∀ x, before.find? (fun x => !x.complete) = some x → lacks x) →
      exec .invalidationAcknowledge s = .next { s with invq := before ++ { c with acked := c.acked ++ [s.ev.r] } :: after })) ∧
  (∀ s c, s.invq.find? (fun c => c.seq == s.ev.id && c.received.contains s.ev.r && !c.complete && !c.acked.contains s.ev.r) = some c →
    s.mayAck s.ev.r c = false → exec .invalidationAcknowledge s = .next s) ∧
  (∀ s wr rd x, let a := s.space s.ev.asid
    let r := s.readNat .phys rd 4
    let slot := r % 2 ^ (a.migqCap + 4)
    let b := s.readN .phys x 64
    let f := (s.migNext s.ev.asid).2
    let st := f.migRefusal a (fieldOf b 0 8) (fieldOf b 8 8) (fieldOf b 16 4) (fieldOf b 20 1)
    s.migPa s.ev.asid 0 = some wr → s.migPa s.ev.asid 4 = some rd → s.migPa s.ev.asid (128 + 64 * slot) = some x →
    s.readNat .phys wr 4 ≠ r → find? s.ev.asid s.migrations = none →
    SameBytes s f ∧ (st ≠ 0 → exec .migrationRequest s = .next (f.migAnswer s.ev.asid slot st)) ∧
    (st = 0 → ∃ t m, exec .migrationRequest s = .next t ∧ find? s.ev.asid t.migrations = some m ∧ m.src = fieldOf b 0 8 ∧
      m.dst = fieldOf b 8 8 ∧ m.frames = fieldOf b 16 4 ∧ m.line = 0 ∧ SameBytes s t ∧ t.threads = s.threads)) ∧
  (∀ s m, find? s.ev.asid s.migrations = some m → m.line + 1 < 512 * m.frames →
    let src := m.src / 128 + m.line
    let dst := m.dst / 128 + m.line
    ∃ t, exec .migrationLineCopy s = .next t ∧ find? s.ev.asid t.migrations = some { m with line := m.line + 1 } ∧
      t.readN .phys (128 * dst) 128 = s.readN .phys (128 * src) 128 ∧
      (∀ a, a < 128 * dst ∨ 128 * dst + 128 ≤ a → t.readByte .phys a = s.readByte .phys a) ∧
      (m.gran ≠ .s32 → s.granule (dst * 128) ≠ .s32 → sget false s.lost src = false → (s.decodeAt (128 * src)).bad = [] →
        t.version dst = s.version src)))

/-- R320, R333, R334: CTXS of a team on an online die leaves one save request, which supersedes earlier ones with status 3; CTXL
loads an image that fits onto a core or tile with room; each says with its status why it does not. That a target word which names no core
or tile has no room (log 49), and the order of the statuses of CTXL, 3 before 2 before 1, with what else is no image or no room (log 110),
are the model's choices, and so is that a CTXL waits while the cluster it loads onto makes no team resident (R385; log 111).
What an image has no room for is kept beside it (log 29). -/
def Obligations.ImageWords : Prop :=
  (∀ f s tid, Alone (.ctxs f) s (imageCheck f) tid →
    let w := (s.thread tid).reg f.a.toNat
    (s.savedTeam tid w = none → ∃ t, exec (.ctxs f) s = .next t ∧ StatusComes t tid f.d.toNat 1 ∧ t.saves = s.saves) ∧
    (∀ k, s.savedTeam tid w = some k → (s.die (dieOf (s.unitOfTeam k))).st ≠ .online →
      ∃ t, exec (.ctxs f) s = .next t ∧ StatusComes t tid f.d.toNat 2 ∧ t.saves = s.saves) ∧
    (∀ k, s.savedTeam tid w = some k → (s.die (dieOf (s.unitOfTeam k))).st = .online → (find? k s.teams).isSome = true →
      ∃ t r, exec (.ctxs f) s = .next t ∧ r ∈ t.saves ∧ (∀ p ∈ t.saves, p.team = k → p = r) ∧ r.team = k ∧
        r.image = ((s.thread tid).reg64 f.b.toNat).toNat ∧ r.copy = f.off.getLsbD 0 ∧ r.leg = f.off.getLsbD 1 ∧ r.tid = tid ∧
        r.d = f.d.toNat ∧ (t.thread tid).isEmpty f.d.toNat = true ∧ (t.team k).stopping = !f.off.getLsbD 1 ∧ t.mem = s.mem ∧
        ∀ p ∈ s.saves, p.team = k → ∃ x ∈ t.lates, x.tid = p.tid ∧ x.words = [(p.d, 3)])) ∧
  (∀ f s tid, Alone (.ctxl f) s (ctxlCheck f) tid →
    let w := (s.thread tid).reg f.a.toNat
    let u := targetUnit w
    let base := ((s.thread tid).reg64 f.b.toNat).toNat
    let hdr := s.readN .phys base 256
    let st := (s.die (dieOf u)).st
    let right := (targetKind w = 0 ∧ u < 1024) ∨ (targetKind w = 6 ∧ 1024 ≤ u ∧ u < 2048)
    let refused := fun (n : Word) => ∃ t, exec (.ctxl f) s = .next t ∧ StatusComes t tid f.d.toNat n ∧ t.teams = s.teams ∧ SameBytes s t
    let room := st = .online ∧ s.unitFenced u = false ∧
      (u < 1024 → s.coreRoom u (bitsOf (fieldOf hdr 0 4) 23 16)
        (s.launch (2 ^ 32 * bitsOf (fieldOf hdr 4 4) 15 0 + fieldOf hdr 8 4)).desc.regs (fieldOf hdr 24 4) = true) ∧
      (1024 ≤ u → (∀ p ∈ s.teams, p.2.place ≠ .resident u) ∧ s.allocBytes u + fieldOf hdr 24 4 ≤ scratchSize u)
    (¬ right → refused 1) ∧
    (right → st = .quiesced ∨ st = .flushed ∨ st = .ready → refused 3) ∧
    (right → st = .online ∨ st = .fenced → s.imageFits tid u base = false → refused 2) ∧
    (right → st = .online ∨ st = .fenced → s.imageFits tid u base = true → ¬ room → refused 1) ∧
    (right → s.imageFits tid u base = true → room → u ≠ s.cur.u → (s.teams.map (·.1)).Nodup →
      ∃ t k, exec (.ctxl f) s = .next t ∧ StatusComes t tid f.d.toNat 0 ∧ (t.team k).place = .resident u ∧
        (t.team k).lid = 2 ^ 32 * bitsOf (fieldOf hdr 4 4) 15 0 + fieldOf hdr 8 4 ∧ t.mem = s.mem)) ∧
  (∀ f s l, Issuing (.ctxl f) s → s.cur.lanes = [l] → selected (.ctxl f) s l = true → imageCheck f s (s.here l) = .pass →
    laneCheck (.ctxl f) s.cur.word s.cur.u (s.band s.cur.bid).nregs (s.thread (s.here l)) = .pass →
    let w := (s.thread (s.here l)).reg f.a.toNat
    let u := targetUnit w
    ((targetKind w = 0 ∧ u < 1024) ∨ (targetKind w = 6 ∧ 1024 ≤ u ∧ u < 2048)) → s.throttled (clusterOf u) = true →
    s.loadStatus (s.here l) u ((s.thread (s.here l)).reg64 f.b.toNat).toNat = 0 →
    exec (.ctxl f) s = .next (s.keepBundle s.cur.bid []))

/-- R327, R335: HALT of a role that is not halted leaves a request, RESM lets a halted role go on; the status says
otherwise why not. A request whose role has reached its stop boundary halts it and reports 0. R28, R317-R319, R336:
PRKR resumes a parked lane at its word or past it, or ends it, and gives the lanes it resumed; a retry of 0x06 or 0x07 first translates
the word's handle again (R215). It resolves the reported copy-queue entry of an exited thread: restarted, completed as it stands, or its
team ended (R256). A core writes its oldest notice of a park queue that has room, each queue waiting for itself alone, and keeps what it
cannot write. That a HALT whose role goes before it has stopped gives status 2 is the model's choice (log 101). -/
def Obligations.HaltedAndParkedRoles : Prop :=
  ((∀ f s tid, Alone (.halt f) s (targetWordCheck f.a) tid →
    let w := (s.thread tid).reg f.a.toNat
    ((s.targetRole tid w).isNone = true → ∃ t, exec (.halt f) s = .next t ∧ StatusComes t tid f.d.toNat 2 ∧ t.halts = s.halts) ∧
    ((s.targetRole tid w).isSome = true → s.roleHalted w = true →
      ∃ t, exec (.halt f) s = .next t ∧ StatusComes t tid f.d.toNat 1 ∧ t.halts = s.halts) ∧
    ((s.targetRole tid w).isSome = true → s.roleHalted w = false →
      ∃ t id, exec (.halt f) s = .next t ∧ t.halts = s.halts ++ [⟨id, w, tid, f.d.toNat⟩] ∧
        (t.thread tid).isEmpty f.d.toNat = true ∧ (targetKind w = 0 → (t.band (targetBand w)).haltReq = true) ∧
        (targetKind w = 6 → (t.tile (targetUnit w)).ctlHaltReq = true))) ∧
  (∀ f s tid, Alone (.resm f) s (targetWordCheck f.a) tid →
    let w := (s.thread tid).reg f.a.toNat
    ((s.targetRole tid w).isNone = true → ∃ t, exec (.resm f) s = .next t ∧ StatusComes t tid f.d.toNat 2) ∧
    ((s.targetRole tid w).isSome = true → s.roleHalted w = false →
      ∃ t, exec (.resm f) s = .next t ∧ StatusComes t tid f.d.toNat 1) ∧
    ((s.targetRole tid w).isSome = true → s.roleHalted w = true →
      ∃ t, exec (.resm f) s = .next t ∧ StatusComes t tid f.d.toNat 0 ∧ t.roleHalted w = false)) ∧
  (∀ s r, s.halts.find? (fun p => p.id == s.ev.id) = some r →
    (s.roleStopped r.target = true →
      (targetKind r.target = 0 ∨ targetKind r.target = 7 → (find? (targetBand r.target) s.bands).isSome = true) →
      ∃ t, exec .haltStopped s = .next t ∧ t.roleHalted r.target = true ∧ (∀ p ∈ t.halts, p.id ≠ r.id) ∧ SameBytes s t ∧
        ∃ x ∈ t.lates, x.tid = r.tid ∧ x.words = [(r.d, 0)] ∧ x.mark = 0) ∧
    (s.roleStopped r.target = false → exec .haltStopped s = .next s))) ∧
  ((∀ f s tid bid l p, ∀ e ∈ [(Instr.prkrRetry f, 0), (.prkrSkip f, 1), (.prkrKill f, 2)],
    Alone e.1 s (fun x t => (targetWordCheck f.a x t).andThen (pkgRelease x t)) tid →
    let w := (s.thread tid).reg f.a.toNat
    let x := s.thread (32 * bid + l)
    targetKind w = 0 → s.targetRole tid w = some bid → (s.thread tid).reg f.b.toNat = (1 : Word) <<< l → l < 32 →
    l < (s.band bid).lanes → x.parked = some p → x.exited = false → (∀ m ∈ s.cur.lanes, s.here m ≠ 32 * bid + l) →
    (find? (32 * bid + l) s.threads).isSome = true →
    (e.2 = 0 → p.cause ≠ 6 ∧ p.cause ≠ 7 → ∃ t, exec e.1 s = .next t ∧
      StatusComes t tid f.d.toNat ((1 : Word) <<< l) ∧ t.thread (32 * bid + l) = { x with parked := none, wait := .regroup }) ∧
    (∀ w, let y := 32 * bid + l
      let again := fun (s : State) (h : Nat) => if ((s.thread y).hdl h).st = .revoked ∨ ((s.thread y).hdl h).st = .faulted
        then s.translate y h ((s.thread y).hdl h).base else s
      e.2 = 0 → (p.cause = 6 ∨ p.cause = 7) → s.fetch (unitOf y) (s.asidOf y) x.pc.toNat = some w →
      ∃ t, exec e.1 s = .next t ∧ StatusComes t tid f.d.toNat ((1 : Word) <<< l) ∧
        t.thread y = { ((parkedHandles x w).foldl again s).thread y with parked := none, wait := .regroup }) ∧
    (e.2 = 1 → ∃ t, exec e.1 s = .next t ∧ StatusComes t tid f.d.toNat ((1 : Word) <<< l) ∧
      t.thread (32 * bid + l) = { x with parked := none, wait := .regroup, pc := x.pc + 8 }) ∧
    (e.2 = 2 → ∃ t, exec e.1 s = .next t ∧ StatusComes t tid f.d.toNat ((1 : Word) <<< l) ∧
      (t.thread (32 * bid + l)).exited = true ∧ (t.thread (32 * bid + l)).parked = none)) ∧
  (∀ f s tid bid l y, ∀ e ∈ [(Instr.prkrRetry f, 0), (.prkrSkip f, 1), (.prkrKill f, 2)],
    Alone e.1 s (fun x t => (targetWordCheck f.a x t).andThen (pkgRelease x t)) tid →
    let w := (s.thread tid).reg f.a.toNat
    let q := (s.band bid).cq
    targetKind w = 0 → s.targetRole tid w = some bid → (s.thread tid).reg f.b.toNat = (1 : Word) <<< l → l < 32 →
    l < (s.band bid).lanes → (s.thread (32 * bid + l)).parked = none → (s.thread (32 * bid + l)).exited = true →
    q.faulted = true → q.reported = true → q.entries.find? (fun e => e.fault.isSome) = some y → y.tid = 32 * bid + l →
    (e.2 = 0 → ∃ t, exec e.1 s = .next t ∧ StatusComes t tid f.d.toNat ((1 : Word) <<< l) ∧ (t.band bid).cq.faulted = false ∧
      (∀ z ∈ (t.band bid).cq.entries, z.fault = none) ∧ (t.band bid).cq.entries.map (·.dno) = q.entries.map (·.dno)) ∧
    (e.2 = 1 → ∃ t, exec e.1 s = .next t ∧ StatusComes t tid f.d.toNat ((1 : Word) <<< l) ∧ (t.band bid).cq.faulted = false ∧
      (t.band bid).cq.entries = q.entries.filter (fun z => z.dno != y.dno)) ∧
    (e.2 = 2 → (find? (s.band bid).team s.teams).isSome = true → ∃ t, exec e.1 s = .next t ∧ (t.team (s.band bid).team).done = true)) ∧
  (∀ (s : State) (k u : Nat), (s.team k).place = .resident u →
    (∀ p ∈ (s.freeTeam k).halts, p ∈ s.halts ∧ roleBand p.target ∉ (s.team k).bands) ∧
    ∀ p ∈ s.halts, (roleBand p.target ∉ (s.team k).bands → p ∈ (s.freeTeam k).halts) ∧
      (roleBand p.target ∈ (s.team k).bands → ∃ x ∈ (s.freeTeam k).lates, x.tid = p.tid ∧ x.words = [(p.d, 2)] ∧ x.mark = 0)) ∧
  (∀ f s tid, ∀ i ∈ [Instr.prkrRetry f, .prkrSkip f, .prkrKill f],
    Alone i s (fun x t => (targetWordCheck f.a x t).andThen (pkgRelease x t)) tid →
    (targetKind ((s.thread tid).reg f.a.toNat) ≠ 0 ∨ s.targetRole tid ((s.thread tid).reg f.a.toNat) = none) →
    ∃ t, exec i s = .next t ∧ StatusComes t tid f.d.toNat 0 ∧ OnlyInFlight s t ∧
      ∀ x, (∀ l ∈ s.cur.lanes, x ≠ s.here l) → t.thread x = s.thread x) ∧
  (∀ s pre n rest b x, (s.core s.ev.u).notices = pre ++ n :: rest →
    (∀ m ∈ pre, n.sameQueue m = false ∧ s.canWrite s.ev.u m = false) →
    s.noticePa s.ev.u n (n.pkqb.toNat / 4096 * 4096) = some b →
    let wr := s.readNat .phys b 4
    let rd := s.readNat .phys (b + 4) 4
    let cap := 2 ^ (min 8 (n.pkqb.toNat % 16) + 4)
    (wr + 2 ^ 32 - rd) % 2 ^ 32 ≠ cap →
    s.noticePa s.ev.u n (n.pkqb.toNat / 4096 * 4096 + 128 + 32 * (wr % cap)) = some x → (x + 32 ≤ b ∨ b + 4 ≤ x) →
    (∀ k, (s.stack k).fencedBanks = []) →
    ∃ t, exec .parkNoticeWrite s = .next t ∧ t.readNat .phys b 4 = (wr + 1) % 2 ^ 32 ∧
      (t.core s.ev.u).notices = pre ++ rest ∧ n.bid ∉ (t.core s.ev.u).pkqFaults ∧
      t.readN .phys x 4 = [BitVec.ofNat 8 n.cause, BitVec.ofNat 8 n.flags, BitVec.ofNat 8 n.slot, BitVec.ofNat 8 n.lane] ∧
      t.readNat .phys (x + 4) 4 = n.loc % 2 ^ 32 ∧ t.readNat .phys (x + 8) 8 = n.tval.toNat ∧
      t.readNat .phys (x + 16) 8 = n.pc.toNat ∧ t.readNat .phys (x + 24) 4 = n.lid % 2 ^ 32 ∧
      t.readNat .phys (x + 28) 4 = n.index % 2 ^ 32 ∧ t.threads = s.threads ∧
      ∀ a, (a < x ∨ x + 32 ≤ a) → (a < b ∨ b + 4 ≤ a) → t.readByte .phys a = s.readByte .phys a) ∧
  (∀ s, (∀ n ∈ (s.core s.ev.u).notices, s.canWrite s.ev.u n = false) →
    ∃ t, exec .parkNoticeWrite s = .next t ∧ (t.core s.ev.u).notices = (s.core s.ev.u).notices ∧ SameBytes s t ∧
      t.threads = s.threads ∧ ∀ n rest, (s.core s.ev.u).notices = n :: rest →
        s.noticePa s.ev.u n (n.pkqb.toNat / 4096 * 4096) = none → n.bid ∈ (t.core s.ev.u).pkqFaults))

/-- R338, R391: PSET makes a partition of a slice's staging, whose ways no line keeps but a flagged one, with the bytes of its backing for
.pinb, and releases it, with its bytes written back for .unpinb; a die off line, a range that does not fit and a partition that is not there have their statuses.
That the bytes of a released partition read 0 is the model's choice (log 3, DESIGN CHOICE), and the status for a fenced slice follows log
54. -/
def Obligations.StagingPins : Prop :=
  (∀ f s tid, ∀ e ∈ [(Instr.psetPin f, 0), (.psetPinb f, 1), (.psetUnpin f, 2), (.psetUnpinb f, 3)], Alone e.1 s (psetCheck f) tid →
    let a := ((s.thread tid).reg f.a.toNat).toNat
    let n := ((s.thread tid).reg (f.a.toNat + 1)).toNat
    let d := a / 2 ^ 28 % 8
    let sl := a / 2 ^ 22 % 64
    let off := a % 2 ^ 22
    let pl := Place.staging d sl
    let ps := sget [] s.parts (64 * d + sl)
    ((s.die d).st ≠ .online → ∃ t, exec e.1 s = .next t ∧ StatusComes t tid f.d.toNat 3 ∧ SameBytes s t ∧ t.parts = s.parts) ∧
    ((s.die d).st = .online → e.2 ≤ 1 →
      (ps.all (fun q => !overlaps2 q.off q.size off n) = true ∧ (ps.map (·.size)).foldl (· + ·) 0 + n ≤ 2 ^ 22 ∧
        off + n ≤ 2 ^ 22 ∧ (s.die d).synslc.getLsbD sl = false →
        ∃ t q, exec e.1 s = .next t ∧ StatusComes t tid f.d.toNat 0 ∧ sget [] t.parts (64 * d + sl) = ps ++ [q] ∧ q.off = off ∧
          q.size = n ∧ (e.2 = 0 → q.backing = none ∧ SameBytes s t ∧
            ∀ p ∈ t.l2, 128 * p.1 < 2 ^ 60 → sliceOf (128 * p.1) = 64 * d + sl → q.takes (setOf p.1) p.2.way = true →
              sget false t.lost p.1 = true) ∧
          (e.2 = 1 → let base := ((s.thread tid).reg64 f.b.toNat).toNat
            q.backing = some base ∧ q.asid = s.asidOf tid ∧ t.mem = s.mem ∧
            ∀ i, i < n → t.readByte pl (off + i) = s.readByte .phys (base + i))) ∧
      ((ps.any (fun q => overlaps2 q.off q.size off n) = true ∨ 2 ^ 22 < (ps.map (·.size)).foldl (· + ·) 0 + n ∨
        2 ^ 22 < off + n ∨ (s.die d).synslc.getLsbD sl = true) →
        ∃ t, exec e.1 s = .next t ∧ StatusComes t tid f.d.toNat 1 ∧ SameBytes s t ∧ t.parts = s.parts)) ∧
    ((s.die d).st = .online → 2 ≤ e.2 →
      (∀ q, ps.find? (fun q => q.off == off && q.size == n) = some q →
        (e.2 = 2 → ∃ t, exec e.1 s = .next t ∧ StatusComes t tid f.d.toNat 0 ∧ t.mem = s.mem ∧
          sget [] t.parts (64 * d + sl) = ps.filter (fun q => q.off != off) ∧ ∀ i, i < n → t.readByte pl (off + i) = 0) ∧
        (e.2 = 3 → q.backing = none → ∃ t, exec e.1 s = .next t ∧ StatusComes t tid f.d.toNat 2 ∧ SameBytes s t ∧
          t.parts = s.parts) ∧
        (∀ base, e.2 = 3 → q.backing = some base → (∀ k, (s.stack k).fencedBanks = []) → ∃ t, exec e.1 s = .next t ∧ StatusComes t tid f.d.toNat 0 ∧
          sget [] t.parts (64 * d + sl) = ps.filter (fun q => q.off != off) ∧
          (∀ i, i < n → t.readByte pl (off + i) = 0 ∧ t.readByte .phys (base + i) = s.readByte pl (off + i)) ∧
          ∀ x, (x < base ∨ base + n ≤ x) → t.readByte .phys x = s.readByte .phys x)) ∧
      (ps.find? (fun q => q.off == off && q.size == n) = none →
        ∃ t, exec e.1 s = .next t ∧ StatusComes t tid f.d.toNat 2 ∧ SameBytes s t ∧ t.parts = s.parts)))

/-- R79, R339, R414, R415, R418, R419: the steps of a warm reset take a die from online over quiesced, flushed and ready
back to online and are refused with status 1 in any other order; the core step starts the die's clock anew and counts
the reset, and leaves the die ready with status 0 once its links are retrained, or fenced with status 2; an engine reset drops the accumulators
and claims of a tile; that a target word of another kind names none is the model's choice (log 49). R340, R422: STEST gives 2 for a
structure that is busy, and by the model's choice for one that does not exist (log 18); else it passes with 0, or gives 1 and the structure
is fenced, and which is free (log 18).
The outcome of a self-test is a free value (log 18); which accesses get an error follows log 40. -/
def Obligations.DieResetsAndSelfTests : Prop :=
  ((∀ f s tid, Alone (.drstQuiesce f) s (quiesceCheck f) tid →
    let d := ((s.thread tid).reg f.a.toNat).toNat
    ((s.die d).st = .online → s.dieQuiet d = true → ∃ t, exec (.drstQuiesce f) s = .next t ∧ (t.die d).st = .quiesced ∧
      (t.die d).quiescing = none ∧ StatusComes t tid f.d.toNat 0 ∧ ∀ p ∈ t.clusterQ, p.1 / 32 ≠ d) ∧
    ((s.die d).st = .online → s.dieQuiet d = false → ∃ t, exec (.drstQuiesce f) s = .next t ∧ (t.die d).st = .quiesced ∧
      (t.die d).quiescing = some tid ∧ (t.thread tid).pc = s.cur.pc ∧ t.lates = s.lates) ∧
    ((s.die d).st = .quiesced → (s.die d).quiescing = some tid → ∃ t, exec (.drstQuiesce f) s = .next t ∧
      (t.die d).st = .quiesced ∧ (t.die d).quiescing = none ∧ StatusComes t tid f.d.toNat 0) ∧
    ((s.die d).st ≠ .online → s.quiescingBy d tid = false → ∃ t, exec (.drstQuiesce f) s = .next t ∧ t.dies = s.dies ∧
      StatusComes t tid f.d.toNat 1)) ∧
  (∀ f s tid, Alone (.drstFlush f) s (dieCheck f) tid →
    let d := ((s.thread tid).reg f.a.toNat).toNat
    ((s.die d).st = .quiesced → (s.die d).quiescing = none → Apart s s.cur.bid (OnDie · d) →
      ∃ t, exec (.drstFlush f) s = .next t ∧ (t.die d).st = .flushed ∧ StatusComes t tid f.d.toNat 0) ∧
    (((s.die d).st ≠ .quiesced ∨ (s.die d).quiescing ≠ none) → ∃ t, exec (.drstFlush f) s = .next t ∧ t.dies = s.dies ∧
      StatusComes t tid f.d.toNat 1)) ∧
  (∀ f s tid, Alone (.drstCore f) s (dieCheck f) tid →
    let d := ((s.thread tid).reg f.a.toNat).toNat
    ((s.die d).st = .flushed → (s.die d).resetting = none → Apart s s.cur.bid (OnDie · d) →
      ∃ t, exec (.drstCore f) s = .next t ∧ (t.die d).resets = (s.die d).resets + 1 ∧ (t.die d).start = s.clock ∧
        (t.die d).retrainsLeft = [0, 1, 2] ∧ (t.thread tid).isEmpty f.d.toNat = true ∧
        ((t.die d).st = .flushed ∧ (t.die d).resetting = some (tid, f.d.toNat) ∧ (t.die d).trained = false ∨
          (t.die d).st = .ready ∧ (t.die d).trained = true ∧ StatusComes t tid f.d.toNat 0 ∨
          (t.die d).st = .fenced ∧ StatusComes t tid f.d.toNat 2)) ∧
    (((s.die d).st ≠ .flushed ∨ (s.die d).resetting ≠ none) → ∃ t, exec (.drstCore f) s = .next t ∧ t.dies = s.dies ∧
      StatusComes t tid f.d.toNat 1)) ∧
  (∀ s tid r, let d := s.ev.die
    let l := s.ev.link % 3
    d < 8 → (s.die d).resetting = some (tid, r) → (s.die d).linkState l = 2 → (s.die d).toRetrain = [] →
    (∀ m, m < 3 → m ≠ l → (s.die d).linkState m ≠ 2) → s.ev.retrain = .full →
    ∃ t, exec .linkRetrainEnd s = .next t ∧ (t.die d).st = .ready ∧ (t.die d).resetting = none ∧ (t.die d).linkState l ≤ 1 ∧
      ∃ x ∈ t.lates, x.tid = tid ∧ x.words = [(r, 0)] ∧ x.mark = 0) ∧
  (∀ f s tid, Alone (.drstAdmit f) s (dieCheck f) tid →
    let d := ((s.thread tid).reg f.a.toNat).toNat
    ((s.die d).st = .ready → ∃ t, exec (.drstAdmit f) s = .next t ∧ t.die d = { s.die d with st := .online } ∧
      StatusComes t tid f.d.toNat 0) ∧
    ((s.die d).st ≠ .ready → ∃ t, exec (.drstAdmit f) s = .next t ∧ t.dies = s.dies ∧ StatusComes t tid f.d.toNat 1)) ∧
  (∀ f s tid, Alone (.drstEngine f) s (engineResetCheck f) tid →
    let w := (s.thread tid).reg f.a.toNat
    let u := w.toNat % 2048
    let right := 1024 ≤ u ∧ 1 ≤ targetKind w ∧ targetKind w ≤ 6
    (right → s.unitFenced u = false → (s.die (u / 256)).st = .online →
      ∃ t, exec (.drstEngine f) s = .next t ∧ (∀ n, (t.tile u).claimed n = false) ∧ (t.tile u).acc = [] ∧
        (t.tile u).mq.entries = [] ∧ StatusComes t tid f.d.toNat 0) ∧
    ((¬ right ∨ s.unitFenced u = true ∨ (s.die (u / 256)).st ≠ .online) →
      ∃ t, exec (.drstEngine f) s = .next t ∧ t.tiles = s.tiles ∧ StatusComes t tid f.d.toNat 1))) ∧
  (∀ f s tid, Alone (.stest f) s noCheck tid →
    let st := structOf ((s.thread tid).reg f.a.toNat)
    ((Structure.exists_ st = false ∨ s.structBusy st = true) → ∃ t, exec (.stest f) s = .next t ∧
      StatusComes t tid f.d.toNat 2 ∧ SameBytes s t) ∧
    (Structure.exists_ st = true → s.structBusy st = false → Apart s s.cur.bid (· = .resident st.loc) →
      ∃ t, exec (.stest f) s = .next t ∧
        (StatusComes t tid f.d.toNat 0 ∧ SameBytes s t ∧ t.dies = s.dies ∨ StatusComes t tid f.d.toNat 1 ∧ Fenced t st)))

/-! ## The memory system (16 R389-R406) -/

/-- R389, R390, R393, R400, R401, R403-R405: a fill without damage brings the lines of its unit and changes no byte, and of lines that
keep versions none; one that cannot be decoded poisons its line and loses its version; an eviction takes its unit from the slice, an S32
line's version to the slice's floor, and a unit that it merges with an uncorrectable codeword keeps the sector it did not write poisoned;
a sub-channel grants no request while a bank is at its refresh limit and none of a bank that is being refreshed, and one that has waited
4096 clocks before the others, else the oldest that hits an open row and otherwise the oldest, as far as the shares of classes C and M
within 8 grants leave the choice; a layer's sample sets the refresh interval of its step, at a multiple of 1400 clocks by the model's
choice (log 100);
a refresh is performed or postponed up to 8 times, and is then performed when it is due.
That an access's data does not wait for its grant is the model's choice (log 72), and so is the reading of a codeword poisoned in part
(log 82). -/
def Obligations.MemorySystemEvents : Prop :=
  (∀ s, let l := s.ev.line
    let a := 128 * l + 32 * (s.ev.sub % 4)
    isLocal a = true → s.atAgent a = false → s.atAgent (128 * l) = false → s.ev.errs = [] → s.damage = [] → s.lost = [] →
    (∀ n, (s.stack n).lost = [] ∧ (s.stack n).fencedBanks = []) → (∀ n, sget [] s.parts n = []) →
    (find? l s.l2 = none ∨ s.granule (128 * l) = .s32 ∨ s.granule (128 * l) = .l128) →
    ∃ t, exec .l2Fill s = .next t ∧ t.fillNeeded l s.ev.sub = false ∧ SameBytes s t ∧ t.poison = s.poison ∧
      ((∀ p ∈ s.l2, p.2.gran = s.granule (128 * p.1)) → ∀ n, s.granule (128 * n) ≠ .s32 → t.version n = s.version n) ∧
      t.dies = s.dies) ∧
  (∀ s, let a := 128 * s.ev.line + 32 * (s.ev.sub % 4)
    s.ev.errs = [[0, 1, 2, 3, 4, 5]] → isLocal a = true → s.atAgent a = false → s.atAgent (128 * s.ev.line) = false →
    s.granule (128 * s.ev.line) = .l128 → s.granule a = .l128 → s.fillNeeded s.ev.line s.ev.sub = true → s.lost = [] →
    (∀ n, sget [] s.parts n = []) →
    ∃ t, exec .l2Fill s = .next t ∧ sget false t.lost s.ev.line = true ∧ SameBytes s t ∧
      ∀ i, i < 128 → t.poisoned .phys (128 * s.ev.line + i) = true) ∧
  (∀ s, let l := s.ev.line
    (∀ n ∈ s.groupLines l, sget false s.lost n = false) → (find? l s.l2).isSome = true →
    ∃ t, exec .l2Eviction s = .next t ∧ find? l t.l2 = none ∧ SameBytes s t ∧
      (∀ e, find? l s.l2 = some e → e.gran ≠ .s32 → s.granule (128 * l) ≠ .s32 → t.version l = s.version l) ∧
      (∀ e, find? l s.l2 = some e → e.gran = .s32 → s.granule (128 * l) = .s32 →
        sget 0 t.floors (sliceOf (128 * l)) =
          if (s.version l - sget 0 s.floors (sliceOf (128 * l))).toNat < 2 ^ 39 then s.version l
          else sget 0 s.floors (sliceOf (128 * l)))) ∧
  (∀ s u, let l := s.ev.line
    let a := 128 * l + 32 * u
    u < 4 → s.ev.sub % 4 = u → s.ev.errs = [[0, 1, 2]] → isLocal (128 * l) = true → s.granule (128 * l) = .s32 → s.granule a = .s32 →
    sget false s.lost l = false →
    find? l s.l2 = some { gran := .s32, valid := [2 * u], dirty := [2 * u], way := 0 } →
    ∃ t, exec .l2Eviction s = .next t ∧ t.poisoned .phys (a + 16) = true ∧ t.poisoned .phys a = s.poisoned .phys a ∧ SameBytes s t) ∧
  (∀ s, (∃ n ∈ s.groupLines s.ev.line, sget false s.lost n = true) → ∃ t, exec .l2Eviction s = .next t ∧ t.l2 = s.l2 ∧ SameBytes s t ∧
    t.versions = s.versions ∧ t.lost = s.lost) ∧
  (∀ s, let n := s.ev.stack
    let c := sget {} (s.stack n).chans s.ev.ch
    ((∃ b, b < 48 ∧ (s.stack n).refreshLimit b ≤ s.clock) → exec .qosGrant s = .next s) ∧
    ((∀ r ∈ c.queue, s.clock < sget 0 (s.stack n).busy r.bank) → exec .qosGrant s = .next s) ∧
    (c.queue ≠ [] → (∀ b, b < 48 → s.clock < (s.stack n).refreshLimit b) → (∀ b, sget 0 (s.stack n).busy b ≤ s.clock) →
      ∃ t r, exec .qosGrant s = .next t ∧ r ∈ c.queue ∧
        (c.waiting = [] → (sget {} (t.stack n).chans s.ev.ch).queue = c.queue.erase r) ∧
        find? r.bank (sget {} (t.stack n).chans s.ev.ch).open_ = some r.row ∧ SameBytes s t ∧
        (∀ x ∈ c.queue, x.at_ + 4096 ≤ s.clock → r.at_ ≤ x.at_) ∧
        ((∀ x ∈ c.queue, s.clock < x.at_ + 4096) →
          let all := ∀ k, k < 3 → ∃ x ∈ c.queue, x.cls = k
          let hits := fun (x : DramReq) => find? x.bank c.open_ = some x.row
          let shares := fun (g : List Nat) => ∀ j, j ≤ 3 → 8 - j ≤ g.length →
            (2 - ((g.take (8 - j)).filter (· == 1)).length) + (1 - ((g.take (8 - j)).filter (· == 2)).length) ≤ j
          (all → (sget {} (t.stack n).chans s.ev.ch).recent = (r.cls :: c.recent).take 8 ∧
            (shares c.recent → shares ((r.cls :: c.recent).take 8))) ∧
          (¬ all ∨ (forced c.recent = [0, 1, 2] ∧ ∀ x ∈ c.queue, x.cls < 3) →
            ∀ x ∈ c.queue, (hits x → hits r ∧ r.at_ ≤ x.at_) ∧ (¬ hits r → r.at_ ≤ x.at_))))) ∧
  (∀ s, let x := s.stack s.ev.stack
    let old := x.interval s.ev.layer
    old = 5460 ∨ old = 2730 ∨ old = 1365 → MayReach s ((s.clock + 1399) / 1400 * 1400) →
    ∃ t, exec .layerTemperatureSample s = .next t ∧ s.clock ≤ t.clock ∧ t.clock < s.clock + 1400 ∧ t.clock % 1400 = 0 ∧
      (t.stack s.ev.stack).interval s.ev.layer =
        (if 95 < s.ev.temp ∨ old = 1365 ∧ 93 < s.ev.temp then 1365
         else if 85 < s.ev.temp ∨ old ≠ 5460 ∧ 83 < s.ev.temp then 2730 else 5460) ∧
      (∀ l, l ≠ s.ev.layer → (t.stack s.ev.stack).interval l = x.interval l) ∧ SameBytes s t) ∧
  (∀ s, let x := s.stack s.ev.stack
    let b := s.ev.bank
    let p := sget 0 x.postponed b
    b < 48 →
    (s.ev.postpone = false → 0 < p → s.clock < x.dueAt b → ∃ t, exec .bankRefresh s = .next t ∧ t.clock = s.clock ∧
      sget 0 (t.stack s.ev.stack).postponed b = p - 1 ∧ (t.stack s.ev.stack).dueAt b = x.dueAt b ∧
      sget 0 (t.stack s.ev.stack).busy b = s.clock + 280) ∧
    (p < 8 → (s.ev.postpone = true ∨ p = 0 ∨ x.dueAt b ≤ s.clock) → MayReach s (x.dueAt b) → ∃ t, exec .bankRefresh s = .next t ∧
      t.clock = max s.clock (x.dueAt b) ∧ (t.stack s.ev.stack).dueAt b = x.dueAt b + x.interval (layerOf b) ∧
      (sget 0 (t.stack s.ev.stack).postponed b = if s.ev.postpone then p + 1 else p) ∧
      (s.ev.postpone = false → sget 0 (t.stack s.ev.stack).busy b = t.clock + 280)) ∧
    (8 ≤ p → MayReach s (x.dueAt b) → ∃ t, exec .refreshAtLimit s = .next t ∧ t.clock = max s.clock (x.dueAt b) ∧
      (t.stack s.ev.stack).dueAt b = x.dueAt b + x.interval (layerOf b) ∧ sget 0 (t.stack s.ev.stack).postponed b = p ∧
      sget 0 (t.stack s.ev.stack).busy b = t.clock + 280)) ∧
  (∀ s, sget 0 (s.stack s.ev.stack).postponed s.ev.bank < 8 → exec .refreshAtLimit s = .next s)

/-! ## Links, errors and self-tests (17 R408-R425, R450) -/

/-- R408, R410-R412, R421, R422, R424, R425, R450: a replayed flit is counted and starts a test of its lane; 16 replays start a retrain,
which ends at full or half width or takes the link down and then answers the requests queued for it with an error; no packet crosses a
link that retrains or is down, or passes one that was sent before it between the same ends in its class and channel: a hop that it may not
do leaves the packet where it is; nor does what crosses the network in one step without a packet (log 81); a fatal error ends the teams of its die; a hang is recorded and
tested; a self-test ends, and a failed one fences its structure; a stretched clock is only a flag of the die.
The outcome of a self-test is a free value (log 18); which packets are queued for a link and how each is answered follows log 74 and log
81; the outcome of a retrain is an operand of the event (log 18). -/
def Obligations.ErrorsAreHandled : Prop :=
  (∀ s, let d := s.ev.die
    let l := s.ev.link % 3
    let old := ((s.die d).syncnt.extractLsb' 16 16).toNat
    d < 8 →
    ((s.die d).linkState l ≠ 3 → ∃ t, exec .linkFlitReplay s = .next t ∧
      sget 0 (t.die d).replays l = (if s.ev.discard then 1 else sget 0 (s.die d).replays l + 1) ∧
      ((t.die d).syncnt.extractLsb' 16 16).toNat = min 65535 (old + 1) ∧
      (∃ p ∈ t.tests, p.1 = (⟨2, 256 * d, 32768 * l + s.ev.sub % 32768⟩ : Structure)) ∧ SameBytes s t ∧ t.threads = s.threads) ∧
    ((s.die d).linkState l = 3 → exec .linkFlitReplay s = .next s) ∧
    ((s.die d).linkState l < 2 → 16 ≤ sget 0 (s.die d).replays l → ∃ t, exec .linkRetrainStart s = .next t ∧
      (t.die d).linkState l = 2 ∧ sget 0 (t.die d).replays l = 0 ∧ find? l (t.die d).retrainBy = some (s.clock + 140000) ∧
      (l = 0 → (t.die ((d + 1) % 8)).linkState 1 = 2) ∧ (l = 1 → (t.die ((d + 7) % 8)).linkState 0 = 2) ∧
      (∃ p ∈ t.tests, p.1 = (⟨2, 256 * d, 32768 * l + s.ev.sub % 32768⟩ : Structure)) ∧ SameBytes s t ∧ t.threads = s.threads) ∧
    (sget 0 (s.die d).replays l < 16 → (s.die d).toRetrain.head? = some l → (∀ m, m < 3 → (s.die d).linkState m ≠ 2) →
      ∃ t, exec .linkRetrainStart s = .next t ∧ (t.die d).linkState l = 2 ∧
        (t.die d).retrainsLeft = (s.die d).retrainsLeft.erase l ∧ ({ t with dies := s.dies } : State) = s) ∧
    (sget 0 (s.die d).replays l < 16 → (s.die d).toRetrain.head? ≠ some l → exec .linkRetrainStart s = .next s) ∧
    ((s.die d).linkState l ≠ 2 → exec .linkRetrainEnd s = .next s) ∧
    ((s.die d).linkState l = 2 → s.ev.retrain = .full → (∀ n, (s.die n).fencedLanes = [] ∧ (s.die n).resetting = none) →
      ∃ t, exec .linkRetrainEnd s = .next t ∧ (t.die d).linkState l = 0 ∧ find? l (t.die d).retrainBy = none ∧
        ({ t with dies := s.dies } : State) = s) ∧
    ((s.die d).linkState l = 2 → s.ev.retrain = .half → (∀ n, (s.die n).resetting = none) →
      ∃ t, exec .linkRetrainEnd s = .next t ∧ (t.die d).linkState l = 1 ∧
        32768 * l + s.ev.sub % 32768 ∈ (t.die d).fencedLanes ∧ ({ t with dies := s.dies } : State) = s) ∧
    ((s.die d).linkState l = 2 → s.ev.retrain = .down → ∃ t, exec .linkRetrainEnd s = .next t ∧ (t.die d).linkState l = 3 ∧
      SameBytes s t ∧
      ∀ p ∈ s.packets, p.waitsFor d l = true → p.cls = .req → p.ref < 2 ^ 60 → ∀ r, s.req? p.ref = some r → r.performed = false →
        (∀ q ∈ t.packets, q.cls = .req → q.ref ≠ r.id) ∧
        (r.isStore = true → ∃ q, t.req? r.id = some q ∧ q.err = some 0x0F ∧ q.performed = true) ∧
        (r.isStore = false → t.req? r.id = none)) ∧
    (∀ p n rest, p ∈ s.packets → p.rest = n :: rest → s.mayHop p = true →
      (linkAt p.node n = some (d, l) → (s.die d).linkState l < 2) ∧
      ∀ q ∈ s.packets, q.cls = p.cls → q.src = p.src → q.dst = p.dst → q.vc = p.vc → q.stamp ≠ 0 → p.rest.length ≤ q.rest.length →
        p.stamp ≠ 0 ∧ p.stamp ≤ q.stamp)) ∧
  (∀ s c ref dst more p, s.boot.stage = .up → s.agenda = .hop c ref dst :: more →
    s.packets.find? (fun p => p.cls == c && p.ref == ref && p.dst == dst) = some p →
    (s.mayHop p = false → step s = .next { s with agenda := more }) ∧
    (∀ n rest d l, p.rest = n :: rest → linkAt p.node n = some (d, l) → 2 ≤ (s.die d).linkState l →
      step s = .next { s with agenda := more }) ∧
    (∀ n rest, p.rest = n :: rest → s.mayHop p = true → ∃ t, step s = .next t ∧ SameBytes s t ∧ t.threads = s.threads ∧ t.reqs = s.reqs ∧
      (rest = [] → p ∉ t.packets) ∧
      (rest ≠ [] → ∃ q ∈ t.packets, q.cls = c ∧ q.ref = ref ∧ q.dst = dst ∧ q.node = n ∧ q.rest = rest ∧ q.stamp =
        (if p.stamp = 0 then s.fresh else p.stamp)))) ∧
  (∀ (s : State) c a b, s.crossing c a b = true → let way := nodeOf a :: s.route a b
    (∀ p ∈ s.packets, ¬ (p.cls = c ∧ p.src = a ∧ p.dst = b)) ∧
    ∀ i x y d l, way[i]? = some x → way[i + 1]? = some y → linkAt x y = some (d, l) → (s.die d).linkState l < 2) ∧
  (∀ s, s.ev.die < 8 → ∃ t, exec .fatalError s = .next t ∧
    ((t.die s.ev.die).syncnt.extractLsb' 0 16).toNat = min 65535 (((s.die s.ev.die).syncnt.extractLsb' 0 16).toNat + 1) ∧
    ∀ k x u, find? k s.teams = some x → x.place = .resident u → dieOf u = s.ev.die → (t.team k).done = true) ∧
  (∀ s, 1024 ≤ s.ev.u → s.ev.u < 2048 →
    (s.couldStep s.ev.u = true → MayReach s ((s.tile s.ev.u).lastProgress + 2 ^ 20) → ∃ t, exec .matrixEngineHang s = .next t ∧
      t.clock = max s.clock ((s.tile s.ev.u).lastProgress + 2 ^ 20) ∧ (t.tile s.ev.u).lastProgress = t.clock ∧
      (t.die (s.ev.u / 256)).syncnt = (s.die (s.ev.u / 256)).syncnt ∧ ((t.die (s.ev.u / 256)).synrec.extractLsb' 58 2) = 2 ∧
      (∃ p ∈ t.tests, p.1 = (⟨3, s.ev.u, 2⟩ : Structure)) ∧ SameBytes s t) ∧
    (s.couldStep s.ev.u = false → exec .matrixEngineHang s = .next s)) ∧
  (∀ s, (∃ p ∈ s.tests, p.1 = s.ev.struct) →
    ∃ t, exec .targetedSelfTest s = .next t ∧ (∀ p ∈ t.tests, p.1 ≠ s.ev.struct) ∧
      (s.ev.pass = true → SameBytes s t ∧ t.threads = s.threads ∧ t.fallbackFences = s.fallbackFences ∧ t.cores = s.cores) ∧
      (s.ev.pass = false → Fenced t s.ev.struct)) ∧
  (∀ s, (∀ p ∈ s.tests, p.1 ≠ s.ev.struct) → exec .targetedSelfTest s = .next s) ∧
  (∀ s, ∀ e ∈ [(Instr.clockStretch, true), (.supplySagEnd, false)], ∃ t, exec e.1 s = .next t ∧
    t.die s.ev.die = { s.die s.ev.die with stretched := e.2 } ∧ (∀ d, d ≠ s.ev.die → t.die d = s.die d) ∧
    ({ t with dies := s.dies } : State) = s)

/-! ## Host, fabric and boot (19 R432-R446) -/

/-- R432-R434: an operation of an open queue pair that its region permits is performed and answered, WRITE with immediate and SEND
tell the firmware, and one outside every region is a remote access error; other operations, and packets of more than 4096 bytes, are not
received. That a READ returns the bytes of a poisoned sector as they are is the model's reading (log 75).
That a misaligned atomic fails is the model's choice (log 31); the statement covers aligned ones. -/
def Obligations.RdmaOperations : Prop :=
  (∀ s as, ∀ e ∈ [(Instr.rdmaWrite, ([] : List Inbound)),
      (.rdmaWriteWithImmediate, [.immediate s.ev.qp (s.ev.v.setWidth 32)])],
    Received s → s.ev.data.length ≤ 4096 → Reaches s s.ev.data.length (·.w) (·.w) as →
    ∃ t, exec e.1 s = .next t ∧ Placed s t (as.zip s.ev.data) ∧ t.outs = s.outs ++ [.rdmaAck s.ev.qp] ∧
      t.inbox = s.inbox ++ e.2 ∧ t.threads = s.threads) ∧
  (∀ s as, Received s → Reaches s s.ev.len (·.r) (·.r) as →
    ∃ t, exec .rdmaRead s = .next t ∧ SameBytes s t ∧ t.outs = s.outs ++ [.rdmaData s.ev.qp (as.map (s.readByte .phys))] ∧
      (s.damage = [] → (∀ n, (s.stack n).lost = []) → (∀ p ∈ s.l2, p.2.gran = s.granule (128 * p.1)) → ∀ n, s.granule (128 * n) ≠ .s32 → t.version n = s.version n)) ∧
  (∀ s, Received s → s.ev.data.length ≤ 4096 → exec .rdmaSend s = .next { s with
    inbox := s.inbox ++ [.send s.ev.qp s.ev.data]
    outs := s.outs ++ [.rdmaAck s.ev.qp] }) ∧
  (∀ s as, ∀ e ∈ [(Instr.rdmaFetchAdd, false), (.rdmaCompareSwap, true)],
    Received s → Reaches s 8 (·.atomic) (fun l => l.r && l.w) as → s.ev.va % 8 = 0 →
    (s.fillFor settWho .phys as).readsPoison .phys as = false →
    let old := BitVec.ofNat 64 (fromBytes (as.map (s.readByte .phys)))
    let new := if e.2 then (if old = s.ev.cmp then s.ev.v else old) else old + s.ev.v
    ∃ t, exec e.1 s = .next t ∧ Placed s t (as.zip (toBytes 8 new.toNat)) ∧
      t.outs = s.outs ++ [.rdmaAtomic s.ev.qp old]) ∧
  (∀ s, Received s → s.ev.data.length ≤ 4096 → (∀ r ∈ s.regions, r.key ≠ s.ev.key) →
    ∀ i ∈ [Instr.rdmaWrite, .rdmaWriteWithImmediate, .rdmaRead, .rdmaFetchAdd, .rdmaCompareSwap],
      exec i s = .next (AccessError s)) ∧
  (∀ s, 4096 < s.ev.data.length → ∀ i ∈ [Instr.rdmaWrite, .rdmaWriteWithImmediate, .rdmaSend], exec i s = .next s) ∧
  (∀ s, ¬ Received s → ∀ i ∈ [Instr.rdmaWrite, .rdmaWriteWithImmediate, .rdmaRead, .rdmaSend, .rdmaFetchAdd, .rdmaCompareSwap],
    exec i s = .next s)

/-- R432, R438, R439, R446: connections open and close queue pairs, flow control pauses a priority and a mark slows a queue pair;
messages of an allowed address or a secured session reach the firmware; a request of another package that an export entry
covers is performed at its memory point and answered, any other is answered with an error; replays of fibres are counted and
a package without a working fibre becomes unreachable.
The poisoned reply and the queue-pair limit follow the reading of log 75. -/
def Obligations.PortAndFabric : Prop :=
  (∀ s, s.boot.stage = .up →
    (s.ev.cm = .connect → s.qpairs.length < 4096 → exec .connectionManagement s =
      .next { s with qpairs := sput s.ev.qp { connected := true } s.qpairs }) ∧
    (s.ev.cm = .connect → 4096 ≤ s.qpairs.length → find? s.ev.qp s.qpairs = none → exec .connectionManagement s = .next s) ∧
    (s.ev.cm = .disconnect → ∃ t, exec .connectionManagement s = .next t ∧ find? s.ev.qp t.qpairs = none) ∧
    (s.ev.prio < 8 → ∃ t, exec .priorityFlowControl s = .next t ∧ sget 0 t.paused s.ev.prio = s.ev.len ∧
      ∀ n, n ≠ s.ev.prio → sget 0 t.paused n = sget 0 s.paused n) ∧
    ((find? s.ev.qp s.qpairs).isSome = true → ∃ t, exec .ecnMark s = .next t ∧
      t.qpair s.ev.qp = { s.qpair s.ev.qp with slow := (s.qpair s.ev.qp).slow + 1 }) ∧
    ((s.ev.src ∈ s.boot.allow ∨ s.ev.secured = true ∧ s.spdm.session = true) →
      exec .managementMessage s = .next { s with inbox := s.inbox ++ [.mgmt s.ev.src s.ev.data] } ∧
      exec .hostTimeMessage s = .next { s with hostTime := s.ev.v.toNat }) ∧
    (s.ev.src ∉ s.boot.allow → (s.ev.secured = false ∨ s.spdm.session = false) →
      exec .managementMessage s = .next s ∧ exec .hostTimeMessage s = .next s)) ∧
  (∀ s, s.boot.stage = .up → s.fabid.getLsbD 15 = true →
    (∀ pa n, s.ev.fabric = .read pa n → s.exported pa n true false = true →
      ((s.fillFor settWho .phys (runOf pa n)).readsPoison .phys (runOf pa n) = false → ∃ t, exec .fabricRequest s = .next t ∧
        SameBytes s t ∧ t.outs = s.outs ++ [.fabricData s.ev.src (s.readN .phys pa n)]) ∧
      ((s.fillFor settWho .phys (runOf pa n)).readsPoison .phys (runOf pa n) = true → ∃ t, exec .fabricRequest s = .next t ∧
        SameBytes s t ∧ t.outs = s.outs ++ [.fabricPoison s.ev.src])) ∧
    (∀ pa n, s.ev.fabric = .read pa n → s.exported pa n true false = false →
      exec .fabricRequest s = .next { s with outs := s.outs ++ [.fabricError s.ev.src] }) ∧
    (∀ pa data, s.ev.fabric = .write pa data → s.exported pa data.length false true = true →
      (∀ n, (s.stack n).fencedBanks = []) → ∃ t, exec .fabricRequest s = .next t ∧ Placed s t (cellsAt pa data) ∧
        t.outs = s.outs ++ [.fabricAck s.ev.src]) ∧
    (∀ pa data, s.ev.fabric = .write pa data → s.exported pa data.length false true = false →
      exec .fabricRequest s = .next { s with outs := s.outs ++ [.fabricError s.ev.src] }) ∧
    (∀ pa n e v, s.ev.fabric = .casv pa n e v → s.exported pa n true true = true →
      let s1 := s.fillFor settWho .phys (runOf pa n)
      sget false s1.lost (lineOf pa) = false → (∀ n, (s.stack n).fencedBanks = []) →
      (s1.version (lineOf pa) = e → ∃ t, exec .fabricRequest s = .next t ∧ Placed s t (cellsAt pa (toBytes n v.toNat)) ∧
        t.outs = s.outs ++ [.fabricVersion s.ev.src [1] (e + 1)]) ∧
      (s1.version (lineOf pa) ≠ e → ∃ t, exec .fabricRequest s = .next t ∧ SameBytes s t ∧
        t.outs = s.outs ++ [.fabricVersion s.ev.src [0] (s1.version (lineOf pa))])) ∧
    (∀ pa, s.ev.fabric = .version pa → s.exported pa 1 true false = true → sget false s.lost (lineOf pa) = false →
      exec .fabricRequest s = .next { s with outs := s.outs ++ [.fabricVersion s.ev.src [] (s.version (lineOf pa))] })) ∧
  (∀ s, s.fabid.getLsbD 15 = false → exec .fabricRequest s = .next s) ∧
  (∀ s, exec .opticalFlitReplay s =
    .next { s with fibreReplays := sset 0 s.fibreReplays s.ev.fibre (sget 0 s.fibreReplays s.ev.fibre + 1) }) ∧
  (∀ s, ∃ t, exec .fibreFailure s = .next t ∧ s.ev.fibre ∈ t.deadFibres ∧ (∀ f ∈ s.deadFibres, f ∈ t.deadFibres) ∧
    (∀ p ∈ s.routes, (∀ f ∈ p.2, f = s.ev.fibre ∨ f ∈ s.deadFibres) → p.1 ∈ t.unreachable) ∧
    (∀ p, p ∈ t.unreachable → p ∈ s.unreachable ∨ ∃ r ∈ s.routes, r.1 = p ∧ ∀ f ∈ r.2, f = s.ev.fibre ∨ f ∈ s.deadFibres))

/-- R443, R444: the SPDM responder answers the requests of the standard in its order, with the chain of slot 0, the measurements and
signatures of the Alias key, and errors for the others; a session exists after a FINISH that verifies until END_SESSION.
The message codes and the order of requests are those of the SPDM standard (log 32, PRESUMED); keys and hashes are opaque (log 8). -/
def Obligations.AttestationRequests : Prop :=
  ∀ s, s.boot.stage = .up →
  let out := fun (t : State) (code : Nat) (body : List Byte) => t.outs = s.outs ++ [.spdm code body]
  let sign := fun (body : List Byte) => body ++ Config.aliasSign ([1, 2, 3, 4].map s.boot.slot) (s.ev.data ++ body)
  let slots := ([1, 2, 3, 4, 5, 6].map (fun m => sget (0 : BitVec 384) s.boot.slots m)).flatMap bytes48
  let chain := Config.certChain ++ s.boot.aliasCert
  (∃ t, exec .getVersion s = .next t ∧ out t 0x04 [0x13] ∧ t.spdm.version = true ∧ t.spdm.caps = false ∧ t.spdm.algs = false ∧
    t.spdm.session = false) ∧
  (s.spdm.version = true → ∃ t, exec .getCapabilities s = .next t ∧ out t 0x61 [] ∧ t.spdm = { s.spdm with caps := true }) ∧
  (s.spdm.version = false → ∃ t, exec .getCapabilities s = .next t ∧ out t 0x7F [4] ∧ t.spdm = s.spdm) ∧
  (s.spdm.caps = true → s.ev.algs = ⟨true, true, true, true⟩ → ∃ t, exec .negotiateAlgorithms s = .next t ∧ out t 0x63 [] ∧
    t.spdm = { s.spdm with algs := true }) ∧
  (s.spdm.caps = true → s.ev.algs ≠ ⟨true, true, true, true⟩ → ∃ t, exec .negotiateAlgorithms s = .next t ∧ out t 0x7F [1] ∧
    t.spdm = s.spdm) ∧
  (s.spdm.algs = false → ∀ i ∈ [Instr.getDigests, .getCertificate, .challenge, .getMeasurements, .keyExchange, .finish],
    ∃ t, exec i s = .next t ∧ out t 0x7F [4] ∧ t.spdm = s.spdm) ∧
  (s.spdm.algs = true →
    (∃ t, exec .getDigests s = .next t ∧ out t 0x01 (bytes48 (Config.sha384 chain)) ∧ t.spdm = s.spdm) ∧
    (s.ev.slot = 0 → ∃ t, exec .getCertificate s = .next t ∧ out t 0x02 ((chain.drop s.ev.va).take s.ev.len) ∧ t.spdm = s.spdm) ∧
    (s.ev.slot ≠ 0 → ∀ i ∈ [Instr.getCertificate, .challenge, .keyExchange], ∃ t, exec i s = .next t ∧ out t 0x7F [1] ∧
      t.spdm = s.spdm) ∧
    (s.ev.slot = 0 → ∃ t, exec .challenge s = .next t ∧
      out t 0x03 (sign (bytes48 (Config.sha384 chain) ++ bytes48 (Config.sha384 slots))) ∧ t.spdm = s.spdm) ∧
    (∀ body, (s.ev.slot = 0 ∧ body = [6] ∨ 1 ≤ s.ev.slot ∧ s.ev.slot ≤ 6 ∧
        body = bytes48 (sget 0 s.boot.slots s.ev.slot) ∨ s.ev.slot = 255 ∧ body = slots) →
      ∃ t, exec .getMeasurements s = .next t ∧ t.spdm = s.spdm ∧
        (s.ev.data = [] → out t 0x60 body) ∧ (s.ev.data ≠ [] → out t 0x60 (sign body))) ∧
    (s.ev.slot = 0 → ∃ t, exec .keyExchange s = .next t ∧ out t 0x64 (sign (Config.ecdhePublic s.spdm.count)) ∧
      t.spdm = { s.spdm with handshake := true, session := false, count := s.spdm.count + 1 }) ∧
    (s.spdm.handshake = true → Config.finishVerify (s.spdm.count - 1) s.ev.data = true →
      ∃ t, exec .finish s = .next t ∧ out t 0x65 [] ∧ t.spdm = { s.spdm with handshake := false, session := true }) ∧
    (s.spdm.handshake = true → Config.finishVerify (s.spdm.count - 1) s.ev.data = false →
      ∃ t, exec .finish s = .next t ∧ out t 0x7F [6] ∧ t.spdm = { s.spdm with handshake := false })) ∧
  (s.spdm.session = true → ∃ t, exec .endSession s = .next t ∧ out t 0x6C [] ∧ t.spdm = { s.spdm with session := false }) ∧
  (s.spdm.session = false → ∃ t, exec .endSession s = .next t ∧ out t 0x7F [4] ∧ t.spdm = s.spdm) ∧
  (∃ t, exec .unsupportedRequest s = .next t ∧ out t 0x7F [7] ∧ t.spdm = s.spdm)

/-- R440-R442: a cold reset ends every thread and team, clears local memory, starts the clock at 0 and runs the boot chain from the
ROM, whose measurements start from zero; the package comes up with images that verify and else waits for a recovery image, whose load
starts the cycle counters of the dies (R209);
a change of the debug state extends slot 6. That the memory of other packages stays as it is (log 71), and that slot 6 is extended with the
hash of the debug state as 8 little-endian bytes (log 76), are the model's readings.
What happens where a base-die or optical image does not verify is the model's choice (log 33, DESIGN CHOICE); local memory reads 0 after a
cold reset (log 3, DESIGN CHOICE); hashes and verification are opaque (log 8). -/
def Obligations.BootChain : Prop :=
  (∀ s, ∃ t, exec .coldReset s = .next t ∧ t.threads = [] ∧ t.teams = [] ∧ t.launches = [] ∧ t.clock = 0 ∧ t.fabid = 0 ∧
    t.reqs = [] ∧ (∀ a, a < 2 ^ 60 → t.readByte .phys a = 0) ∧ (∀ a, 2 ^ 60 ≤ a → t.readByte .phys a = s.readByte .phys a) ∧
    t.boot.slot 1 = Config.sha384 (bytes48 0 ++ bytes48 (Config.sha384 s.boot.rom)) ∧ t.boot.slot 6 = 0 ∧
    (s.boot.verifies s.boot.flashA = false → s.boot.verifies s.boot.flashB = false → t.boot.stage = .recovery) ∧
    (s.boot.verifies s.boot.flashA = true → s.boot.verifies s.boot.baseImage = true → s.boot.verifies s.boot.opticalImage = true →
      t.boot.stage = .up ∧ t.boot.slot 2 = Config.sha384 (bytes48 0 ++ bytes48 (Config.sha384 s.boot.flashA)) ∧
      t.boot.slot 3 = Config.sha384 (bytes48 0 ++ bytes48 (Config.sha384 s.boot.baseImage)) ∧
      t.boot.slot 4 = Config.sha384 (bytes48 0 ++ bytes48 (Config.sha384 s.boot.opticalImage)))) ∧
  (∀ s, s.boot.debug = s.ev.v.toNat → exec .debugEnableChange s = .next s) ∧
  (∀ s, s.boot.debug ≠ s.ev.v.toNat → ∃ t, exec .debugEnableChange s = .next t ∧ t.boot.debug = s.ev.v.toNat ∧
    t.boot.slot 6 = Config.sha384 (bytes48 (s.boot.slot 6) ++ bytes48 (Config.sha384 (toBytes 8 s.ev.v.toNat))) ∧
    (∀ m, m ≠ 6 → t.boot.slot m = s.boot.slot m) ∧ ({ t with boot := s.boot } : State) = s) ∧
  (∀ s, (s.boot.stage ≠ .recovery ∨ s.boot.verifies s.ev.data = false) → exec .recoveryImageLoad s = .next s) ∧
  (∀ s, s.boot.stage = .recovery → s.boot.verifies s.ev.data = true →
    ∃ t, exec .recoveryImageLoad s = .next t ∧
      t.boot.slot 2 = Config.sha384 (bytes48 (s.boot.slot 2) ++ bytes48 (Config.sha384 s.ev.data)) ∧
      (s.boot.verifies s.boot.baseImage = true → s.boot.verifies s.boot.opticalImage = true → t.boot.stage = .up ∧
        ∀ d, d < 8 → (t.die d).start = s.clock) ∧
      (s.boot.verifies s.boot.baseImage = false → t.boot.stage = .recovery))

/-! ## The whole machine -/

/-- R144-R158: the encoding loses nothing. Every well-formed instruction word is read back from the word that encodes it, and
from that word's eight bytes in memory, and a word that decodes is the encoding of what it decodes to. -/
def Obligations.DecodeAndEncodeAgree : Prop :=
  (∀ i w, encode i = some w → i.wellFormed = true → (∀ u, i = .unassignedOpcode u → ofWord u = i) → decode w = .ok i ∧ decodeBytes (toBytes 8 w.toNat) = .ok i) ∧
  (∀ i, i.wellFormed = true → (msOf i).isSome = true → (encode i).isSome = true) ∧
  (∀ w i, decode w = .ok i → encode i = some w ∧ i.wellFormed = true)

/-- R157 and worked words of 05 and 06: four words that the specification writes out decode to their instructions, and the opcodes
0x00 and 0xFF are unassigned. -/
def Obligations.WorkedWordsDecode : Prop :=
  decode 0x333428C390005000 = .ok (.ffma ⟨3, 2, 5, 6, 7, 8, 0, 1, 0, 8, 0⟩) ∧
  decode 0x78C05046458A0010 = .ok (.ldg ⟨12, 0, 10, 2, 12, 4, 5, 4, 1, 2, 16⟩) ∧
  decode 0x22C02002468ACF00 = .ok (.movi ⟨12, 0, 4, 0, 0x12345678, 0⟩) ∧
  decode 0x60C0000000000000 = .ok (.nop ⟨12, 0, 0, 0, 0, 0, 0, 0, 0, 0, 0⟩) ∧
  (∀ w : DWord, w.extractLsb' 56 8 = 0x00 ∨ w.extractLsb' 56 8 = 0xFF → ofWord w = .unassignedOpcode w)

/-- R13, R14, R159, R161: a slot of a shader core's window whose bundle stands at eight bytes that decode runs that instruction for the lanes
that need not wait, and so does a tile or a management core whose control thread may issue; the clock has reached the slot's time and the
slot is used. Bytes that are no instruction run as the illegal word. Where no executable page maps the word (R159, check 1), or it lies in no
range, its thread traps 0x08 with the word's address. Once a window is over, the sub-partition regroups at the next multiple
of 4 of its die's clocks.
That the unit of the next issue stands in the focus is the model's choice (log 6, DESIGN CHOICE), and that a fetch translates by a walk of
its own is the model's choice too (log 34, DESIGN CHOICE). -/
def Obligations.AStepRunsTheDecodedWord : Prop :=
  (∀ s bid l lanes pc x, let u := s.focus.1
    let sub := s.focus.2
    let w := s.window u sub
    let s0 := s.takeSlot u sub
    s.agenda = [] → s.boot.stage = .up → u < 1024 → w.over s.clock = false → w.at_ ≤ s.clock →
    w.picked[w.slot s.clock % w.picked.length]? = some bid → Fetches s0 u bid l lanes pc x →
    (s0.window u sub).next = w.slot s.clock + 1 ∧ (s0.window u sub).at_ = s.clock + 1 ∧
      RunsWord s (Issued s0 u bid l lanes pc x) x) ∧
  (∀ s bid l, let u := s.focus.1
    let sub := s.focus.2
    let w := s.window u sub
    let s0 := s.takeSlot u sub
    let pc := (s.thread (32 * bid + l)).pc
    let f := Fetched s0 u bid l
    s.agenda = [] → s.boot.stage = .up → u < 1024 → w.over s.clock = false → w.at_ ≤ s.clock →
    w.picked[w.slot s.clock % w.picked.length]? = some bid → (s.band bid).bundle = [l] → (s.thread (32 * bid + l)).free = true →
    s.mustTake (32 * bid + l) = false → f.fetchAddr u (s.asidOf (32 * bid + l)) (pc.toNat / 8 * 8) = none →
    step s = .next (({ f with cur := ⟨u, bid, [l], pc, 0, []⟩ }.raise (32 * bid + l) 0x08 pc).keepBundle bid [l])) ∧
  (∀ s, let u := s.focus.1
    let sub := s.focus.2
    let d := s.die (dieOf u)
    s.agenda = [] → s.boot.stage = .up → u < 1024 → (s.window u sub).over s.clock = true → (s.window u sub).at_ ≤ s.clock →
    d.start ≤ s.clock → (s.clock - d.start) % 4 = 0 → step s = .next (s.regroup u sub)) ∧
  (∀ s l lanes pc x, let u := s.focus.1
    let sub := s.focus.2
    let bid := 64 * u
    let s0 := (s.onWindow u sub (fun y => { y with at_ := s.clock + 1 })).onBand bid (fun b => { b with bundle := [0] })
    s.agenda = [] → s.boot.stage = .up → 1024 ≤ u → (s.window u sub).at_ ≤ s.clock → (find? bid s.bands).isSome = true →
    (s.tile u).ctlHaltReq = false → (s.tile u).ctlHalted = false → (s.team (s.band bid).team).stopping = false →
    Fetches s0 u bid l lanes pc x → RunsWord s (Issued s0 u bid l lanes pc x) x)

/-- R311, R331, R424, R436, R440: after reset no thread, team or request exists and the boot chain is in its ROM; every
control register that the specification gives a reset value has it; the clock, the fabric identity, the invalidation sequence
and the syndrome registers are 0; and every memory has its canonical form.
The fields for which the specification gives no reset value are the model's choice (log 2, DESIGN CHOICE); the memories are empty (log 3). -/
def Obligations.ResetState : Prop :=
  State.reset.threads = [] ∧ State.reset.teams = [] ∧ State.reset.reqs = [] ∧ State.reset.packets = [] ∧
  State.reset.boot.stage = .rom ∧
  State.reset.clock = 0 ∧ State.reset.fabid = 0 ∧ State.reset.invseq = 0 ∧ State.reset.invNext = 1 ∧
  (∀ u, (State.reset.core u).swapth = 4096 ∧ (State.reset.core u).gangto = 2 ^ 20) ∧
  (∀ tid, State.reset.csr tid 0 = 0 ∧ State.reset.csr tid 1 = 0 ∧ State.reset.csr tid 2 = 0 ∧ State.reset.csr tid 3 = 0 ∧
    State.reset.csr tid 4 = 0 ∧ State.reset.csr tid 8 = 0 ∧ State.reset.csr tid 9 = 0 ∧ State.reset.csr tid 10 = 0) ∧
  (∀ d i, (State.reset.die d).syndrome i = 0) ∧ MemoryForm State.reset

/-- Every step of every state that keeps canonical memories keeps them: no step lists a blank byte, lists a byte twice or leaves
the addresses of main memory, of a scratchpad or of a staging partition out of order.
The canonical form is the model's own representation of memory (log 3, DESIGN CHOICE). -/
def Obligations.EveryStepKeepsMemoryForm : Prop :=
  ∀ s t, MemoryForm s → step s = .next t → MemoryForm t

/-- R14, R159: the machine never stops. No step refuses, and a step faults only where the agenda, the model's own list of what
happens next, lists an instruction word as if it were an event.
That what happens next is listed in an agenda is the model's choice (log 6, DESIGN CHOICE). -/
def Obligations.StepsNeverStop : Prop :=
  ∀ s, (∀ r, step s ≠ .refused r) ∧
    ((∃ f, step s = .fault f) ↔ ∃ i e rest, s.agenda = .event i e :: rest ∧ (msOf i).isSome = true)
end

