-- ==== Sys2Proof/Laws/Decode.lean ====
section
/-!
SUPPORT. The fields that a format packs are the ones it unpacks (05 R145, R146): the laws that the round trip of decoding and encoding
rests on, format by format.
-/

namespace Sys2Proof

/-- A field that lies in the low part of an appended word. -/
theorem field_low {v w start len : Nat} (x : BitVec v) (y : BitVec w) (h : start + len ≤ w) :
    BitVec.extractLsb' (n := v + w) start len (x ++ y) = y.extractLsb' start len :=
  BitVec.extractLsb'_append_eq_of_add_le h

/-- A field that lies above the low part of an appended word. -/
theorem field_high {v w start len : Nat} (x : BitVec v) (y : BitVec w) (h : w ≤ start) :
    BitVec.extractLsb' (n := v + w) start len (x ++ y) = x.extractLsb' (start - w) len :=
  BitVec.extractLsb'_append_eq_of_le h

theorem unpackR_packR (op : BitVec 8) (f : RFmt) : unpackR (packR op f) = f := by
  show RFmt.mk
    (BitVec.extractLsb' (n := 8 + 4 + 3 + 6 + 6 + 6 + 6 + 8 + 3 + 1 + 4 + 9) 52 4 (op ++ f.ms ++ f.fe ++ f.d ++ f.a ++ f.b ++ f.c ++ f.fn ++ f.rm ++ f.sat ++ f.ty ++ f.mod))
    (BitVec.extractLsb' (n := 8 + 4 + 3 + 6 + 6 + 6 + 6 + 8 + 3 + 1 + 4 + 9) 49 3 (op ++ f.ms ++ f.fe ++ f.d ++ f.a ++ f.b ++ f.c ++ f.fn ++ f.rm ++ f.sat ++ f.ty ++ f.mod))
    (BitVec.extractLsb' (n := 8 + 4 + 3 + 6 + 6 + 6 + 6 + 8 + 3 + 1 + 4 + 9) 43 6 (op ++ f.ms ++ f.fe ++ f.d ++ f.a ++ f.b ++ f.c ++ f.fn ++ f.rm ++ f.sat ++ f.ty ++ f.mod))
    (BitVec.extractLsb' (n := 8 + 4 + 3 + 6 + 6 + 6 + 6 + 8 + 3 + 1 + 4 + 9) 37 6 (op ++ f.ms ++ f.fe ++ f.d ++ f.a ++ f.b ++ f.c ++ f.fn ++ f.rm ++ f.sat ++ f.ty ++ f.mod))
    (BitVec.extractLsb' (n := 8 + 4 + 3 + 6 + 6 + 6 + 6 + 8 + 3 + 1 + 4 + 9) 31 6 (op ++ f.ms ++ f.fe ++ f.d ++ f.a ++ f.b ++ f.c ++ f.fn ++ f.rm ++ f.sat ++ f.ty ++ f.mod))
    (BitVec.extractLsb' (n := 8 + 4 + 3 + 6 + 6 + 6 + 6 + 8 + 3 + 1 + 4 + 9) 25 6 (op ++ f.ms ++ f.fe ++ f.d ++ f.a ++ f.b ++ f.c ++ f.fn ++ f.rm ++ f.sat ++ f.ty ++ f.mod))
    (BitVec.extractLsb' (n := 8 + 4 + 3 + 6 + 6 + 6 + 6 + 8 + 3 + 1 + 4 + 9) 17 8 (op ++ f.ms ++ f.fe ++ f.d ++ f.a ++ f.b ++ f.c ++ f.fn ++ f.rm ++ f.sat ++ f.ty ++ f.mod))
    (BitVec.extractLsb' (n := 8 + 4 + 3 + 6 + 6 + 6 + 6 + 8 + 3 + 1 + 4 + 9) 14 3 (op ++ f.ms ++ f.fe ++ f.d ++ f.a ++ f.b ++ f.c ++ f.fn ++ f.rm ++ f.sat ++ f.ty ++ f.mod))
    (BitVec.extractLsb' (n := 8 + 4 + 3 + 6 + 6 + 6 + 6 + 8 + 3 + 1 + 4 + 9) 13 1 (op ++ f.ms ++ f.fe ++ f.d ++ f.a ++ f.b ++ f.c ++ f.fn ++ f.rm ++ f.sat ++ f.ty ++ f.mod))
    (BitVec.extractLsb' (n := 8 + 4 + 3 + 6 + 6 + 6 + 6 + 8 + 3 + 1 + 4 + 9) 9 4 (op ++ f.ms ++ f.fe ++ f.d ++ f.a ++ f.b ++ f.c ++ f.fn ++ f.rm ++ f.sat ++ f.ty ++ f.mod))
    (BitVec.extractLsb' (n := 8 + 4 + 3 + 6 + 6 + 6 + 6 + 8 + 3 + 1 + 4 + 9) 0 9 (op ++ f.ms ++ f.fe ++ f.d ++ f.a ++ f.b ++ f.c ++ f.fn ++ f.rm ++ f.sat ++ f.ty ++ f.mod)) = f
  simp (disch := decide) only [field_low, field_high, -Nat.reduceAdd]
  simp

theorem opField_packR (op : BitVec 8) (f : RFmt) : opField (packR op f) = op := by
  show BitVec.extractLsb' (n := 8 + 4 + 3 + 6 + 6 + 6 + 6 + 8 + 3 + 1 + 4 + 9) 56 8 (op ++ f.ms ++ f.fe ++ f.d ++ f.a ++ f.b ++ f.c ++ f.fn ++ f.rm ++ f.sat ++ f.ty ++ f.mod) = op
  simp (disch := decide) only [field_high, -Nat.reduceAdd]
  simp

theorem packR_unpackR (w : DWord) : packR (opField w) (unpackR w) = w := by
  show ((BitVec.extractLsb' 56 8 w ++ BitVec.extractLsb' 52 4 w ++ BitVec.extractLsb' 49 3 w ++ BitVec.extractLsb' 43 6 w ++ BitVec.extractLsb' 37 6 w ++ BitVec.extractLsb' 31 6 w ++ BitVec.extractLsb' 25 6 w ++ BitVec.extractLsb' 17 8 w ++ BitVec.extractLsb' 14 3 w ++ BitVec.extractLsb' 13 1 w ++ BitVec.extractLsb' 9 4 w ++ BitVec.extractLsb' 0 9 w) : BitVec (8 + 4 + 3 + 6 + 6 + 6 + 6 + 8 + 3 + 1 + 4 + 9)) = w
  rw [BitVec.extractLsb'_append_extractLsb'_eq_extractLsb' (by rfl)]
  rw [BitVec.extractLsb'_append_extractLsb'_eq_extractLsb' (by rfl)]
  rw [BitVec.extractLsb'_append_extractLsb'_eq_extractLsb' (by rfl)]
  rw [BitVec.extractLsb'_append_extractLsb'_eq_extractLsb' (by rfl)]
  rw [BitVec.extractLsb'_append_extractLsb'_eq_extractLsb' (by rfl)]
  rw [BitVec.extractLsb'_append_extractLsb'_eq_extractLsb' (by rfl)]
  rw [BitVec.extractLsb'_append_extractLsb'_eq_extractLsb' (by rfl)]
  rw [BitVec.extractLsb'_append_extractLsb'_eq_extractLsb' (by rfl)]
  rw [BitVec.extractLsb'_append_extractLsb'_eq_extractLsb' (by rfl)]
  rw [BitVec.extractLsb'_append_extractLsb'_eq_extractLsb' (by rfl)]
  rw [BitVec.extractLsb'_append_extractLsb'_eq_extractLsb' (by rfl)]
  exact BitVec.extractLsb'_eq_self

theorem unpackI_packI (op : BitVec 8) (f : IFmt) : unpackI (packI op f) = f := by
  show IFmt.mk
    (BitVec.extractLsb' (n := 8 + 4 + 3 + 6 + 6 + 24 + 8 + 5) 52 4 (op ++ f.ms ++ f.fe ++ f.d ++ f.a ++ f.imm ++ f.fn ++ f.mod))
    (BitVec.extractLsb' (n := 8 + 4 + 3 + 6 + 6 + 24 + 8 + 5) 49 3 (op ++ f.ms ++ f.fe ++ f.d ++ f.a ++ f.imm ++ f.fn ++ f.mod))
    (BitVec.extractLsb' (n := 8 + 4 + 3 + 6 + 6 + 24 + 8 + 5) 43 6 (op ++ f.ms ++ f.fe ++ f.d ++ f.a ++ f.imm ++ f.fn ++ f.mod))
    (BitVec.extractLsb' (n := 8 + 4 + 3 + 6 + 6 + 24 + 8 + 5) 37 6 (op ++ f.ms ++ f.fe ++ f.d ++ f.a ++ f.imm ++ f.fn ++ f.mod))
    (BitVec.extractLsb' (n := 8 + 4 + 3 + 6 + 6 + 24 + 8 + 5) 13 24 (op ++ f.ms ++ f.fe ++ f.d ++ f.a ++ f.imm ++ f.fn ++ f.mod))
    (BitVec.extractLsb' (n := 8 + 4 + 3 + 6 + 6 + 24 + 8 + 5) 5 8 (op ++ f.ms ++ f.fe ++ f.d ++ f.a ++ f.imm ++ f.fn ++ f.mod))
    (BitVec.extractLsb' (n := 8 + 4 + 3 + 6 + 6 + 24 + 8 + 5) 0 5 (op ++ f.ms ++ f.fe ++ f.d ++ f.a ++ f.imm ++ f.fn ++ f.mod)) = f
  simp (disch := decide) only [field_low, field_high, -Nat.reduceAdd]
  simp

theorem opField_packI (op : BitVec 8) (f : IFmt) : opField (packI op f) = op := by
  show BitVec.extractLsb' (n := 8 + 4 + 3 + 6 + 6 + 24 + 8 + 5) 56 8 (op ++ f.ms ++ f.fe ++ f.d ++ f.a ++ f.imm ++ f.fn ++ f.mod) = op
  simp (disch := decide) only [field_high, -Nat.reduceAdd]
  simp

theorem packI_unpackI (w : DWord) : packI (opField w) (unpackI w) = w := by
  show ((BitVec.extractLsb' 56 8 w ++ BitVec.extractLsb' 52 4 w ++ BitVec.extractLsb' 49 3 w ++ BitVec.extractLsb' 43 6 w ++ BitVec.extractLsb' 37 6 w ++ BitVec.extractLsb' 13 24 w ++ BitVec.extractLsb' 5 8 w ++ BitVec.extractLsb' 0 5 w) : BitVec (8 + 4 + 3 + 6 + 6 + 24 + 8 + 5)) = w
  rw [BitVec.extractLsb'_append_extractLsb'_eq_extractLsb' (by rfl)]
  rw [BitVec.extractLsb'_append_extractLsb'_eq_extractLsb' (by rfl)]
  rw [BitVec.extractLsb'_append_extractLsb'_eq_extractLsb' (by rfl)]
  rw [BitVec.extractLsb'_append_extractLsb'_eq_extractLsb' (by rfl)]
  rw [BitVec.extractLsb'_append_extractLsb'_eq_extractLsb' (by rfl)]
  rw [BitVec.extractLsb'_append_extractLsb'_eq_extractLsb' (by rfl)]
  rw [BitVec.extractLsb'_append_extractLsb'_eq_extractLsb' (by rfl)]
  exact BitVec.extractLsb'_eq_self

theorem unpackL_packL (op : BitVec 8) (f : LFmt) : unpackL (packL op f) = f := by
  show LFmt.mk
    (BitVec.extractLsb' (n := 8 + 4 + 3 + 6 + 6 + 32 + 5) 52 4 (op ++ f.ms ++ f.fe ++ f.d ++ f.a ++ f.imm ++ f.fn))
    (BitVec.extractLsb' (n := 8 + 4 + 3 + 6 + 6 + 32 + 5) 49 3 (op ++ f.ms ++ f.fe ++ f.d ++ f.a ++ f.imm ++ f.fn))
    (BitVec.extractLsb' (n := 8 + 4 + 3 + 6 + 6 + 32 + 5) 43 6 (op ++ f.ms ++ f.fe ++ f.d ++ f.a ++ f.imm ++ f.fn))
    (BitVec.extractLsb' (n := 8 + 4 + 3 + 6 + 6 + 32 + 5) 37 6 (op ++ f.ms ++ f.fe ++ f.d ++ f.a ++ f.imm ++ f.fn))
    (BitVec.extractLsb' (n := 8 + 4 + 3 + 6 + 6 + 32 + 5) 5 32 (op ++ f.ms ++ f.fe ++ f.d ++ f.a ++ f.imm ++ f.fn))
    (BitVec.extractLsb' (n := 8 + 4 + 3 + 6 + 6 + 32 + 5) 0 5 (op ++ f.ms ++ f.fe ++ f.d ++ f.a ++ f.imm ++ f.fn)) = f
  simp (disch := decide) only [field_low, field_high, -Nat.reduceAdd]
  simp

theorem opField_packL (op : BitVec 8) (f : LFmt) : opField (packL op f) = op := by
  show BitVec.extractLsb' (n := 8 + 4 + 3 + 6 + 6 + 32 + 5) 56 8 (op ++ f.ms ++ f.fe ++ f.d ++ f.a ++ f.imm ++ f.fn) = op
  simp (disch := decide) only [field_high, -Nat.reduceAdd]
  simp

theorem packL_unpackL (w : DWord) : packL (opField w) (unpackL w) = w := by
  show ((BitVec.extractLsb' 56 8 w ++ BitVec.extractLsb' 52 4 w ++ BitVec.extractLsb' 49 3 w ++ BitVec.extractLsb' 43 6 w ++ BitVec.extractLsb' 37 6 w ++ BitVec.extractLsb' 5 32 w ++ BitVec.extractLsb' 0 5 w) : BitVec (8 + 4 + 3 + 6 + 6 + 32 + 5)) = w
  rw [BitVec.extractLsb'_append_extractLsb'_eq_extractLsb' (by rfl)]
  rw [BitVec.extractLsb'_append_extractLsb'_eq_extractLsb' (by rfl)]
  rw [BitVec.extractLsb'_append_extractLsb'_eq_extractLsb' (by rfl)]
  rw [BitVec.extractLsb'_append_extractLsb'_eq_extractLsb' (by rfl)]
  rw [BitVec.extractLsb'_append_extractLsb'_eq_extractLsb' (by rfl)]
  rw [BitVec.extractLsb'_append_extractLsb'_eq_extractLsb' (by rfl)]
  exact BitVec.extractLsb'_eq_self

theorem unpackB_packB (op : BitVec 8) (f : BFmt) : unpackB (packB op f) = f := by
  show BFmt.mk
    (BitVec.extractLsb' (n := 8 + 4 + 3 + 6 + 6 + 32 + 5) 52 4 (op ++ f.ms ++ f.fe ++ f.d ++ f.a ++ f.off ++ f.cnd))
    (BitVec.extractLsb' (n := 8 + 4 + 3 + 6 + 6 + 32 + 5) 49 3 (op ++ f.ms ++ f.fe ++ f.d ++ f.a ++ f.off ++ f.cnd))
    (BitVec.extractLsb' (n := 8 + 4 + 3 + 6 + 6 + 32 + 5) 43 6 (op ++ f.ms ++ f.fe ++ f.d ++ f.a ++ f.off ++ f.cnd))
    (BitVec.extractLsb' (n := 8 + 4 + 3 + 6 + 6 + 32 + 5) 37 6 (op ++ f.ms ++ f.fe ++ f.d ++ f.a ++ f.off ++ f.cnd))
    (BitVec.extractLsb' (n := 8 + 4 + 3 + 6 + 6 + 32 + 5) 5 32 (op ++ f.ms ++ f.fe ++ f.d ++ f.a ++ f.off ++ f.cnd))
    (BitVec.extractLsb' (n := 8 + 4 + 3 + 6 + 6 + 32 + 5) 0 5 (op ++ f.ms ++ f.fe ++ f.d ++ f.a ++ f.off ++ f.cnd)) = f
  simp (disch := decide) only [field_low, field_high, -Nat.reduceAdd]
  simp

theorem opField_packB (op : BitVec 8) (f : BFmt) : opField (packB op f) = op := by
  show BitVec.extractLsb' (n := 8 + 4 + 3 + 6 + 6 + 32 + 5) 56 8 (op ++ f.ms ++ f.fe ++ f.d ++ f.a ++ f.off ++ f.cnd) = op
  simp (disch := decide) only [field_high, -Nat.reduceAdd]
  simp

theorem packB_unpackB (w : DWord) : packB (opField w) (unpackB w) = w := by
  show ((BitVec.extractLsb' 56 8 w ++ BitVec.extractLsb' 52 4 w ++ BitVec.extractLsb' 49 3 w ++ BitVec.extractLsb' 43 6 w ++ BitVec.extractLsb' 37 6 w ++ BitVec.extractLsb' 5 32 w ++ BitVec.extractLsb' 0 5 w) : BitVec (8 + 4 + 3 + 6 + 6 + 32 + 5)) = w
  rw [BitVec.extractLsb'_append_extractLsb'_eq_extractLsb' (by rfl)]
  rw [BitVec.extractLsb'_append_extractLsb'_eq_extractLsb' (by rfl)]
  rw [BitVec.extractLsb'_append_extractLsb'_eq_extractLsb' (by rfl)]
  rw [BitVec.extractLsb'_append_extractLsb'_eq_extractLsb' (by rfl)]
  rw [BitVec.extractLsb'_append_extractLsb'_eq_extractLsb' (by rfl)]
  rw [BitVec.extractLsb'_append_extractLsb'_eq_extractLsb' (by rfl)]
  exact BitVec.extractLsb'_eq_self

theorem unpackM_packM (op : BitVec 8) (f : MFmt) : unpackM (packM op f) = f := by
  show MFmt.mk
    (BitVec.extractLsb' (n := 8 + 4 + 3 + 6 + 6 + 6 + 3 + 4 + 3 + 2 + 3 + 16) 52 4 (op ++ f.ms ++ f.fe ++ f.d ++ f.a ++ f.b ++ f.sp ++ f.st ++ f.sc ++ f.ord ++ f.sz ++ f.off))
    (BitVec.extractLsb' (n := 8 + 4 + 3 + 6 + 6 + 6 + 3 + 4 + 3 + 2 + 3 + 16) 49 3 (op ++ f.ms ++ f.fe ++ f.d ++ f.a ++ f.b ++ f.sp ++ f.st ++ f.sc ++ f.ord ++ f.sz ++ f.off))
    (BitVec.extractLsb' (n := 8 + 4 + 3 + 6 + 6 + 6 + 3 + 4 + 3 + 2 + 3 + 16) 43 6 (op ++ f.ms ++ f.fe ++ f.d ++ f.a ++ f.b ++ f.sp ++ f.st ++ f.sc ++ f.ord ++ f.sz ++ f.off))
    (BitVec.extractLsb' (n := 8 + 4 + 3 + 6 + 6 + 6 + 3 + 4 + 3 + 2 + 3 + 16) 37 6 (op ++ f.ms ++ f.fe ++ f.d ++ f.a ++ f.b ++ f.sp ++ f.st ++ f.sc ++ f.ord ++ f.sz ++ f.off))
    (BitVec.extractLsb' (n := 8 + 4 + 3 + 6 + 6 + 6 + 3 + 4 + 3 + 2 + 3 + 16) 31 6 (op ++ f.ms ++ f.fe ++ f.d ++ f.a ++ f.b ++ f.sp ++ f.st ++ f.sc ++ f.ord ++ f.sz ++ f.off))
    (BitVec.extractLsb' (n := 8 + 4 + 3 + 6 + 6 + 6 + 3 + 4 + 3 + 2 + 3 + 16) 28 3 (op ++ f.ms ++ f.fe ++ f.d ++ f.a ++ f.b ++ f.sp ++ f.st ++ f.sc ++ f.ord ++ f.sz ++ f.off))
    (BitVec.extractLsb' (n := 8 + 4 + 3 + 6 + 6 + 6 + 3 + 4 + 3 + 2 + 3 + 16) 24 4 (op ++ f.ms ++ f.fe ++ f.d ++ f.a ++ f.b ++ f.sp ++ f.st ++ f.sc ++ f.ord ++ f.sz ++ f.off))
    (BitVec.extractLsb' (n := 8 + 4 + 3 + 6 + 6 + 6 + 3 + 4 + 3 + 2 + 3 + 16) 21 3 (op ++ f.ms ++ f.fe ++ f.d ++ f.a ++ f.b ++ f.sp ++ f.st ++ f.sc ++ f.ord ++ f.sz ++ f.off))
    (BitVec.extractLsb' (n := 8 + 4 + 3 + 6 + 6 + 6 + 3 + 4 + 3 + 2 + 3 + 16) 19 2 (op ++ f.ms ++ f.fe ++ f.d ++ f.a ++ f.b ++ f.sp ++ f.st ++ f.sc ++ f.ord ++ f.sz ++ f.off))
    (BitVec.extractLsb' (n := 8 + 4 + 3 + 6 + 6 + 6 + 3 + 4 + 3 + 2 + 3 + 16) 16 3 (op ++ f.ms ++ f.fe ++ f.d ++ f.a ++ f.b ++ f.sp ++ f.st ++ f.sc ++ f.ord ++ f.sz ++ f.off))
    (BitVec.extractLsb' (n := 8 + 4 + 3 + 6 + 6 + 6 + 3 + 4 + 3 + 2 + 3 + 16) 0 16 (op ++ f.ms ++ f.fe ++ f.d ++ f.a ++ f.b ++ f.sp ++ f.st ++ f.sc ++ f.ord ++ f.sz ++ f.off)) = f
  simp (disch := decide) only [field_low, field_high, -Nat.reduceAdd]
  simp

theorem opField_packM (op : BitVec 8) (f : MFmt) : opField (packM op f) = op := by
  show BitVec.extractLsb' (n := 8 + 4 + 3 + 6 + 6 + 6 + 3 + 4 + 3 + 2 + 3 + 16) 56 8 (op ++ f.ms ++ f.fe ++ f.d ++ f.a ++ f.b ++ f.sp ++ f.st ++ f.sc ++ f.ord ++ f.sz ++ f.off) = op
  simp (disch := decide) only [field_high, -Nat.reduceAdd]
  simp

theorem packM_unpackM (w : DWord) : packM (opField w) (unpackM w) = w := by
  show ((BitVec.extractLsb' 56 8 w ++ BitVec.extractLsb' 52 4 w ++ BitVec.extractLsb' 49 3 w ++ BitVec.extractLsb' 43 6 w ++ BitVec.extractLsb' 37 6 w ++ BitVec.extractLsb' 31 6 w ++ BitVec.extractLsb' 28 3 w ++ BitVec.extractLsb' 24 4 w ++ BitVec.extractLsb' 21 3 w ++ BitVec.extractLsb' 19 2 w ++ BitVec.extractLsb' 16 3 w ++ BitVec.extractLsb' 0 16 w) : BitVec (8 + 4 + 3 + 6 + 6 + 6 + 3 + 4 + 3 + 2 + 3 + 16)) = w
  rw [BitVec.extractLsb'_append_extractLsb'_eq_extractLsb' (by rfl)]
  rw [BitVec.extractLsb'_append_extractLsb'_eq_extractLsb' (by rfl)]
  rw [BitVec.extractLsb'_append_extractLsb'_eq_extractLsb' (by rfl)]
  rw [BitVec.extractLsb'_append_extractLsb'_eq_extractLsb' (by rfl)]
  rw [BitVec.extractLsb'_append_extractLsb'_eq_extractLsb' (by rfl)]
  rw [BitVec.extractLsb'_append_extractLsb'_eq_extractLsb' (by rfl)]
  rw [BitVec.extractLsb'_append_extractLsb'_eq_extractLsb' (by rfl)]
  rw [BitVec.extractLsb'_append_extractLsb'_eq_extractLsb' (by rfl)]
  rw [BitVec.extractLsb'_append_extractLsb'_eq_extractLsb' (by rfl)]
  rw [BitVec.extractLsb'_append_extractLsb'_eq_extractLsb' (by rfl)]
  rw [BitVec.extractLsb'_append_extractLsb'_eq_extractLsb' (by rfl)]
  exact BitVec.extractLsb'_eq_self

theorem unpackE_packE (op : BitVec 8) (f : EFmt) : unpackE (packE op f) = f := by
  show EFmt.mk
    (BitVec.extractLsb' (n := 8 + 4 + 3 + 6 + 6 + 6 + 6 + 5 + 5 + 5 + 10) 52 4 (op ++ f.ms ++ f.fe ++ f.d ++ f.a ++ f.b ++ f.c ++ f.w0 ++ f.w1 ++ f.w2 ++ f.efn))
    (BitVec.extractLsb' (n := 8 + 4 + 3 + 6 + 6 + 6 + 6 + 5 + 5 + 5 + 10) 49 3 (op ++ f.ms ++ f.fe ++ f.d ++ f.a ++ f.b ++ f.c ++ f.w0 ++ f.w1 ++ f.w2 ++ f.efn))
    (BitVec.extractLsb' (n := 8 + 4 + 3 + 6 + 6 + 6 + 6 + 5 + 5 + 5 + 10) 43 6 (op ++ f.ms ++ f.fe ++ f.d ++ f.a ++ f.b ++ f.c ++ f.w0 ++ f.w1 ++ f.w2 ++ f.efn))
    (BitVec.extractLsb' (n := 8 + 4 + 3 + 6 + 6 + 6 + 6 + 5 + 5 + 5 + 10) 37 6 (op ++ f.ms ++ f.fe ++ f.d ++ f.a ++ f.b ++ f.c ++ f.w0 ++ f.w1 ++ f.w2 ++ f.efn))
    (BitVec.extractLsb' (n := 8 + 4 + 3 + 6 + 6 + 6 + 6 + 5 + 5 + 5 + 10) 31 6 (op ++ f.ms ++ f.fe ++ f.d ++ f.a ++ f.b ++ f.c ++ f.w0 ++ f.w1 ++ f.w2 ++ f.efn))
    (BitVec.extractLsb' (n := 8 + 4 + 3 + 6 + 6 + 6 + 6 + 5 + 5 + 5 + 10) 25 6 (op ++ f.ms ++ f.fe ++ f.d ++ f.a ++ f.b ++ f.c ++ f.w0 ++ f.w1 ++ f.w2 ++ f.efn))
    (BitVec.extractLsb' (n := 8 + 4 + 3 + 6 + 6 + 6 + 6 + 5 + 5 + 5 + 10) 20 5 (op ++ f.ms ++ f.fe ++ f.d ++ f.a ++ f.b ++ f.c ++ f.w0 ++ f.w1 ++ f.w2 ++ f.efn))
    (BitVec.extractLsb' (n := 8 + 4 + 3 + 6 + 6 + 6 + 6 + 5 + 5 + 5 + 10) 15 5 (op ++ f.ms ++ f.fe ++ f.d ++ f.a ++ f.b ++ f.c ++ f.w0 ++ f.w1 ++ f.w2 ++ f.efn))
    (BitVec.extractLsb' (n := 8 + 4 + 3 + 6 + 6 + 6 + 6 + 5 + 5 + 5 + 10) 10 5 (op ++ f.ms ++ f.fe ++ f.d ++ f.a ++ f.b ++ f.c ++ f.w0 ++ f.w1 ++ f.w2 ++ f.efn))
    (BitVec.extractLsb' (n := 8 + 4 + 3 + 6 + 6 + 6 + 6 + 5 + 5 + 5 + 10) 0 10 (op ++ f.ms ++ f.fe ++ f.d ++ f.a ++ f.b ++ f.c ++ f.w0 ++ f.w1 ++ f.w2 ++ f.efn)) = f
  simp (disch := decide) only [field_low, field_high, -Nat.reduceAdd]
  simp

theorem opField_packE (op : BitVec 8) (f : EFmt) : opField (packE op f) = op := by
  show BitVec.extractLsb' (n := 8 + 4 + 3 + 6 + 6 + 6 + 6 + 5 + 5 + 5 + 10) 56 8 (op ++ f.ms ++ f.fe ++ f.d ++ f.a ++ f.b ++ f.c ++ f.w0 ++ f.w1 ++ f.w2 ++ f.efn) = op
  simp (disch := decide) only [field_high, -Nat.reduceAdd]
  simp

theorem packE_unpackE (w : DWord) : packE (opField w) (unpackE w) = w := by
  show ((BitVec.extractLsb' 56 8 w ++ BitVec.extractLsb' 52 4 w ++ BitVec.extractLsb' 49 3 w ++ BitVec.extractLsb' 43 6 w ++ BitVec.extractLsb' 37 6 w ++ BitVec.extractLsb' 31 6 w ++ BitVec.extractLsb' 25 6 w ++ BitVec.extractLsb' 20 5 w ++ BitVec.extractLsb' 15 5 w ++ BitVec.extractLsb' 10 5 w ++ BitVec.extractLsb' 0 10 w) : BitVec (8 + 4 + 3 + 6 + 6 + 6 + 6 + 5 + 5 + 5 + 10)) = w
  rw [BitVec.extractLsb'_append_extractLsb'_eq_extractLsb' (by rfl)]
  rw [BitVec.extractLsb'_append_extractLsb'_eq_extractLsb' (by rfl)]
  rw [BitVec.extractLsb'_append_extractLsb'_eq_extractLsb' (by rfl)]
  rw [BitVec.extractLsb'_append_extractLsb'_eq_extractLsb' (by rfl)]
  rw [BitVec.extractLsb'_append_extractLsb'_eq_extractLsb' (by rfl)]
  rw [BitVec.extractLsb'_append_extractLsb'_eq_extractLsb' (by rfl)]
  rw [BitVec.extractLsb'_append_extractLsb'_eq_extractLsb' (by rfl)]
  rw [BitVec.extractLsb'_append_extractLsb'_eq_extractLsb' (by rfl)]
  rw [BitVec.extractLsb'_append_extractLsb'_eq_extractLsb' (by rfl)]
  rw [BitVec.extractLsb'_append_extractLsb'_eq_extractLsb' (by rfl)]
  exact BitVec.extractLsb'_eq_self

/-- A word decodes to the instruction that its opcode and fields name, where that one is well formed. -/
theorem decode_ok {w : DWord} {i : Instr} : decode w = .ok i ↔ ofWord w = i ∧ i.wellFormed = true := by
  unfold decode Instr.wellFormed
  constructor
  · intro h
    split at h
    · split at h
      · cases h
        simp_all
      · cases h
    · cases h
  · rintro ⟨rfl, h⟩
    simp_all

/-- Bytes of a value give back its low part. -/
theorem fromBytes_toBytes (n v : Nat) : fromBytes (toBytes n v) = v % 256 ^ n := by
  induction n generalizing v with
  | zero => simp [toBytes, fromBytes, Nat.mod_one]
  | succ n ih =>
    have h : 256 ^ (n + 1) = 256 * 256 ^ n := by rw [Nat.pow_succ, Nat.mul_comm]
    simp [toBytes, fromBytes, ih, h, Nat.mod_mul]

/-- The eight bytes of a word decode as the word does. -/
theorem decodeBytes_toBytes (w : DWord) : decodeBytes (toBytes 8 w.toNat) = decode w := by
  unfold decodeBytes
  rw [fromBytes_toBytes, Nat.mod_eq_of_lt (by simpa using w.isLt)]
  simp

end Sys2Proof
end

