-- ==== Sys2Proof/Laws/Sparse.lean ====
section
/-!
SUPPORT. The laws of sparse tables: what a lookup finds after each update, and that updates keep the canonical form.
-/

namespace Sys2Proof.Machine

variable {α : Type}

/-! ## Lookups -/

@[simp] theorem find_nil (k : Nat) : find? k ([] : List (Nat × α)) = none := rfl

theorem find_cons (k j : Nat) (v : α) (t : List (Nat × α)) :
    find? k ((j, v) :: t) = if j = k then some v else find? k t := rfl

@[simp] theorem find_sput_same (k : Nat) (v : α) (m : List (Nat × α)) : find? k (sput k v m) = some v := by
  induction m with
  | nil => simp [sput, find?]
  | cons p t ih =>
    obtain ⟨j, w⟩ := p
    simp only [sput]
    split
    · simp [find?]
    · split <;> simp_all [find?]

theorem find_sput_ne {k j : Nat} (h : j ≠ k) (v : α) (m : List (Nat × α)) : find? j (sput k v m) = find? j m := by
  induction m with
  | nil => simp [sput, find?, Ne.symm h]
  | cons p t ih =>
    obtain ⟨i, w⟩ := p
    simp only [sput]
    split
    · subst_vars; simp [find?, Ne.symm h]
    · split <;> simp_all [find?, Ne.symm h]

@[simp] theorem find_serase_same (k : Nat) (m : List (Nat × α)) : find? k (serase k m) = none := by
  induction m with
  | nil => rfl
  | cons p t ih =>
    obtain ⟨j, w⟩ := p
    by_cases hj : j = k <;> simp_all [serase, find?]

theorem find_serase_ne {k j : Nat} (h : j ≠ k) (m : List (Nat × α)) : find? j (serase k m) = find? j m := by
  induction m with
  | nil => rfl
  | cons p t ih =>
    obtain ⟨i, w⟩ := p
    by_cases hi : i = k
    · subst hi; simp_all [serase, find?, Ne.symm h]
    · simp_all [serase, find?]

@[simp] theorem find_smod_same (k : Nat) (f : α → α) (m : List (Nat × α)) : find? k (smod k f m) = (find? k m).map f := by
  induction m with
  | nil => rfl
  | cons p t ih =>
    obtain ⟨j, w⟩ := p
    by_cases hj : j = k <;> simp_all [smod, find?]

theorem find_smod_ne {k j : Nat} (h : j ≠ k) (f : α → α) (m : List (Nat × α)) : find? j (smod k f m) = find? j m := by
  induction m with
  | nil => rfl
  | cons p t ih =>
    obtain ⟨i, w⟩ := p
    by_cases hi : i = k
    · subst hi; simp_all [smod, find?, Ne.symm h]
    · simp_all [smod, find?]

theorem smod_comm {k j : Nat} (h : j ≠ k) (f g : α → α) (m : List (Nat × α)) :
    smod k f (smod j g m) = smod j g (smod k f m) := by
  simp only [smod, List.map_map]
  refine List.map_congr_left fun p _ => ?_
  by_cases h1 : p.1 = j <;> by_cases h2 : p.1 = k <;> simp_all

theorem find_smod_isSome (k j : Nat) (f : α → α) (m : List (Nat × α)) :
    (find? j (smod k f m)).isSome = (find? j m).isSome := by
  by_cases h : j = k
  · subst h; simp
  · rw [find_smod_ne h]

/-! ## Tables with a default -/

@[simp] theorem sget_sset_same [DecidableEq α] (d : α) (m : List (Nat × α)) (k : Nat) (v : α) :
    sget d (sset d m k v) k = v := by
  unfold sget sset
  split <;> simp_all

theorem sget_sset_ne [DecidableEq α] {k j : Nat} (h : j ≠ k) (d : α) (m : List (Nat × α)) (v : α) :
    sget d (sset d m k v) j = sget d m j := by
  unfold sget sset
  split
  · rw [find_serase_ne h]
  · rw [find_sput_ne h]

theorem sget_sset [DecidableEq α] (d : α) (m : List (Nat × α)) (k j : Nat) (v : α) :
    sget d (sset d m k v) j = if j = k then v else sget d m j := by
  by_cases h : j = k
  · subst h; simp
  · simp [h, sget_sset_ne h]

/-! ## The canonical form -/

theorem keysRise_cons (a : Nat) (l : List Nat) : keysRise (a :: l) = ((l.head?.all (fun b => decide (a < b))) && keysRise l) := by
  cases l <;> simp [keysRise]

theorem keysRise_pairwise (l : List Nat) : keysRise l = true ↔ l.Pairwise (· < ·) := by
  induction l with
  | nil => simp [keysRise]
  | cons a t ih =>
    cases t with
    | nil => simp [keysRise]
    | cons b t =>
      simp only [keysRise, Bool.and_eq_true, decide_eq_true_eq, ih, List.pairwise_cons]
      constructor
      · rintro ⟨hab, hb, ht⟩
        refine ⟨?_, hb, ht⟩
        intro c hc
        rcases List.mem_cons.mp hc with rfl | hc
        · exact hab
        · exact Nat.lt_trans hab (hb c hc)
      · rintro ⟨ha, hb, ht⟩
        exact ⟨ha b (by simp), hb, ht⟩

theorem skeys_serase (k : Nat) (m : List (Nat × α)) : skeys (serase k m) = (skeys m).filter (· != k) := by
  simp [skeys, serase, List.filter_map, Function.comp_def]

theorem mem_skeys_sput {k j : Nat} {v : α} {m : List (Nat × α)} (h : j ∈ skeys (sput k v m)) : j = k ∨ j ∈ skeys m := by
  induction m with
  | nil => simpa [sput, skeys] using h
  | cons p t ih =>
    obtain ⟨i, w⟩ := p
    simp only [sput] at h
    split at h
    · simp_all [skeys]
    · split at h
      · simp_all [skeys]
      · simp only [skeys, List.map_cons, List.mem_cons] at h ih ⊢
        rcases h with h | h
        · simp [h]
        · rcases ih h with h | h <;> simp [h]

theorem keysRise_sput (k : Nat) (v : α) {m : List (Nat × α)} (h : keysRise (skeys m) = true) :
    keysRise (skeys (sput k v m)) = true := by
  rw [keysRise_pairwise] at *
  induction m with
  | nil => simp [sput, skeys]
  | cons p t ih =>
    obtain ⟨i, w⟩ := p
    simp only [skeys, List.map_cons, List.pairwise_cons] at h
    simp only [sput]
    split
    · subst_vars
      simpa [skeys] using h
    · split
      · rename_i hki
        simp only [skeys, List.map_cons, List.pairwise_cons, List.mem_cons]
        refine ⟨?_, h.1, h.2⟩
        rintro c (rfl | hc)
        · exact hki
        · exact Nat.lt_trans hki (h.1 c hc)
      · simp only [skeys, List.map_cons, List.pairwise_cons]
        refine ⟨?_, ih h.2⟩
        intro c hc
        rcases mem_skeys_sput hc with rfl | hc
        · omega
        · exact h.1 c hc

theorem mem_sput {k : Nat} {v : α} {m : List (Nat × α)} {p : Nat × α} (h : p ∈ sput k v m) : p = (k, v) ∨ p ∈ m := by
  induction m with
  | nil => simpa [sput] using h
  | cons q t ih =>
    obtain ⟨i, w⟩ := q
    simp only [sput] at h
    split at h
    · simp only [List.mem_cons] at h ⊢
      rcases h with h | h <;> simp [h]
    · split at h
      · simp only [List.mem_cons] at h ⊢
        rcases h with h | h | h <;> simp [h]
      · simp only [List.mem_cons] at h ⊢
        rcases h with h | h
        · simp [h]
        · rcases ih h with h | h <;> simp [h]

/-- A write into a table with a default keeps the canonical form. -/
theorem canonical_sset [DecidableEq α] (d : α) {m : List (Nat × α)} (k : Nat) (v : α) (h : canonical d m = true) :
    canonical d (sset d m k v) = true := by
  simp only [canonical, Bool.and_eq_true, List.all_eq_true, decide_eq_true_eq] at *
  unfold sset
  split
  · refine ⟨?_, fun p hp => h.2 p (List.mem_filter.mp (show p ∈ m.filter _ from hp)).1⟩
    rw [skeys_serase]
    rw [keysRise_pairwise] at *
    exact h.1.filter _
  · rename_i hv
    refine ⟨keysRise_sput k v h.1, fun p hp => ?_⟩
    rcases mem_sput hp with rfl | hp
    · exact hv
    · exact h.2 p hp

end Sys2Proof.Machine
end

