-- ==== Sys2Proof/Laws/State.lean ====
section
/-!
SUPPORT. The laws of the state record: what each named update leaves in every field and every named record, and
the registers of a thread after a write.
-/

namespace Sys2Proof.Machine

/-! ## onThread -/

@[simp] theorem State.onThread_clock (s : State) (tid : Nat) (f : Thread → Thread) : (s.onThread tid f).clock = s.clock := rfl
@[simp] theorem State.onThread_fresh (s : State) (tid : Nat) (f : Thread → Thread) : (s.onThread tid f).fresh = s.fresh := rfl
@[simp] theorem State.onThread_free (s : State) (tid : Nat) (f : Thread → Thread) : (s.onThread tid f).free = s.free := rfl
@[simp] theorem State.onThread_agenda (s : State) (tid : Nat) (f : Thread → Thread) : (s.onThread tid f).agenda = s.agenda := rfl
@[simp] theorem State.onThread_focus (s : State) (tid : Nat) (f : Thread → Thread) : (s.onThread tid f).focus = s.focus := rfl
@[simp] theorem State.onThread_ev (s : State) (tid : Nat) (f : Thread → Thread) : (s.onThread tid f).ev = s.ev := rfl
@[simp] theorem State.onThread_cur (s : State) (tid : Nat) (f : Thread → Thread) : (s.onThread tid f).cur = s.cur := rfl
@[simp] theorem State.onThread_bands (s : State) (tid : Nat) (f : Thread → Thread) : (s.onThread tid f).bands = s.bands := rfl
@[simp] theorem State.onThread_teams (s : State) (tid : Nat) (f : Thread → Thread) : (s.onThread tid f).teams = s.teams := rfl
@[simp] theorem State.onThread_quarantine (s : State) (tid : Nat) (f : Thread → Thread) : (s.onThread tid f).quarantine = s.quarantine := rfl
@[simp] theorem State.onThread_cores (s : State) (tid : Nat) (f : Thread → Thread) : (s.onThread tid f).cores = s.cores := rfl
@[simp] theorem State.onThread_tiles (s : State) (tid : Nat) (f : Thread → Thread) : (s.onThread tid f).tiles = s.tiles := rfl
@[simp] theorem State.onThread_channels (s : State) (tid : Nat) (f : Thread → Thread) : (s.onThread tid f).channels = s.channels := rfl
@[simp] theorem State.onThread_mem (s : State) (tid : Nat) (f : Thread → Thread) : (s.onThread tid f).mem = s.mem := rfl
@[simp] theorem State.onThread_poison (s : State) (tid : Nat) (f : Thread → Thread) : (s.onThread tid f).poison = s.poison := rfl
@[simp] theorem State.onThread_versions (s : State) (tid : Nat) (f : Thread → Thread) : (s.onThread tid f).versions = s.versions := rfl
@[simp] theorem State.onThread_lost (s : State) (tid : Nat) (f : Thread → Thread) : (s.onThread tid f).lost = s.lost := rfl
@[simp] theorem State.onThread_floors (s : State) (tid : Nat) (f : Thread → Thread) : (s.onThread tid f).floors = s.floors := rfl
@[simp] theorem State.onThread_baseFloors (s : State) (tid : Nat) (f : Thread → Thread) : (s.onThread tid f).baseFloors = s.baseFloors := rfl
@[simp] theorem State.onThread_granules (s : State) (tid : Nat) (f : Thread → Thread) : (s.onThread tid f).granules = s.granules := rfl
@[simp] theorem State.onThread_l2 (s : State) (tid : Nat) (f : Thread → Thread) : (s.onThread tid f).l2 = s.l2 := rfl
@[simp] theorem State.onThread_parts (s : State) (tid : Nat) (f : Thread → Thread) : (s.onThread tid f).parts = s.parts := rfl
@[simp] theorem State.onThread_staging (s : State) (tid : Nat) (f : Thread → Thread) : (s.onThread tid f).staging = s.staging := rfl
@[simp] theorem State.onThread_stagingPoison (s : State) (tid : Nat) (f : Thread → Thread) : (s.onThread tid f).stagingPoison = s.stagingPoison := rfl
@[simp] theorem State.onThread_damage (s : State) (tid : Nat) (f : Thread → Thread) : (s.onThread tid f).damage = s.damage := rfl
@[simp] theorem State.onThread_reqs (s : State) (tid : Nat) (f : Thread → Thread) : (s.onThread tid f).reqs = s.reqs := rfl
@[simp] theorem State.onThread_packets (s : State) (tid : Nat) (f : Thread → Thread) : (s.onThread tid f).packets = s.packets := rfl
@[simp] theorem State.onThread_lates (s : State) (tid : Nat) (f : Thread → Thread) : (s.onThread tid f).lates = s.lates := rfl
@[simp] theorem State.onThread_walkCache (s : State) (tid : Nat) (f : Thread → Thread) : (s.onThread tid f).walkCache = s.walkCache := rfl
@[simp] theorem State.onThread_spaces (s : State) (tid : Nat) (f : Thread → Thread) : (s.onThread tid f).spaces = s.spaces := rfl
@[simp] theorem State.onThread_ctxs (s : State) (tid : Nat) (f : Thread → Thread) : (s.onThread tid f).ctxs = s.ctxs := rfl
@[simp] theorem State.onThread_machineQ (s : State) (tid : Nat) (f : Thread → Thread) : (s.onThread tid f).machineQ = s.machineQ := rfl
@[simp] theorem State.onThread_machineWait (s : State) (tid : Nat) (f : Thread → Thread) : (s.onThread tid f).machineWait = s.machineWait := rfl
@[simp] theorem State.onThread_launches (s : State) (tid : Nat) (f : Thread → Thread) : (s.onThread tid f).launches = s.launches := rfl
@[simp] theorem State.onThread_graphs (s : State) (tid : Nat) (f : Thread → Thread) : (s.onThread tid f).graphs = s.graphs := rfl
@[simp] theorem State.onThread_jobs (s : State) (tid : Nat) (f : Thread → Thread) : (s.onThread tid f).jobs = s.jobs := rfl
@[simp] theorem State.onThread_clusterQ (s : State) (tid : Nat) (f : Thread → Thread) : (s.onThread tid f).clusterQ = s.clusterQ := rfl
@[simp] theorem State.onThread_lastSteal (s : State) (tid : Nat) (f : Thread → Thread) : (s.onThread tid f).lastSteal = s.lastSteal := rfl
@[simp] theorem State.onThread_lastStart (s : State) (tid : Nat) (f : Thread → Thread) : (s.onThread tid f).lastStart = s.lastStart := rfl
@[simp] theorem State.onThread_drawTurn (s : State) (tid : Nat) (f : Thread → Thread) : (s.onThread tid f).drawTurn = s.drawTurn := rfl
@[simp] theorem State.onThread_counts (s : State) (tid : Nat) (f : Thread → Thread) : (s.onThread tid f).counts = s.counts := rfl
@[simp] theorem State.onThread_levels (s : State) (tid : Nat) (f : Thread → Thread) : (s.onThread tid f).levels = s.levels := rfl
@[simp] theorem State.onThread_heldRecs (s : State) (tid : Nat) (f : Thread → Thread) : (s.onThread tid f).heldRecs = s.heldRecs := rfl
@[simp] theorem State.onThread_complFault (s : State) (tid : Nat) (f : Thread → Thread) : (s.onThread tid f).complFault = s.complFault := rfl
@[simp] theorem State.onThread_burrowFault (s : State) (tid : Nat) (f : Thread → Thread) : (s.onThread tid f).burrowFault = s.burrowFault := rfl
@[simp] theorem State.onThread_invq (s : State) (tid : Nat) (f : Thread → Thread) : (s.onThread tid f).invq = s.invq := rfl
@[simp] theorem State.onThread_invNext (s : State) (tid : Nat) (f : Thread → Thread) : (s.onThread tid f).invNext = s.invNext := rfl
@[simp] theorem State.onThread_invseq (s : State) (tid : Nat) (f : Thread → Thread) : (s.onThread tid f).invseq = s.invseq := rfl
@[simp] theorem State.onThread_saves (s : State) (tid : Nat) (f : Thread → Thread) : (s.onThread tid f).saves = s.saves := rfl
@[simp] theorem State.onThread_halts (s : State) (tid : Nat) (f : Thread → Thread) : (s.onThread tid f).halts = s.halts := rfl
@[simp] theorem State.onThread_migrations (s : State) (tid : Nat) (f : Thread → Thread) : (s.onThread tid f).migrations = s.migrations := rfl
@[simp] theorem State.onThread_dies (s : State) (tid : Nat) (f : Thread → Thread) : (s.onThread tid f).dies = s.dies := rfl
@[simp] theorem State.onThread_hbm (s : State) (tid : Nat) (f : Thread → Thread) : (s.onThread tid f).hbm = s.hbm := rfl
@[simp] theorem State.onThread_tests (s : State) (tid : Nat) (f : Thread → Thread) : (s.onThread tid f).tests = s.tests := rfl
@[simp] theorem State.onThread_fallbackFences (s : State) (tid : Nat) (f : Thread → Thread) : (s.onThread tid f).fallbackFences = s.fallbackFences := rfl
@[simp] theorem State.onThread_regions (s : State) (tid : Nat) (f : Thread → Thread) : (s.onThread tid f).regions = s.regions := rfl
@[simp] theorem State.onThread_qpairs (s : State) (tid : Nat) (f : Thread → Thread) : (s.onThread tid f).qpairs = s.qpairs := rfl
@[simp] theorem State.onThread_portTlb (s : State) (tid : Nat) (f : Thread → Thread) : (s.onThread tid f).portTlb = s.portTlb := rfl
@[simp] theorem State.onThread_paused (s : State) (tid : Nat) (f : Thread → Thread) : (s.onThread tid f).paused = s.paused := rfl
@[simp] theorem State.onThread_hostTime (s : State) (tid : Nat) (f : Thread → Thread) : (s.onThread tid f).hostTime = s.hostTime := rfl
@[simp] theorem State.onThread_fabid (s : State) (tid : Nat) (f : Thread → Thread) : (s.onThread tid f).fabid = s.fabid := rfl
@[simp] theorem State.onThread_windows (s : State) (tid : Nat) (f : Thread → Thread) : (s.onThread tid f).windows = s.windows := rfl
@[simp] theorem State.onThread_exports (s : State) (tid : Nat) (f : Thread → Thread) : (s.onThread tid f).exports = s.exports := rfl
@[simp] theorem State.onThread_routes (s : State) (tid : Nat) (f : Thread → Thread) : (s.onThread tid f).routes = s.routes := rfl
@[simp] theorem State.onThread_deadFibres (s : State) (tid : Nat) (f : Thread → Thread) : (s.onThread tid f).deadFibres = s.deadFibres := rfl
@[simp] theorem State.onThread_fibreReplays (s : State) (tid : Nat) (f : Thread → Thread) : (s.onThread tid f).fibreReplays = s.fibreReplays := rfl
@[simp] theorem State.onThread_unreachable (s : State) (tid : Nat) (f : Thread → Thread) : (s.onThread tid f).unreachable = s.unreachable := rfl
@[simp] theorem State.onThread_refused (s : State) (tid : Nat) (f : Thread → Thread) : (s.onThread tid f).refused = s.refused := rfl
@[simp] theorem State.onThread_boot (s : State) (tid : Nat) (f : Thread → Thread) : (s.onThread tid f).boot = s.boot := rfl
@[simp] theorem State.onThread_spdm (s : State) (tid : Nat) (f : Thread → Thread) : (s.onThread tid f).spdm = s.spdm := rfl
@[simp] theorem State.onThread_outs (s : State) (tid : Nat) (f : Thread → Thread) : (s.onThread tid f).outs = s.outs := rfl
@[simp] theorem State.onThread_inbox (s : State) (tid : Nat) (f : Thread → Thread) : (s.onThread tid f).inbox = s.inbox := rfl
@[simp] theorem State.band_onThread (s : State) (tid j : Nat) (f : Thread → Thread) : (s.onThread tid f).band j = s.band j := rfl
@[simp] theorem State.team_onThread (s : State) (tid j : Nat) (f : Thread → Thread) : (s.onThread tid f).team j = s.team j := rfl
@[simp] theorem State.core_onThread (s : State) (tid j : Nat) (f : Thread → Thread) : (s.onThread tid f).core j = s.core j := rfl
@[simp] theorem State.tile_onThread (s : State) (tid j : Nat) (f : Thread → Thread) : (s.onThread tid f).tile j = s.tile j := rfl
@[simp] theorem State.launch_onThread (s : State) (tid j : Nat) (f : Thread → Thread) : (s.onThread tid f).launch j = s.launch j := rfl
@[simp] theorem State.ctx_onThread (s : State) (tid j : Nat) (f : Thread → Thread) : (s.onThread tid f).ctx j = s.ctx j := rfl
@[simp] theorem State.space_onThread (s : State) (tid j : Nat) (f : Thread → Thread) : (s.onThread tid f).space j = s.space j := rfl
@[simp] theorem State.die_onThread (s : State) (tid j : Nat) (f : Thread → Thread) : (s.onThread tid f).die j = s.die j := rfl
@[simp] theorem State.stack_onThread (s : State) (tid j : Nat) (f : Thread → Thread) : (s.onThread tid f).stack j = s.stack j := rfl
theorem State.thread_onThread_same {s : State} {tid : Nat} (h : (find? tid s.threads).isSome = true) (f : Thread → Thread) :
    (s.onThread tid f).thread tid = f (s.thread tid) := by
  obtain ⟨x, hx⟩ := Option.isSome_iff_exists.mp h
  simp [State.thread, State.onThread, hx]
theorem State.thread_onThread_ne {tid j : Nat} (h : j ≠ tid) (s : State) (f : Thread → Thread) : (s.onThread tid f).thread j = s.thread j := by
  simp [State.thread, State.onThread, find_smod_ne h]
@[simp] theorem State.onThread_threads_isSome (s : State) (tid j : Nat) (f : Thread → Thread) :
    (find? j (s.onThread tid f).threads).isSome = (find? j s.threads).isSome := find_smod_isSome tid j f s.threads

/-! ## onBand -/

@[simp] theorem State.onBand_clock (s : State) (bid : Nat) (f : Band → Band) : (s.onBand bid f).clock = s.clock := rfl
@[simp] theorem State.onBand_fresh (s : State) (bid : Nat) (f : Band → Band) : (s.onBand bid f).fresh = s.fresh := rfl
@[simp] theorem State.onBand_free (s : State) (bid : Nat) (f : Band → Band) : (s.onBand bid f).free = s.free := rfl
@[simp] theorem State.onBand_agenda (s : State) (bid : Nat) (f : Band → Band) : (s.onBand bid f).agenda = s.agenda := rfl
@[simp] theorem State.onBand_focus (s : State) (bid : Nat) (f : Band → Band) : (s.onBand bid f).focus = s.focus := rfl
@[simp] theorem State.onBand_ev (s : State) (bid : Nat) (f : Band → Band) : (s.onBand bid f).ev = s.ev := rfl
@[simp] theorem State.onBand_cur (s : State) (bid : Nat) (f : Band → Band) : (s.onBand bid f).cur = s.cur := rfl
@[simp] theorem State.onBand_threads (s : State) (bid : Nat) (f : Band → Band) : (s.onBand bid f).threads = s.threads := rfl
@[simp] theorem State.onBand_teams (s : State) (bid : Nat) (f : Band → Band) : (s.onBand bid f).teams = s.teams := rfl
@[simp] theorem State.onBand_quarantine (s : State) (bid : Nat) (f : Band → Band) : (s.onBand bid f).quarantine = s.quarantine := rfl
@[simp] theorem State.onBand_cores (s : State) (bid : Nat) (f : Band → Band) : (s.onBand bid f).cores = s.cores := rfl
@[simp] theorem State.onBand_tiles (s : State) (bid : Nat) (f : Band → Band) : (s.onBand bid f).tiles = s.tiles := rfl
@[simp] theorem State.onBand_channels (s : State) (bid : Nat) (f : Band → Band) : (s.onBand bid f).channels = s.channels := rfl
@[simp] theorem State.onBand_mem (s : State) (bid : Nat) (f : Band → Band) : (s.onBand bid f).mem = s.mem := rfl
@[simp] theorem State.onBand_poison (s : State) (bid : Nat) (f : Band → Band) : (s.onBand bid f).poison = s.poison := rfl
@[simp] theorem State.onBand_versions (s : State) (bid : Nat) (f : Band → Band) : (s.onBand bid f).versions = s.versions := rfl
@[simp] theorem State.onBand_lost (s : State) (bid : Nat) (f : Band → Band) : (s.onBand bid f).lost = s.lost := rfl
@[simp] theorem State.onBand_floors (s : State) (bid : Nat) (f : Band → Band) : (s.onBand bid f).floors = s.floors := rfl
@[simp] theorem State.onBand_baseFloors (s : State) (bid : Nat) (f : Band → Band) : (s.onBand bid f).baseFloors = s.baseFloors := rfl
@[simp] theorem State.onBand_granules (s : State) (bid : Nat) (f : Band → Band) : (s.onBand bid f).granules = s.granules := rfl
@[simp] theorem State.onBand_l2 (s : State) (bid : Nat) (f : Band → Band) : (s.onBand bid f).l2 = s.l2 := rfl
@[simp] theorem State.onBand_parts (s : State) (bid : Nat) (f : Band → Band) : (s.onBand bid f).parts = s.parts := rfl
@[simp] theorem State.onBand_staging (s : State) (bid : Nat) (f : Band → Band) : (s.onBand bid f).staging = s.staging := rfl
@[simp] theorem State.onBand_stagingPoison (s : State) (bid : Nat) (f : Band → Band) : (s.onBand bid f).stagingPoison = s.stagingPoison := rfl
@[simp] theorem State.onBand_damage (s : State) (bid : Nat) (f : Band → Band) : (s.onBand bid f).damage = s.damage := rfl
@[simp] theorem State.onBand_reqs (s : State) (bid : Nat) (f : Band → Band) : (s.onBand bid f).reqs = s.reqs := rfl
@[simp] theorem State.onBand_packets (s : State) (bid : Nat) (f : Band → Band) : (s.onBand bid f).packets = s.packets := rfl
@[simp] theorem State.onBand_lates (s : State) (bid : Nat) (f : Band → Band) : (s.onBand bid f).lates = s.lates := rfl
@[simp] theorem State.onBand_walkCache (s : State) (bid : Nat) (f : Band → Band) : (s.onBand bid f).walkCache = s.walkCache := rfl
@[simp] theorem State.onBand_spaces (s : State) (bid : Nat) (f : Band → Band) : (s.onBand bid f).spaces = s.spaces := rfl
@[simp] theorem State.onBand_ctxs (s : State) (bid : Nat) (f : Band → Band) : (s.onBand bid f).ctxs = s.ctxs := rfl
@[simp] theorem State.onBand_machineQ (s : State) (bid : Nat) (f : Band → Band) : (s.onBand bid f).machineQ = s.machineQ := rfl
@[simp] theorem State.onBand_machineWait (s : State) (bid : Nat) (f : Band → Band) : (s.onBand bid f).machineWait = s.machineWait := rfl
@[simp] theorem State.onBand_launches (s : State) (bid : Nat) (f : Band → Band) : (s.onBand bid f).launches = s.launches := rfl
@[simp] theorem State.onBand_graphs (s : State) (bid : Nat) (f : Band → Band) : (s.onBand bid f).graphs = s.graphs := rfl
@[simp] theorem State.onBand_jobs (s : State) (bid : Nat) (f : Band → Band) : (s.onBand bid f).jobs = s.jobs := rfl
@[simp] theorem State.onBand_clusterQ (s : State) (bid : Nat) (f : Band → Band) : (s.onBand bid f).clusterQ = s.clusterQ := rfl
@[simp] theorem State.onBand_lastSteal (s : State) (bid : Nat) (f : Band → Band) : (s.onBand bid f).lastSteal = s.lastSteal := rfl
@[simp] theorem State.onBand_lastStart (s : State) (bid : Nat) (f : Band → Band) : (s.onBand bid f).lastStart = s.lastStart := rfl
@[simp] theorem State.onBand_drawTurn (s : State) (bid : Nat) (f : Band → Band) : (s.onBand bid f).drawTurn = s.drawTurn := rfl
@[simp] theorem State.onBand_counts (s : State) (bid : Nat) (f : Band → Band) : (s.onBand bid f).counts = s.counts := rfl
@[simp] theorem State.onBand_levels (s : State) (bid : Nat) (f : Band → Band) : (s.onBand bid f).levels = s.levels := rfl
@[simp] theorem State.onBand_heldRecs (s : State) (bid : Nat) (f : Band → Band) : (s.onBand bid f).heldRecs = s.heldRecs := rfl
@[simp] theorem State.onBand_complFault (s : State) (bid : Nat) (f : Band → Band) : (s.onBand bid f).complFault = s.complFault := rfl
@[simp] theorem State.onBand_burrowFault (s : State) (bid : Nat) (f : Band → Band) : (s.onBand bid f).burrowFault = s.burrowFault := rfl
@[simp] theorem State.onBand_invq (s : State) (bid : Nat) (f : Band → Band) : (s.onBand bid f).invq = s.invq := rfl
@[simp] theorem State.onBand_invNext (s : State) (bid : Nat) (f : Band → Band) : (s.onBand bid f).invNext = s.invNext := rfl
@[simp] theorem State.onBand_invseq (s : State) (bid : Nat) (f : Band → Band) : (s.onBand bid f).invseq = s.invseq := rfl
@[simp] theorem State.onBand_saves (s : State) (bid : Nat) (f : Band → Band) : (s.onBand bid f).saves = s.saves := rfl
@[simp] theorem State.onBand_halts (s : State) (bid : Nat) (f : Band → Band) : (s.onBand bid f).halts = s.halts := rfl
@[simp] theorem State.onBand_migrations (s : State) (bid : Nat) (f : Band → Band) : (s.onBand bid f).migrations = s.migrations := rfl
@[simp] theorem State.onBand_dies (s : State) (bid : Nat) (f : Band → Band) : (s.onBand bid f).dies = s.dies := rfl
@[simp] theorem State.onBand_hbm (s : State) (bid : Nat) (f : Band → Band) : (s.onBand bid f).hbm = s.hbm := rfl
@[simp] theorem State.onBand_tests (s : State) (bid : Nat) (f : Band → Band) : (s.onBand bid f).tests = s.tests := rfl
@[simp] theorem State.onBand_fallbackFences (s : State) (bid : Nat) (f : Band → Band) : (s.onBand bid f).fallbackFences = s.fallbackFences := rfl
@[simp] theorem State.onBand_regions (s : State) (bid : Nat) (f : Band → Band) : (s.onBand bid f).regions = s.regions := rfl
@[simp] theorem State.onBand_qpairs (s : State) (bid : Nat) (f : Band → Band) : (s.onBand bid f).qpairs = s.qpairs := rfl
@[simp] theorem State.onBand_portTlb (s : State) (bid : Nat) (f : Band → Band) : (s.onBand bid f).portTlb = s.portTlb := rfl
@[simp] theorem State.onBand_paused (s : State) (bid : Nat) (f : Band → Band) : (s.onBand bid f).paused = s.paused := rfl
@[simp] theorem State.onBand_hostTime (s : State) (bid : Nat) (f : Band → Band) : (s.onBand bid f).hostTime = s.hostTime := rfl
@[simp] theorem State.onBand_fabid (s : State) (bid : Nat) (f : Band → Band) : (s.onBand bid f).fabid = s.fabid := rfl
@[simp] theorem State.onBand_windows (s : State) (bid : Nat) (f : Band → Band) : (s.onBand bid f).windows = s.windows := rfl
@[simp] theorem State.onBand_exports (s : State) (bid : Nat) (f : Band → Band) : (s.onBand bid f).exports = s.exports := rfl
@[simp] theorem State.onBand_routes (s : State) (bid : Nat) (f : Band → Band) : (s.onBand bid f).routes = s.routes := rfl
@[simp] theorem State.onBand_deadFibres (s : State) (bid : Nat) (f : Band → Band) : (s.onBand bid f).deadFibres = s.deadFibres := rfl
@[simp] theorem State.onBand_fibreReplays (s : State) (bid : Nat) (f : Band → Band) : (s.onBand bid f).fibreReplays = s.fibreReplays := rfl
@[simp] theorem State.onBand_unreachable (s : State) (bid : Nat) (f : Band → Band) : (s.onBand bid f).unreachable = s.unreachable := rfl
@[simp] theorem State.onBand_refused (s : State) (bid : Nat) (f : Band → Band) : (s.onBand bid f).refused = s.refused := rfl
@[simp] theorem State.onBand_boot (s : State) (bid : Nat) (f : Band → Band) : (s.onBand bid f).boot = s.boot := rfl
@[simp] theorem State.onBand_spdm (s : State) (bid : Nat) (f : Band → Band) : (s.onBand bid f).spdm = s.spdm := rfl
@[simp] theorem State.onBand_outs (s : State) (bid : Nat) (f : Band → Band) : (s.onBand bid f).outs = s.outs := rfl
@[simp] theorem State.onBand_inbox (s : State) (bid : Nat) (f : Band → Band) : (s.onBand bid f).inbox = s.inbox := rfl
@[simp] theorem State.thread_onBand (s : State) (bid j : Nat) (f : Band → Band) : (s.onBand bid f).thread j = s.thread j := rfl
@[simp] theorem State.team_onBand (s : State) (bid j : Nat) (f : Band → Band) : (s.onBand bid f).team j = s.team j := rfl
@[simp] theorem State.core_onBand (s : State) (bid j : Nat) (f : Band → Band) : (s.onBand bid f).core j = s.core j := rfl
@[simp] theorem State.tile_onBand (s : State) (bid j : Nat) (f : Band → Band) : (s.onBand bid f).tile j = s.tile j := rfl
@[simp] theorem State.launch_onBand (s : State) (bid j : Nat) (f : Band → Band) : (s.onBand bid f).launch j = s.launch j := rfl
@[simp] theorem State.ctx_onBand (s : State) (bid j : Nat) (f : Band → Band) : (s.onBand bid f).ctx j = s.ctx j := rfl
@[simp] theorem State.space_onBand (s : State) (bid j : Nat) (f : Band → Band) : (s.onBand bid f).space j = s.space j := rfl
@[simp] theorem State.die_onBand (s : State) (bid j : Nat) (f : Band → Band) : (s.onBand bid f).die j = s.die j := rfl
@[simp] theorem State.stack_onBand (s : State) (bid j : Nat) (f : Band → Band) : (s.onBand bid f).stack j = s.stack j := rfl
theorem State.band_onBand_same {s : State} {bid : Nat} (h : (find? bid s.bands).isSome = true) (f : Band → Band) :
    (s.onBand bid f).band bid = f (s.band bid) := by
  obtain ⟨x, hx⟩ := Option.isSome_iff_exists.mp h
  simp [State.band, State.onBand, hx]
theorem State.band_onBand_ne {bid j : Nat} (h : j ≠ bid) (s : State) (f : Band → Band) : (s.onBand bid f).band j = s.band j := by
  simp [State.band, State.onBand, find_smod_ne h]
@[simp] theorem State.onBand_bands_isSome (s : State) (bid j : Nat) (f : Band → Band) :
    (find? j (s.onBand bid f).bands).isSome = (find? j s.bands).isSome := find_smod_isSome bid j f s.bands

/-! ## onTeam -/

@[simp] theorem State.onTeam_clock (s : State) (k : Nat) (f : Team → Team) : (s.onTeam k f).clock = s.clock := rfl
@[simp] theorem State.onTeam_fresh (s : State) (k : Nat) (f : Team → Team) : (s.onTeam k f).fresh = s.fresh := rfl
@[simp] theorem State.onTeam_free (s : State) (k : Nat) (f : Team → Team) : (s.onTeam k f).free = s.free := rfl
@[simp] theorem State.onTeam_agenda (s : State) (k : Nat) (f : Team → Team) : (s.onTeam k f).agenda = s.agenda := rfl
@[simp] theorem State.onTeam_focus (s : State) (k : Nat) (f : Team → Team) : (s.onTeam k f).focus = s.focus := rfl
@[simp] theorem State.onTeam_ev (s : State) (k : Nat) (f : Team → Team) : (s.onTeam k f).ev = s.ev := rfl
@[simp] theorem State.onTeam_cur (s : State) (k : Nat) (f : Team → Team) : (s.onTeam k f).cur = s.cur := rfl
@[simp] theorem State.onTeam_threads (s : State) (k : Nat) (f : Team → Team) : (s.onTeam k f).threads = s.threads := rfl
@[simp] theorem State.onTeam_bands (s : State) (k : Nat) (f : Team → Team) : (s.onTeam k f).bands = s.bands := rfl
@[simp] theorem State.onTeam_quarantine (s : State) (k : Nat) (f : Team → Team) : (s.onTeam k f).quarantine = s.quarantine := rfl
@[simp] theorem State.onTeam_cores (s : State) (k : Nat) (f : Team → Team) : (s.onTeam k f).cores = s.cores := rfl
@[simp] theorem State.onTeam_tiles (s : State) (k : Nat) (f : Team → Team) : (s.onTeam k f).tiles = s.tiles := rfl
@[simp] theorem State.onTeam_channels (s : State) (k : Nat) (f : Team → Team) : (s.onTeam k f).channels = s.channels := rfl
@[simp] theorem State.onTeam_mem (s : State) (k : Nat) (f : Team → Team) : (s.onTeam k f).mem = s.mem := rfl
@[simp] theorem State.onTeam_poison (s : State) (k : Nat) (f : Team → Team) : (s.onTeam k f).poison = s.poison := rfl
@[simp] theorem State.onTeam_versions (s : State) (k : Nat) (f : Team → Team) : (s.onTeam k f).versions = s.versions := rfl
@[simp] theorem State.onTeam_lost (s : State) (k : Nat) (f : Team → Team) : (s.onTeam k f).lost = s.lost := rfl
@[simp] theorem State.onTeam_floors (s : State) (k : Nat) (f : Team → Team) : (s.onTeam k f).floors = s.floors := rfl
@[simp] theorem State.onTeam_baseFloors (s : State) (k : Nat) (f : Team → Team) : (s.onTeam k f).baseFloors = s.baseFloors := rfl
@[simp] theorem State.onTeam_granules (s : State) (k : Nat) (f : Team → Team) : (s.onTeam k f).granules = s.granules := rfl
@[simp] theorem State.onTeam_l2 (s : State) (k : Nat) (f : Team → Team) : (s.onTeam k f).l2 = s.l2 := rfl
@[simp] theorem State.onTeam_parts (s : State) (k : Nat) (f : Team → Team) : (s.onTeam k f).parts = s.parts := rfl
@[simp] theorem State.onTeam_staging (s : State) (k : Nat) (f : Team → Team) : (s.onTeam k f).staging = s.staging := rfl
@[simp] theorem State.onTeam_stagingPoison (s : State) (k : Nat) (f : Team → Team) : (s.onTeam k f).stagingPoison = s.stagingPoison := rfl
@[simp] theorem State.onTeam_damage (s : State) (k : Nat) (f : Team → Team) : (s.onTeam k f).damage = s.damage := rfl
@[simp] theorem State.onTeam_reqs (s : State) (k : Nat) (f : Team → Team) : (s.onTeam k f).reqs = s.reqs := rfl
@[simp] theorem State.onTeam_packets (s : State) (k : Nat) (f : Team → Team) : (s.onTeam k f).packets = s.packets := rfl
@[simp] theorem State.onTeam_lates (s : State) (k : Nat) (f : Team → Team) : (s.onTeam k f).lates = s.lates := rfl
@[simp] theorem State.onTeam_walkCache (s : State) (k : Nat) (f : Team → Team) : (s.onTeam k f).walkCache = s.walkCache := rfl
@[simp] theorem State.onTeam_spaces (s : State) (k : Nat) (f : Team → Team) : (s.onTeam k f).spaces = s.spaces := rfl
@[simp] theorem State.onTeam_ctxs (s : State) (k : Nat) (f : Team → Team) : (s.onTeam k f).ctxs = s.ctxs := rfl
@[simp] theorem State.onTeam_machineQ (s : State) (k : Nat) (f : Team → Team) : (s.onTeam k f).machineQ = s.machineQ := rfl
@[simp] theorem State.onTeam_machineWait (s : State) (k : Nat) (f : Team → Team) : (s.onTeam k f).machineWait = s.machineWait := rfl
@[simp] theorem State.onTeam_launches (s : State) (k : Nat) (f : Team → Team) : (s.onTeam k f).launches = s.launches := rfl
@[simp] theorem State.onTeam_graphs (s : State) (k : Nat) (f : Team → Team) : (s.onTeam k f).graphs = s.graphs := rfl
@[simp] theorem State.onTeam_jobs (s : State) (k : Nat) (f : Team → Team) : (s.onTeam k f).jobs = s.jobs := rfl
@[simp] theorem State.onTeam_clusterQ (s : State) (k : Nat) (f : Team → Team) : (s.onTeam k f).clusterQ = s.clusterQ := rfl
@[simp] theorem State.onTeam_lastSteal (s : State) (k : Nat) (f : Team → Team) : (s.onTeam k f).lastSteal = s.lastSteal := rfl
@[simp] theorem State.onTeam_lastStart (s : State) (k : Nat) (f : Team → Team) : (s.onTeam k f).lastStart = s.lastStart := rfl
@[simp] theorem State.onTeam_drawTurn (s : State) (k : Nat) (f : Team → Team) : (s.onTeam k f).drawTurn = s.drawTurn := rfl
@[simp] theorem State.onTeam_counts (s : State) (k : Nat) (f : Team → Team) : (s.onTeam k f).counts = s.counts := rfl
@[simp] theorem State.onTeam_levels (s : State) (k : Nat) (f : Team → Team) : (s.onTeam k f).levels = s.levels := rfl
@[simp] theorem State.onTeam_heldRecs (s : State) (k : Nat) (f : Team → Team) : (s.onTeam k f).heldRecs = s.heldRecs := rfl
@[simp] theorem State.onTeam_complFault (s : State) (k : Nat) (f : Team → Team) : (s.onTeam k f).complFault = s.complFault := rfl
@[simp] theorem State.onTeam_burrowFault (s : State) (k : Nat) (f : Team → Team) : (s.onTeam k f).burrowFault = s.burrowFault := rfl
@[simp] theorem State.onTeam_invq (s : State) (k : Nat) (f : Team → Team) : (s.onTeam k f).invq = s.invq := rfl
@[simp] theorem State.onTeam_invNext (s : State) (k : Nat) (f : Team → Team) : (s.onTeam k f).invNext = s.invNext := rfl
@[simp] theorem State.onTeam_invseq (s : State) (k : Nat) (f : Team → Team) : (s.onTeam k f).invseq = s.invseq := rfl
@[simp] theorem State.onTeam_saves (s : State) (k : Nat) (f : Team → Team) : (s.onTeam k f).saves = s.saves := rfl
@[simp] theorem State.onTeam_halts (s : State) (k : Nat) (f : Team → Team) : (s.onTeam k f).halts = s.halts := rfl
@[simp] theorem State.onTeam_migrations (s : State) (k : Nat) (f : Team → Team) : (s.onTeam k f).migrations = s.migrations := rfl
@[simp] theorem State.onTeam_dies (s : State) (k : Nat) (f : Team → Team) : (s.onTeam k f).dies = s.dies := rfl
@[simp] theorem State.onTeam_hbm (s : State) (k : Nat) (f : Team → Team) : (s.onTeam k f).hbm = s.hbm := rfl
@[simp] theorem State.onTeam_tests (s : State) (k : Nat) (f : Team → Team) : (s.onTeam k f).tests = s.tests := rfl
@[simp] theorem State.onTeam_fallbackFences (s : State) (k : Nat) (f : Team → Team) : (s.onTeam k f).fallbackFences = s.fallbackFences := rfl
@[simp] theorem State.onTeam_regions (s : State) (k : Nat) (f : Team → Team) : (s.onTeam k f).regions = s.regions := rfl
@[simp] theorem State.onTeam_qpairs (s : State) (k : Nat) (f : Team → Team) : (s.onTeam k f).qpairs = s.qpairs := rfl
@[simp] theorem State.onTeam_portTlb (s : State) (k : Nat) (f : Team → Team) : (s.onTeam k f).portTlb = s.portTlb := rfl
@[simp] theorem State.onTeam_paused (s : State) (k : Nat) (f : Team → Team) : (s.onTeam k f).paused = s.paused := rfl
@[simp] theorem State.onTeam_hostTime (s : State) (k : Nat) (f : Team → Team) : (s.onTeam k f).hostTime = s.hostTime := rfl
@[simp] theorem State.onTeam_fabid (s : State) (k : Nat) (f : Team → Team) : (s.onTeam k f).fabid = s.fabid := rfl
@[simp] theorem State.onTeam_windows (s : State) (k : Nat) (f : Team → Team) : (s.onTeam k f).windows = s.windows := rfl
@[simp] theorem State.onTeam_exports (s : State) (k : Nat) (f : Team → Team) : (s.onTeam k f).exports = s.exports := rfl
@[simp] theorem State.onTeam_routes (s : State) (k : Nat) (f : Team → Team) : (s.onTeam k f).routes = s.routes := rfl
@[simp] theorem State.onTeam_deadFibres (s : State) (k : Nat) (f : Team → Team) : (s.onTeam k f).deadFibres = s.deadFibres := rfl
@[simp] theorem State.onTeam_fibreReplays (s : State) (k : Nat) (f : Team → Team) : (s.onTeam k f).fibreReplays = s.fibreReplays := rfl
@[simp] theorem State.onTeam_unreachable (s : State) (k : Nat) (f : Team → Team) : (s.onTeam k f).unreachable = s.unreachable := rfl
@[simp] theorem State.onTeam_refused (s : State) (k : Nat) (f : Team → Team) : (s.onTeam k f).refused = s.refused := rfl
@[simp] theorem State.onTeam_boot (s : State) (k : Nat) (f : Team → Team) : (s.onTeam k f).boot = s.boot := rfl
@[simp] theorem State.onTeam_spdm (s : State) (k : Nat) (f : Team → Team) : (s.onTeam k f).spdm = s.spdm := rfl
@[simp] theorem State.onTeam_outs (s : State) (k : Nat) (f : Team → Team) : (s.onTeam k f).outs = s.outs := rfl
@[simp] theorem State.onTeam_inbox (s : State) (k : Nat) (f : Team → Team) : (s.onTeam k f).inbox = s.inbox := rfl
@[simp] theorem State.thread_onTeam (s : State) (k j : Nat) (f : Team → Team) : (s.onTeam k f).thread j = s.thread j := rfl
@[simp] theorem State.band_onTeam (s : State) (k j : Nat) (f : Team → Team) : (s.onTeam k f).band j = s.band j := rfl
@[simp] theorem State.core_onTeam (s : State) (k j : Nat) (f : Team → Team) : (s.onTeam k f).core j = s.core j := rfl
@[simp] theorem State.tile_onTeam (s : State) (k j : Nat) (f : Team → Team) : (s.onTeam k f).tile j = s.tile j := rfl
@[simp] theorem State.launch_onTeam (s : State) (k j : Nat) (f : Team → Team) : (s.onTeam k f).launch j = s.launch j := rfl
@[simp] theorem State.ctx_onTeam (s : State) (k j : Nat) (f : Team → Team) : (s.onTeam k f).ctx j = s.ctx j := rfl
@[simp] theorem State.space_onTeam (s : State) (k j : Nat) (f : Team → Team) : (s.onTeam k f).space j = s.space j := rfl
@[simp] theorem State.die_onTeam (s : State) (k j : Nat) (f : Team → Team) : (s.onTeam k f).die j = s.die j := rfl
@[simp] theorem State.stack_onTeam (s : State) (k j : Nat) (f : Team → Team) : (s.onTeam k f).stack j = s.stack j := rfl
theorem State.team_onTeam_same {s : State} {k : Nat} (h : (find? k s.teams).isSome = true) (f : Team → Team) :
    (s.onTeam k f).team k = f (s.team k) := by
  obtain ⟨x, hx⟩ := Option.isSome_iff_exists.mp h
  simp [State.team, State.onTeam, hx]
theorem State.team_onTeam_ne {k j : Nat} (h : j ≠ k) (s : State) (f : Team → Team) : (s.onTeam k f).team j = s.team j := by
  simp [State.team, State.onTeam, find_smod_ne h]
@[simp] theorem State.onTeam_teams_isSome (s : State) (k j : Nat) (f : Team → Team) :
    (find? j (s.onTeam k f).teams).isSome = (find? j s.teams).isSome := find_smod_isSome k j f s.teams

/-! ## onCore -/

@[simp] theorem State.onCore_clock (s : State) (u : Nat) (f : Core → Core) : (s.onCore u f).clock = s.clock := rfl
@[simp] theorem State.onCore_fresh (s : State) (u : Nat) (f : Core → Core) : (s.onCore u f).fresh = s.fresh := rfl
@[simp] theorem State.onCore_free (s : State) (u : Nat) (f : Core → Core) : (s.onCore u f).free = s.free := rfl
@[simp] theorem State.onCore_agenda (s : State) (u : Nat) (f : Core → Core) : (s.onCore u f).agenda = s.agenda := rfl
@[simp] theorem State.onCore_focus (s : State) (u : Nat) (f : Core → Core) : (s.onCore u f).focus = s.focus := rfl
@[simp] theorem State.onCore_ev (s : State) (u : Nat) (f : Core → Core) : (s.onCore u f).ev = s.ev := rfl
@[simp] theorem State.onCore_cur (s : State) (u : Nat) (f : Core → Core) : (s.onCore u f).cur = s.cur := rfl
@[simp] theorem State.onCore_threads (s : State) (u : Nat) (f : Core → Core) : (s.onCore u f).threads = s.threads := rfl
@[simp] theorem State.onCore_bands (s : State) (u : Nat) (f : Core → Core) : (s.onCore u f).bands = s.bands := rfl
@[simp] theorem State.onCore_teams (s : State) (u : Nat) (f : Core → Core) : (s.onCore u f).teams = s.teams := rfl
@[simp] theorem State.onCore_quarantine (s : State) (u : Nat) (f : Core → Core) : (s.onCore u f).quarantine = s.quarantine := rfl
@[simp] theorem State.onCore_tiles (s : State) (u : Nat) (f : Core → Core) : (s.onCore u f).tiles = s.tiles := rfl
@[simp] theorem State.onCore_channels (s : State) (u : Nat) (f : Core → Core) : (s.onCore u f).channels = s.channels := rfl
@[simp] theorem State.onCore_mem (s : State) (u : Nat) (f : Core → Core) : (s.onCore u f).mem = s.mem := rfl
@[simp] theorem State.onCore_poison (s : State) (u : Nat) (f : Core → Core) : (s.onCore u f).poison = s.poison := rfl
@[simp] theorem State.onCore_versions (s : State) (u : Nat) (f : Core → Core) : (s.onCore u f).versions = s.versions := rfl
@[simp] theorem State.onCore_lost (s : State) (u : Nat) (f : Core → Core) : (s.onCore u f).lost = s.lost := rfl
@[simp] theorem State.onCore_floors (s : State) (u : Nat) (f : Core → Core) : (s.onCore u f).floors = s.floors := rfl
@[simp] theorem State.onCore_baseFloors (s : State) (u : Nat) (f : Core → Core) : (s.onCore u f).baseFloors = s.baseFloors := rfl
@[simp] theorem State.onCore_granules (s : State) (u : Nat) (f : Core → Core) : (s.onCore u f).granules = s.granules := rfl
@[simp] theorem State.onCore_l2 (s : State) (u : Nat) (f : Core → Core) : (s.onCore u f).l2 = s.l2 := rfl
@[simp] theorem State.onCore_parts (s : State) (u : Nat) (f : Core → Core) : (s.onCore u f).parts = s.parts := rfl
@[simp] theorem State.onCore_staging (s : State) (u : Nat) (f : Core → Core) : (s.onCore u f).staging = s.staging := rfl
@[simp] theorem State.onCore_stagingPoison (s : State) (u : Nat) (f : Core → Core) : (s.onCore u f).stagingPoison = s.stagingPoison := rfl
@[simp] theorem State.onCore_damage (s : State) (u : Nat) (f : Core → Core) : (s.onCore u f).damage = s.damage := rfl
@[simp] theorem State.onCore_reqs (s : State) (u : Nat) (f : Core → Core) : (s.onCore u f).reqs = s.reqs := rfl
@[simp] theorem State.onCore_packets (s : State) (u : Nat) (f : Core → Core) : (s.onCore u f).packets = s.packets := rfl
@[simp] theorem State.onCore_lates (s : State) (u : Nat) (f : Core → Core) : (s.onCore u f).lates = s.lates := rfl
@[simp] theorem State.onCore_walkCache (s : State) (u : Nat) (f : Core → Core) : (s.onCore u f).walkCache = s.walkCache := rfl
@[simp] theorem State.onCore_spaces (s : State) (u : Nat) (f : Core → Core) : (s.onCore u f).spaces = s.spaces := rfl
@[simp] theorem State.onCore_ctxs (s : State) (u : Nat) (f : Core → Core) : (s.onCore u f).ctxs = s.ctxs := rfl
@[simp] theorem State.onCore_machineQ (s : State) (u : Nat) (f : Core → Core) : (s.onCore u f).machineQ = s.machineQ := rfl
@[simp] theorem State.onCore_machineWait (s : State) (u : Nat) (f : Core → Core) : (s.onCore u f).machineWait = s.machineWait := rfl
@[simp] theorem State.onCore_launches (s : State) (u : Nat) (f : Core → Core) : (s.onCore u f).launches = s.launches := rfl
@[simp] theorem State.onCore_graphs (s : State) (u : Nat) (f : Core → Core) : (s.onCore u f).graphs = s.graphs := rfl
@[simp] theorem State.onCore_jobs (s : State) (u : Nat) (f : Core → Core) : (s.onCore u f).jobs = s.jobs := rfl
@[simp] theorem State.onCore_clusterQ (s : State) (u : Nat) (f : Core → Core) : (s.onCore u f).clusterQ = s.clusterQ := rfl
@[simp] theorem State.onCore_lastSteal (s : State) (u : Nat) (f : Core → Core) : (s.onCore u f).lastSteal = s.lastSteal := rfl
@[simp] theorem State.onCore_lastStart (s : State) (u : Nat) (f : Core → Core) : (s.onCore u f).lastStart = s.lastStart := rfl
@[simp] theorem State.onCore_drawTurn (s : State) (u : Nat) (f : Core → Core) : (s.onCore u f).drawTurn = s.drawTurn := rfl
@[simp] theorem State.onCore_counts (s : State) (u : Nat) (f : Core → Core) : (s.onCore u f).counts = s.counts := rfl
@[simp] theorem State.onCore_levels (s : State) (u : Nat) (f : Core → Core) : (s.onCore u f).levels = s.levels := rfl
@[simp] theorem State.onCore_heldRecs (s : State) (u : Nat) (f : Core → Core) : (s.onCore u f).heldRecs = s.heldRecs := rfl
@[simp] theorem State.onCore_complFault (s : State) (u : Nat) (f : Core → Core) : (s.onCore u f).complFault = s.complFault := rfl
@[simp] theorem State.onCore_burrowFault (s : State) (u : Nat) (f : Core → Core) : (s.onCore u f).burrowFault = s.burrowFault := rfl
@[simp] theorem State.onCore_invq (s : State) (u : Nat) (f : Core → Core) : (s.onCore u f).invq = s.invq := rfl
@[simp] theorem State.onCore_invNext (s : State) (u : Nat) (f : Core → Core) : (s.onCore u f).invNext = s.invNext := rfl
@[simp] theorem State.onCore_invseq (s : State) (u : Nat) (f : Core → Core) : (s.onCore u f).invseq = s.invseq := rfl
@[simp] theorem State.onCore_saves (s : State) (u : Nat) (f : Core → Core) : (s.onCore u f).saves = s.saves := rfl
@[simp] theorem State.onCore_halts (s : State) (u : Nat) (f : Core → Core) : (s.onCore u f).halts = s.halts := rfl
@[simp] theorem State.onCore_migrations (s : State) (u : Nat) (f : Core → Core) : (s.onCore u f).migrations = s.migrations := rfl
@[simp] theorem State.onCore_dies (s : State) (u : Nat) (f : Core → Core) : (s.onCore u f).dies = s.dies := rfl
@[simp] theorem State.onCore_hbm (s : State) (u : Nat) (f : Core → Core) : (s.onCore u f).hbm = s.hbm := rfl
@[simp] theorem State.onCore_tests (s : State) (u : Nat) (f : Core → Core) : (s.onCore u f).tests = s.tests := rfl
@[simp] theorem State.onCore_fallbackFences (s : State) (u : Nat) (f : Core → Core) : (s.onCore u f).fallbackFences = s.fallbackFences := rfl
@[simp] theorem State.onCore_regions (s : State) (u : Nat) (f : Core → Core) : (s.onCore u f).regions = s.regions := rfl
@[simp] theorem State.onCore_qpairs (s : State) (u : Nat) (f : Core → Core) : (s.onCore u f).qpairs = s.qpairs := rfl
@[simp] theorem State.onCore_portTlb (s : State) (u : Nat) (f : Core → Core) : (s.onCore u f).portTlb = s.portTlb := rfl
@[simp] theorem State.onCore_paused (s : State) (u : Nat) (f : Core → Core) : (s.onCore u f).paused = s.paused := rfl
@[simp] theorem State.onCore_hostTime (s : State) (u : Nat) (f : Core → Core) : (s.onCore u f).hostTime = s.hostTime := rfl
@[simp] theorem State.onCore_fabid (s : State) (u : Nat) (f : Core → Core) : (s.onCore u f).fabid = s.fabid := rfl
@[simp] theorem State.onCore_windows (s : State) (u : Nat) (f : Core → Core) : (s.onCore u f).windows = s.windows := rfl
@[simp] theorem State.onCore_exports (s : State) (u : Nat) (f : Core → Core) : (s.onCore u f).exports = s.exports := rfl
@[simp] theorem State.onCore_routes (s : State) (u : Nat) (f : Core → Core) : (s.onCore u f).routes = s.routes := rfl
@[simp] theorem State.onCore_deadFibres (s : State) (u : Nat) (f : Core → Core) : (s.onCore u f).deadFibres = s.deadFibres := rfl
@[simp] theorem State.onCore_fibreReplays (s : State) (u : Nat) (f : Core → Core) : (s.onCore u f).fibreReplays = s.fibreReplays := rfl
@[simp] theorem State.onCore_unreachable (s : State) (u : Nat) (f : Core → Core) : (s.onCore u f).unreachable = s.unreachable := rfl
@[simp] theorem State.onCore_refused (s : State) (u : Nat) (f : Core → Core) : (s.onCore u f).refused = s.refused := rfl
@[simp] theorem State.onCore_boot (s : State) (u : Nat) (f : Core → Core) : (s.onCore u f).boot = s.boot := rfl
@[simp] theorem State.onCore_spdm (s : State) (u : Nat) (f : Core → Core) : (s.onCore u f).spdm = s.spdm := rfl
@[simp] theorem State.onCore_outs (s : State) (u : Nat) (f : Core → Core) : (s.onCore u f).outs = s.outs := rfl
@[simp] theorem State.onCore_inbox (s : State) (u : Nat) (f : Core → Core) : (s.onCore u f).inbox = s.inbox := rfl
@[simp] theorem State.thread_onCore (s : State) (u j : Nat) (f : Core → Core) : (s.onCore u f).thread j = s.thread j := rfl
@[simp] theorem State.band_onCore (s : State) (u j : Nat) (f : Core → Core) : (s.onCore u f).band j = s.band j := rfl
@[simp] theorem State.team_onCore (s : State) (u j : Nat) (f : Core → Core) : (s.onCore u f).team j = s.team j := rfl
@[simp] theorem State.tile_onCore (s : State) (u j : Nat) (f : Core → Core) : (s.onCore u f).tile j = s.tile j := rfl
@[simp] theorem State.launch_onCore (s : State) (u j : Nat) (f : Core → Core) : (s.onCore u f).launch j = s.launch j := rfl
@[simp] theorem State.ctx_onCore (s : State) (u j : Nat) (f : Core → Core) : (s.onCore u f).ctx j = s.ctx j := rfl
@[simp] theorem State.space_onCore (s : State) (u j : Nat) (f : Core → Core) : (s.onCore u f).space j = s.space j := rfl
@[simp] theorem State.die_onCore (s : State) (u j : Nat) (f : Core → Core) : (s.onCore u f).die j = s.die j := rfl
@[simp] theorem State.stack_onCore (s : State) (u j : Nat) (f : Core → Core) : (s.onCore u f).stack j = s.stack j := rfl
@[simp] theorem State.core_onCore_same (s : State) (u : Nat) (f : Core → Core) : (s.onCore u f).core u = f (s.core u) := by
  simp [State.core, State.onCore]
theorem State.core_onCore_ne {u j : Nat} (h : j ≠ u) (s : State) (f : Core → Core) : (s.onCore u f).core j = s.core j := by
  simp [State.core, State.onCore, find_sput_ne h]

/-! ## onTile -/

@[simp] theorem State.onTile_clock (s : State) (u : Nat) (f : Tile → Tile) : (s.onTile u f).clock = s.clock := rfl
@[simp] theorem State.onTile_fresh (s : State) (u : Nat) (f : Tile → Tile) : (s.onTile u f).fresh = s.fresh := rfl
@[simp] theorem State.onTile_free (s : State) (u : Nat) (f : Tile → Tile) : (s.onTile u f).free = s.free := rfl
@[simp] theorem State.onTile_agenda (s : State) (u : Nat) (f : Tile → Tile) : (s.onTile u f).agenda = s.agenda := rfl
@[simp] theorem State.onTile_focus (s : State) (u : Nat) (f : Tile → Tile) : (s.onTile u f).focus = s.focus := rfl
@[simp] theorem State.onTile_ev (s : State) (u : Nat) (f : Tile → Tile) : (s.onTile u f).ev = s.ev := rfl
@[simp] theorem State.onTile_cur (s : State) (u : Nat) (f : Tile → Tile) : (s.onTile u f).cur = s.cur := rfl
@[simp] theorem State.onTile_threads (s : State) (u : Nat) (f : Tile → Tile) : (s.onTile u f).threads = s.threads := rfl
@[simp] theorem State.onTile_bands (s : State) (u : Nat) (f : Tile → Tile) : (s.onTile u f).bands = s.bands := rfl
@[simp] theorem State.onTile_teams (s : State) (u : Nat) (f : Tile → Tile) : (s.onTile u f).teams = s.teams := rfl
@[simp] theorem State.onTile_quarantine (s : State) (u : Nat) (f : Tile → Tile) : (s.onTile u f).quarantine = s.quarantine := rfl
@[simp] theorem State.onTile_cores (s : State) (u : Nat) (f : Tile → Tile) : (s.onTile u f).cores = s.cores := rfl
@[simp] theorem State.onTile_channels (s : State) (u : Nat) (f : Tile → Tile) : (s.onTile u f).channels = s.channels := rfl
@[simp] theorem State.onTile_mem (s : State) (u : Nat) (f : Tile → Tile) : (s.onTile u f).mem = s.mem := rfl
@[simp] theorem State.onTile_poison (s : State) (u : Nat) (f : Tile → Tile) : (s.onTile u f).poison = s.poison := rfl
@[simp] theorem State.onTile_versions (s : State) (u : Nat) (f : Tile → Tile) : (s.onTile u f).versions = s.versions := rfl
@[simp] theorem State.onTile_lost (s : State) (u : Nat) (f : Tile → Tile) : (s.onTile u f).lost = s.lost := rfl
@[simp] theorem State.onTile_floors (s : State) (u : Nat) (f : Tile → Tile) : (s.onTile u f).floors = s.floors := rfl
@[simp] theorem State.onTile_baseFloors (s : State) (u : Nat) (f : Tile → Tile) : (s.onTile u f).baseFloors = s.baseFloors := rfl
@[simp] theorem State.onTile_granules (s : State) (u : Nat) (f : Tile → Tile) : (s.onTile u f).granules = s.granules := rfl
@[simp] theorem State.onTile_l2 (s : State) (u : Nat) (f : Tile → Tile) : (s.onTile u f).l2 = s.l2 := rfl
@[simp] theorem State.onTile_parts (s : State) (u : Nat) (f : Tile → Tile) : (s.onTile u f).parts = s.parts := rfl
@[simp] theorem State.onTile_staging (s : State) (u : Nat) (f : Tile → Tile) : (s.onTile u f).staging = s.staging := rfl
@[simp] theorem State.onTile_stagingPoison (s : State) (u : Nat) (f : Tile → Tile) : (s.onTile u f).stagingPoison = s.stagingPoison := rfl
@[simp] theorem State.onTile_damage (s : State) (u : Nat) (f : Tile → Tile) : (s.onTile u f).damage = s.damage := rfl
@[simp] theorem State.onTile_reqs (s : State) (u : Nat) (f : Tile → Tile) : (s.onTile u f).reqs = s.reqs := rfl
@[simp] theorem State.onTile_packets (s : State) (u : Nat) (f : Tile → Tile) : (s.onTile u f).packets = s.packets := rfl
@[simp] theorem State.onTile_lates (s : State) (u : Nat) (f : Tile → Tile) : (s.onTile u f).lates = s.lates := rfl
@[simp] theorem State.onTile_walkCache (s : State) (u : Nat) (f : Tile → Tile) : (s.onTile u f).walkCache = s.walkCache := rfl
@[simp] theorem State.onTile_spaces (s : State) (u : Nat) (f : Tile → Tile) : (s.onTile u f).spaces = s.spaces := rfl
@[simp] theorem State.onTile_ctxs (s : State) (u : Nat) (f : Tile → Tile) : (s.onTile u f).ctxs = s.ctxs := rfl
@[simp] theorem State.onTile_machineQ (s : State) (u : Nat) (f : Tile → Tile) : (s.onTile u f).machineQ = s.machineQ := rfl
@[simp] theorem State.onTile_machineWait (s : State) (u : Nat) (f : Tile → Tile) : (s.onTile u f).machineWait = s.machineWait := rfl
@[simp] theorem State.onTile_launches (s : State) (u : Nat) (f : Tile → Tile) : (s.onTile u f).launches = s.launches := rfl
@[simp] theorem State.onTile_graphs (s : State) (u : Nat) (f : Tile → Tile) : (s.onTile u f).graphs = s.graphs := rfl
@[simp] theorem State.onTile_jobs (s : State) (u : Nat) (f : Tile → Tile) : (s.onTile u f).jobs = s.jobs := rfl
@[simp] theorem State.onTile_clusterQ (s : State) (u : Nat) (f : Tile → Tile) : (s.onTile u f).clusterQ = s.clusterQ := rfl
@[simp] theorem State.onTile_lastSteal (s : State) (u : Nat) (f : Tile → Tile) : (s.onTile u f).lastSteal = s.lastSteal := rfl
@[simp] theorem State.onTile_lastStart (s : State) (u : Nat) (f : Tile → Tile) : (s.onTile u f).lastStart = s.lastStart := rfl
@[simp] theorem State.onTile_drawTurn (s : State) (u : Nat) (f : Tile → Tile) : (s.onTile u f).drawTurn = s.drawTurn := rfl
@[simp] theorem State.onTile_counts (s : State) (u : Nat) (f : Tile → Tile) : (s.onTile u f).counts = s.counts := rfl
@[simp] theorem State.onTile_levels (s : State) (u : Nat) (f : Tile → Tile) : (s.onTile u f).levels = s.levels := rfl
@[simp] theorem State.onTile_heldRecs (s : State) (u : Nat) (f : Tile → Tile) : (s.onTile u f).heldRecs = s.heldRecs := rfl
@[simp] theorem State.onTile_complFault (s : State) (u : Nat) (f : Tile → Tile) : (s.onTile u f).complFault = s.complFault := rfl
@[simp] theorem State.onTile_burrowFault (s : State) (u : Nat) (f : Tile → Tile) : (s.onTile u f).burrowFault = s.burrowFault := rfl
@[simp] theorem State.onTile_invq (s : State) (u : Nat) (f : Tile → Tile) : (s.onTile u f).invq = s.invq := rfl
@[simp] theorem State.onTile_invNext (s : State) (u : Nat) (f : Tile → Tile) : (s.onTile u f).invNext = s.invNext := rfl
@[simp] theorem State.onTile_invseq (s : State) (u : Nat) (f : Tile → Tile) : (s.onTile u f).invseq = s.invseq := rfl
@[simp] theorem State.onTile_saves (s : State) (u : Nat) (f : Tile → Tile) : (s.onTile u f).saves = s.saves := rfl
@[simp] theorem State.onTile_halts (s : State) (u : Nat) (f : Tile → Tile) : (s.onTile u f).halts = s.halts := rfl
@[simp] theorem State.onTile_migrations (s : State) (u : Nat) (f : Tile → Tile) : (s.onTile u f).migrations = s.migrations := rfl
@[simp] theorem State.onTile_dies (s : State) (u : Nat) (f : Tile → Tile) : (s.onTile u f).dies = s.dies := rfl
@[simp] theorem State.onTile_hbm (s : State) (u : Nat) (f : Tile → Tile) : (s.onTile u f).hbm = s.hbm := rfl
@[simp] theorem State.onTile_tests (s : State) (u : Nat) (f : Tile → Tile) : (s.onTile u f).tests = s.tests := rfl
@[simp] theorem State.onTile_fallbackFences (s : State) (u : Nat) (f : Tile → Tile) : (s.onTile u f).fallbackFences = s.fallbackFences := rfl
@[simp] theorem State.onTile_regions (s : State) (u : Nat) (f : Tile → Tile) : (s.onTile u f).regions = s.regions := rfl
@[simp] theorem State.onTile_qpairs (s : State) (u : Nat) (f : Tile → Tile) : (s.onTile u f).qpairs = s.qpairs := rfl
@[simp] theorem State.onTile_portTlb (s : State) (u : Nat) (f : Tile → Tile) : (s.onTile u f).portTlb = s.portTlb := rfl
@[simp] theorem State.onTile_paused (s : State) (u : Nat) (f : Tile → Tile) : (s.onTile u f).paused = s.paused := rfl
@[simp] theorem State.onTile_hostTime (s : State) (u : Nat) (f : Tile → Tile) : (s.onTile u f).hostTime = s.hostTime := rfl
@[simp] theorem State.onTile_fabid (s : State) (u : Nat) (f : Tile → Tile) : (s.onTile u f).fabid = s.fabid := rfl
@[simp] theorem State.onTile_windows (s : State) (u : Nat) (f : Tile → Tile) : (s.onTile u f).windows = s.windows := rfl
@[simp] theorem State.onTile_exports (s : State) (u : Nat) (f : Tile → Tile) : (s.onTile u f).exports = s.exports := rfl
@[simp] theorem State.onTile_routes (s : State) (u : Nat) (f : Tile → Tile) : (s.onTile u f).routes = s.routes := rfl
@[simp] theorem State.onTile_deadFibres (s : State) (u : Nat) (f : Tile → Tile) : (s.onTile u f).deadFibres = s.deadFibres := rfl
@[simp] theorem State.onTile_fibreReplays (s : State) (u : Nat) (f : Tile → Tile) : (s.onTile u f).fibreReplays = s.fibreReplays := rfl
@[simp] theorem State.onTile_unreachable (s : State) (u : Nat) (f : Tile → Tile) : (s.onTile u f).unreachable = s.unreachable := rfl
@[simp] theorem State.onTile_refused (s : State) (u : Nat) (f : Tile → Tile) : (s.onTile u f).refused = s.refused := rfl
@[simp] theorem State.onTile_boot (s : State) (u : Nat) (f : Tile → Tile) : (s.onTile u f).boot = s.boot := rfl
@[simp] theorem State.onTile_spdm (s : State) (u : Nat) (f : Tile → Tile) : (s.onTile u f).spdm = s.spdm := rfl
@[simp] theorem State.onTile_outs (s : State) (u : Nat) (f : Tile → Tile) : (s.onTile u f).outs = s.outs := rfl
@[simp] theorem State.onTile_inbox (s : State) (u : Nat) (f : Tile → Tile) : (s.onTile u f).inbox = s.inbox := rfl
@[simp] theorem State.thread_onTile (s : State) (u j : Nat) (f : Tile → Tile) : (s.onTile u f).thread j = s.thread j := rfl
@[simp] theorem State.band_onTile (s : State) (u j : Nat) (f : Tile → Tile) : (s.onTile u f).band j = s.band j := rfl
@[simp] theorem State.team_onTile (s : State) (u j : Nat) (f : Tile → Tile) : (s.onTile u f).team j = s.team j := rfl
@[simp] theorem State.core_onTile (s : State) (u j : Nat) (f : Tile → Tile) : (s.onTile u f).core j = s.core j := rfl
@[simp] theorem State.launch_onTile (s : State) (u j : Nat) (f : Tile → Tile) : (s.onTile u f).launch j = s.launch j := rfl
@[simp] theorem State.ctx_onTile (s : State) (u j : Nat) (f : Tile → Tile) : (s.onTile u f).ctx j = s.ctx j := rfl
@[simp] theorem State.space_onTile (s : State) (u j : Nat) (f : Tile → Tile) : (s.onTile u f).space j = s.space j := rfl
@[simp] theorem State.die_onTile (s : State) (u j : Nat) (f : Tile → Tile) : (s.onTile u f).die j = s.die j := rfl
@[simp] theorem State.stack_onTile (s : State) (u j : Nat) (f : Tile → Tile) : (s.onTile u f).stack j = s.stack j := rfl
@[simp] theorem State.tile_onTile_same (s : State) (u : Nat) (f : Tile → Tile) : (s.onTile u f).tile u = f (s.tile u) := by
  simp [State.tile, State.onTile]
theorem State.tile_onTile_ne {u j : Nat} (h : j ≠ u) (s : State) (f : Tile → Tile) : (s.onTile u f).tile j = s.tile j := by
  simp [State.tile, State.onTile, find_sput_ne h]

/-! ## onLaunch -/

@[simp] theorem State.onLaunch_clock (s : State) (lid : Nat) (f : Launch → Launch) : (s.onLaunch lid f).clock = s.clock := rfl
@[simp] theorem State.onLaunch_fresh (s : State) (lid : Nat) (f : Launch → Launch) : (s.onLaunch lid f).fresh = s.fresh := rfl
@[simp] theorem State.onLaunch_free (s : State) (lid : Nat) (f : Launch → Launch) : (s.onLaunch lid f).free = s.free := rfl
@[simp] theorem State.onLaunch_agenda (s : State) (lid : Nat) (f : Launch → Launch) : (s.onLaunch lid f).agenda = s.agenda := rfl
@[simp] theorem State.onLaunch_focus (s : State) (lid : Nat) (f : Launch → Launch) : (s.onLaunch lid f).focus = s.focus := rfl
@[simp] theorem State.onLaunch_ev (s : State) (lid : Nat) (f : Launch → Launch) : (s.onLaunch lid f).ev = s.ev := rfl
@[simp] theorem State.onLaunch_cur (s : State) (lid : Nat) (f : Launch → Launch) : (s.onLaunch lid f).cur = s.cur := rfl
@[simp] theorem State.onLaunch_threads (s : State) (lid : Nat) (f : Launch → Launch) : (s.onLaunch lid f).threads = s.threads := rfl
@[simp] theorem State.onLaunch_bands (s : State) (lid : Nat) (f : Launch → Launch) : (s.onLaunch lid f).bands = s.bands := rfl
@[simp] theorem State.onLaunch_teams (s : State) (lid : Nat) (f : Launch → Launch) : (s.onLaunch lid f).teams = s.teams := rfl
@[simp] theorem State.onLaunch_quarantine (s : State) (lid : Nat) (f : Launch → Launch) : (s.onLaunch lid f).quarantine = s.quarantine := rfl
@[simp] theorem State.onLaunch_cores (s : State) (lid : Nat) (f : Launch → Launch) : (s.onLaunch lid f).cores = s.cores := rfl
@[simp] theorem State.onLaunch_tiles (s : State) (lid : Nat) (f : Launch → Launch) : (s.onLaunch lid f).tiles = s.tiles := rfl
@[simp] theorem State.onLaunch_channels (s : State) (lid : Nat) (f : Launch → Launch) : (s.onLaunch lid f).channels = s.channels := rfl
@[simp] theorem State.onLaunch_mem (s : State) (lid : Nat) (f : Launch → Launch) : (s.onLaunch lid f).mem = s.mem := rfl
@[simp] theorem State.onLaunch_poison (s : State) (lid : Nat) (f : Launch → Launch) : (s.onLaunch lid f).poison = s.poison := rfl
@[simp] theorem State.onLaunch_versions (s : State) (lid : Nat) (f : Launch → Launch) : (s.onLaunch lid f).versions = s.versions := rfl
@[simp] theorem State.onLaunch_lost (s : State) (lid : Nat) (f : Launch → Launch) : (s.onLaunch lid f).lost = s.lost := rfl
@[simp] theorem State.onLaunch_floors (s : State) (lid : Nat) (f : Launch → Launch) : (s.onLaunch lid f).floors = s.floors := rfl
@[simp] theorem State.onLaunch_baseFloors (s : State) (lid : Nat) (f : Launch → Launch) : (s.onLaunch lid f).baseFloors = s.baseFloors := rfl
@[simp] theorem State.onLaunch_granules (s : State) (lid : Nat) (f : Launch → Launch) : (s.onLaunch lid f).granules = s.granules := rfl
@[simp] theorem State.onLaunch_l2 (s : State) (lid : Nat) (f : Launch → Launch) : (s.onLaunch lid f).l2 = s.l2 := rfl
@[simp] theorem State.onLaunch_parts (s : State) (lid : Nat) (f : Launch → Launch) : (s.onLaunch lid f).parts = s.parts := rfl
@[simp] theorem State.onLaunch_staging (s : State) (lid : Nat) (f : Launch → Launch) : (s.onLaunch lid f).staging = s.staging := rfl
@[simp] theorem State.onLaunch_stagingPoison (s : State) (lid : Nat) (f : Launch → Launch) : (s.onLaunch lid f).stagingPoison = s.stagingPoison := rfl
@[simp] theorem State.onLaunch_damage (s : State) (lid : Nat) (f : Launch → Launch) : (s.onLaunch lid f).damage = s.damage := rfl
@[simp] theorem State.onLaunch_reqs (s : State) (lid : Nat) (f : Launch → Launch) : (s.onLaunch lid f).reqs = s.reqs := rfl
@[simp] theorem State.onLaunch_packets (s : State) (lid : Nat) (f : Launch → Launch) : (s.onLaunch lid f).packets = s.packets := rfl
@[simp] theorem State.onLaunch_lates (s : State) (lid : Nat) (f : Launch → Launch) : (s.onLaunch lid f).lates = s.lates := rfl
@[simp] theorem State.onLaunch_walkCache (s : State) (lid : Nat) (f : Launch → Launch) : (s.onLaunch lid f).walkCache = s.walkCache := rfl
@[simp] theorem State.onLaunch_spaces (s : State) (lid : Nat) (f : Launch → Launch) : (s.onLaunch lid f).spaces = s.spaces := rfl
@[simp] theorem State.onLaunch_ctxs (s : State) (lid : Nat) (f : Launch → Launch) : (s.onLaunch lid f).ctxs = s.ctxs := rfl
@[simp] theorem State.onLaunch_machineQ (s : State) (lid : Nat) (f : Launch → Launch) : (s.onLaunch lid f).machineQ = s.machineQ := rfl
@[simp] theorem State.onLaunch_machineWait (s : State) (lid : Nat) (f : Launch → Launch) : (s.onLaunch lid f).machineWait = s.machineWait := rfl
@[simp] theorem State.onLaunch_graphs (s : State) (lid : Nat) (f : Launch → Launch) : (s.onLaunch lid f).graphs = s.graphs := rfl
@[simp] theorem State.onLaunch_jobs (s : State) (lid : Nat) (f : Launch → Launch) : (s.onLaunch lid f).jobs = s.jobs := rfl
@[simp] theorem State.onLaunch_clusterQ (s : State) (lid : Nat) (f : Launch → Launch) : (s.onLaunch lid f).clusterQ = s.clusterQ := rfl
@[simp] theorem State.onLaunch_lastSteal (s : State) (lid : Nat) (f : Launch → Launch) : (s.onLaunch lid f).lastSteal = s.lastSteal := rfl
@[simp] theorem State.onLaunch_lastStart (s : State) (lid : Nat) (f : Launch → Launch) : (s.onLaunch lid f).lastStart = s.lastStart := rfl
@[simp] theorem State.onLaunch_drawTurn (s : State) (lid : Nat) (f : Launch → Launch) : (s.onLaunch lid f).drawTurn = s.drawTurn := rfl
@[simp] theorem State.onLaunch_counts (s : State) (lid : Nat) (f : Launch → Launch) : (s.onLaunch lid f).counts = s.counts := rfl
@[simp] theorem State.onLaunch_levels (s : State) (lid : Nat) (f : Launch → Launch) : (s.onLaunch lid f).levels = s.levels := rfl
@[simp] theorem State.onLaunch_heldRecs (s : State) (lid : Nat) (f : Launch → Launch) : (s.onLaunch lid f).heldRecs = s.heldRecs := rfl
@[simp] theorem State.onLaunch_complFault (s : State) (lid : Nat) (f : Launch → Launch) : (s.onLaunch lid f).complFault = s.complFault := rfl
@[simp] theorem State.onLaunch_burrowFault (s : State) (lid : Nat) (f : Launch → Launch) : (s.onLaunch lid f).burrowFault = s.burrowFault := rfl
@[simp] theorem State.onLaunch_invq (s : State) (lid : Nat) (f : Launch → Launch) : (s.onLaunch lid f).invq = s.invq := rfl
@[simp] theorem State.onLaunch_invNext (s : State) (lid : Nat) (f : Launch → Launch) : (s.onLaunch lid f).invNext = s.invNext := rfl
@[simp] theorem State.onLaunch_invseq (s : State) (lid : Nat) (f : Launch → Launch) : (s.onLaunch lid f).invseq = s.invseq := rfl
@[simp] theorem State.onLaunch_saves (s : State) (lid : Nat) (f : Launch → Launch) : (s.onLaunch lid f).saves = s.saves := rfl
@[simp] theorem State.onLaunch_halts (s : State) (lid : Nat) (f : Launch → Launch) : (s.onLaunch lid f).halts = s.halts := rfl
@[simp] theorem State.onLaunch_migrations (s : State) (lid : Nat) (f : Launch → Launch) : (s.onLaunch lid f).migrations = s.migrations := rfl
@[simp] theorem State.onLaunch_dies (s : State) (lid : Nat) (f : Launch → Launch) : (s.onLaunch lid f).dies = s.dies := rfl
@[simp] theorem State.onLaunch_hbm (s : State) (lid : Nat) (f : Launch → Launch) : (s.onLaunch lid f).hbm = s.hbm := rfl
@[simp] theorem State.onLaunch_tests (s : State) (lid : Nat) (f : Launch → Launch) : (s.onLaunch lid f).tests = s.tests := rfl
@[simp] theorem State.onLaunch_fallbackFences (s : State) (lid : Nat) (f : Launch → Launch) : (s.onLaunch lid f).fallbackFences = s.fallbackFences := rfl
@[simp] theorem State.onLaunch_regions (s : State) (lid : Nat) (f : Launch → Launch) : (s.onLaunch lid f).regions = s.regions := rfl
@[simp] theorem State.onLaunch_qpairs (s : State) (lid : Nat) (f : Launch → Launch) : (s.onLaunch lid f).qpairs = s.qpairs := rfl
@[simp] theorem State.onLaunch_portTlb (s : State) (lid : Nat) (f : Launch → Launch) : (s.onLaunch lid f).portTlb = s.portTlb := rfl
@[simp] theorem State.onLaunch_paused (s : State) (lid : Nat) (f : Launch → Launch) : (s.onLaunch lid f).paused = s.paused := rfl
@[simp] theorem State.onLaunch_hostTime (s : State) (lid : Nat) (f : Launch → Launch) : (s.onLaunch lid f).hostTime = s.hostTime := rfl
@[simp] theorem State.onLaunch_fabid (s : State) (lid : Nat) (f : Launch → Launch) : (s.onLaunch lid f).fabid = s.fabid := rfl
@[simp] theorem State.onLaunch_windows (s : State) (lid : Nat) (f : Launch → Launch) : (s.onLaunch lid f).windows = s.windows := rfl
@[simp] theorem State.onLaunch_exports (s : State) (lid : Nat) (f : Launch → Launch) : (s.onLaunch lid f).exports = s.exports := rfl
@[simp] theorem State.onLaunch_routes (s : State) (lid : Nat) (f : Launch → Launch) : (s.onLaunch lid f).routes = s.routes := rfl
@[simp] theorem State.onLaunch_deadFibres (s : State) (lid : Nat) (f : Launch → Launch) : (s.onLaunch lid f).deadFibres = s.deadFibres := rfl
@[simp] theorem State.onLaunch_fibreReplays (s : State) (lid : Nat) (f : Launch → Launch) : (s.onLaunch lid f).fibreReplays = s.fibreReplays := rfl
@[simp] theorem State.onLaunch_unreachable (s : State) (lid : Nat) (f : Launch → Launch) : (s.onLaunch lid f).unreachable = s.unreachable := rfl
@[simp] theorem State.onLaunch_refused (s : State) (lid : Nat) (f : Launch → Launch) : (s.onLaunch lid f).refused = s.refused := rfl
@[simp] theorem State.onLaunch_boot (s : State) (lid : Nat) (f : Launch → Launch) : (s.onLaunch lid f).boot = s.boot := rfl
@[simp] theorem State.onLaunch_spdm (s : State) (lid : Nat) (f : Launch → Launch) : (s.onLaunch lid f).spdm = s.spdm := rfl
@[simp] theorem State.onLaunch_outs (s : State) (lid : Nat) (f : Launch → Launch) : (s.onLaunch lid f).outs = s.outs := rfl
@[simp] theorem State.onLaunch_inbox (s : State) (lid : Nat) (f : Launch → Launch) : (s.onLaunch lid f).inbox = s.inbox := rfl
@[simp] theorem State.thread_onLaunch (s : State) (lid j : Nat) (f : Launch → Launch) : (s.onLaunch lid f).thread j = s.thread j := rfl
@[simp] theorem State.band_onLaunch (s : State) (lid j : Nat) (f : Launch → Launch) : (s.onLaunch lid f).band j = s.band j := rfl
@[simp] theorem State.team_onLaunch (s : State) (lid j : Nat) (f : Launch → Launch) : (s.onLaunch lid f).team j = s.team j := rfl
@[simp] theorem State.core_onLaunch (s : State) (lid j : Nat) (f : Launch → Launch) : (s.onLaunch lid f).core j = s.core j := rfl
@[simp] theorem State.tile_onLaunch (s : State) (lid j : Nat) (f : Launch → Launch) : (s.onLaunch lid f).tile j = s.tile j := rfl
@[simp] theorem State.ctx_onLaunch (s : State) (lid j : Nat) (f : Launch → Launch) : (s.onLaunch lid f).ctx j = s.ctx j := rfl
@[simp] theorem State.space_onLaunch (s : State) (lid j : Nat) (f : Launch → Launch) : (s.onLaunch lid f).space j = s.space j := rfl
@[simp] theorem State.die_onLaunch (s : State) (lid j : Nat) (f : Launch → Launch) : (s.onLaunch lid f).die j = s.die j := rfl
@[simp] theorem State.stack_onLaunch (s : State) (lid j : Nat) (f : Launch → Launch) : (s.onLaunch lid f).stack j = s.stack j := rfl
theorem State.launch_onLaunch_same {s : State} {lid : Nat} (h : (find? lid s.launches).isSome = true) (f : Launch → Launch) :
    (s.onLaunch lid f).launch lid = f (s.launch lid) := by
  obtain ⟨x, hx⟩ := Option.isSome_iff_exists.mp h
  simp [State.launch, State.onLaunch, hx]
theorem State.launch_onLaunch_ne {lid j : Nat} (h : j ≠ lid) (s : State) (f : Launch → Launch) : (s.onLaunch lid f).launch j = s.launch j := by
  simp [State.launch, State.onLaunch, find_smod_ne h]
@[simp] theorem State.onLaunch_launches_isSome (s : State) (lid j : Nat) (f : Launch → Launch) :
    (find? j (s.onLaunch lid f).launches).isSome = (find? j s.launches).isSome := find_smod_isSome lid j f s.launches

/-! ## onCtx -/

@[simp] theorem State.onCtx_clock (s : State) (c : Nat) (f : Ctx → Ctx) : (s.onCtx c f).clock = s.clock := rfl
@[simp] theorem State.onCtx_fresh (s : State) (c : Nat) (f : Ctx → Ctx) : (s.onCtx c f).fresh = s.fresh := rfl
@[simp] theorem State.onCtx_free (s : State) (c : Nat) (f : Ctx → Ctx) : (s.onCtx c f).free = s.free := rfl
@[simp] theorem State.onCtx_agenda (s : State) (c : Nat) (f : Ctx → Ctx) : (s.onCtx c f).agenda = s.agenda := rfl
@[simp] theorem State.onCtx_focus (s : State) (c : Nat) (f : Ctx → Ctx) : (s.onCtx c f).focus = s.focus := rfl
@[simp] theorem State.onCtx_ev (s : State) (c : Nat) (f : Ctx → Ctx) : (s.onCtx c f).ev = s.ev := rfl
@[simp] theorem State.onCtx_cur (s : State) (c : Nat) (f : Ctx → Ctx) : (s.onCtx c f).cur = s.cur := rfl
@[simp] theorem State.onCtx_threads (s : State) (c : Nat) (f : Ctx → Ctx) : (s.onCtx c f).threads = s.threads := rfl
@[simp] theorem State.onCtx_bands (s : State) (c : Nat) (f : Ctx → Ctx) : (s.onCtx c f).bands = s.bands := rfl
@[simp] theorem State.onCtx_teams (s : State) (c : Nat) (f : Ctx → Ctx) : (s.onCtx c f).teams = s.teams := rfl
@[simp] theorem State.onCtx_quarantine (s : State) (c : Nat) (f : Ctx → Ctx) : (s.onCtx c f).quarantine = s.quarantine := rfl
@[simp] theorem State.onCtx_cores (s : State) (c : Nat) (f : Ctx → Ctx) : (s.onCtx c f).cores = s.cores := rfl
@[simp] theorem State.onCtx_tiles (s : State) (c : Nat) (f : Ctx → Ctx) : (s.onCtx c f).tiles = s.tiles := rfl
@[simp] theorem State.onCtx_channels (s : State) (c : Nat) (f : Ctx → Ctx) : (s.onCtx c f).channels = s.channels := rfl
@[simp] theorem State.onCtx_mem (s : State) (c : Nat) (f : Ctx → Ctx) : (s.onCtx c f).mem = s.mem := rfl
@[simp] theorem State.onCtx_poison (s : State) (c : Nat) (f : Ctx → Ctx) : (s.onCtx c f).poison = s.poison := rfl
@[simp] theorem State.onCtx_versions (s : State) (c : Nat) (f : Ctx → Ctx) : (s.onCtx c f).versions = s.versions := rfl
@[simp] theorem State.onCtx_lost (s : State) (c : Nat) (f : Ctx → Ctx) : (s.onCtx c f).lost = s.lost := rfl
@[simp] theorem State.onCtx_floors (s : State) (c : Nat) (f : Ctx → Ctx) : (s.onCtx c f).floors = s.floors := rfl
@[simp] theorem State.onCtx_baseFloors (s : State) (c : Nat) (f : Ctx → Ctx) : (s.onCtx c f).baseFloors = s.baseFloors := rfl
@[simp] theorem State.onCtx_granules (s : State) (c : Nat) (f : Ctx → Ctx) : (s.onCtx c f).granules = s.granules := rfl
@[simp] theorem State.onCtx_l2 (s : State) (c : Nat) (f : Ctx → Ctx) : (s.onCtx c f).l2 = s.l2 := rfl
@[simp] theorem State.onCtx_parts (s : State) (c : Nat) (f : Ctx → Ctx) : (s.onCtx c f).parts = s.parts := rfl
@[simp] theorem State.onCtx_staging (s : State) (c : Nat) (f : Ctx → Ctx) : (s.onCtx c f).staging = s.staging := rfl
@[simp] theorem State.onCtx_stagingPoison (s : State) (c : Nat) (f : Ctx → Ctx) : (s.onCtx c f).stagingPoison = s.stagingPoison := rfl
@[simp] theorem State.onCtx_damage (s : State) (c : Nat) (f : Ctx → Ctx) : (s.onCtx c f).damage = s.damage := rfl
@[simp] theorem State.onCtx_reqs (s : State) (c : Nat) (f : Ctx → Ctx) : (s.onCtx c f).reqs = s.reqs := rfl
@[simp] theorem State.onCtx_packets (s : State) (c : Nat) (f : Ctx → Ctx) : (s.onCtx c f).packets = s.packets := rfl
@[simp] theorem State.onCtx_lates (s : State) (c : Nat) (f : Ctx → Ctx) : (s.onCtx c f).lates = s.lates := rfl
@[simp] theorem State.onCtx_walkCache (s : State) (c : Nat) (f : Ctx → Ctx) : (s.onCtx c f).walkCache = s.walkCache := rfl
@[simp] theorem State.onCtx_spaces (s : State) (c : Nat) (f : Ctx → Ctx) : (s.onCtx c f).spaces = s.spaces := rfl
@[simp] theorem State.onCtx_machineQ (s : State) (c : Nat) (f : Ctx → Ctx) : (s.onCtx c f).machineQ = s.machineQ := rfl
@[simp] theorem State.onCtx_machineWait (s : State) (c : Nat) (f : Ctx → Ctx) : (s.onCtx c f).machineWait = s.machineWait := rfl
@[simp] theorem State.onCtx_launches (s : State) (c : Nat) (f : Ctx → Ctx) : (s.onCtx c f).launches = s.launches := rfl
@[simp] theorem State.onCtx_graphs (s : State) (c : Nat) (f : Ctx → Ctx) : (s.onCtx c f).graphs = s.graphs := rfl
@[simp] theorem State.onCtx_jobs (s : State) (c : Nat) (f : Ctx → Ctx) : (s.onCtx c f).jobs = s.jobs := rfl
@[simp] theorem State.onCtx_clusterQ (s : State) (c : Nat) (f : Ctx → Ctx) : (s.onCtx c f).clusterQ = s.clusterQ := rfl
@[simp] theorem State.onCtx_lastSteal (s : State) (c : Nat) (f : Ctx → Ctx) : (s.onCtx c f).lastSteal = s.lastSteal := rfl
@[simp] theorem State.onCtx_lastStart (s : State) (c : Nat) (f : Ctx → Ctx) : (s.onCtx c f).lastStart = s.lastStart := rfl
@[simp] theorem State.onCtx_drawTurn (s : State) (c : Nat) (f : Ctx → Ctx) : (s.onCtx c f).drawTurn = s.drawTurn := rfl
@[simp] theorem State.onCtx_counts (s : State) (c : Nat) (f : Ctx → Ctx) : (s.onCtx c f).counts = s.counts := rfl
@[simp] theorem State.onCtx_levels (s : State) (c : Nat) (f : Ctx → Ctx) : (s.onCtx c f).levels = s.levels := rfl
@[simp] theorem State.onCtx_heldRecs (s : State) (c : Nat) (f : Ctx → Ctx) : (s.onCtx c f).heldRecs = s.heldRecs := rfl
@[simp] theorem State.onCtx_complFault (s : State) (c : Nat) (f : Ctx → Ctx) : (s.onCtx c f).complFault = s.complFault := rfl
@[simp] theorem State.onCtx_burrowFault (s : State) (c : Nat) (f : Ctx → Ctx) : (s.onCtx c f).burrowFault = s.burrowFault := rfl
@[simp] theorem State.onCtx_invq (s : State) (c : Nat) (f : Ctx → Ctx) : (s.onCtx c f).invq = s.invq := rfl
@[simp] theorem State.onCtx_invNext (s : State) (c : Nat) (f : Ctx → Ctx) : (s.onCtx c f).invNext = s.invNext := rfl
@[simp] theorem State.onCtx_invseq (s : State) (c : Nat) (f : Ctx → Ctx) : (s.onCtx c f).invseq = s.invseq := rfl
@[simp] theorem State.onCtx_saves (s : State) (c : Nat) (f : Ctx → Ctx) : (s.onCtx c f).saves = s.saves := rfl
@[simp] theorem State.onCtx_halts (s : State) (c : Nat) (f : Ctx → Ctx) : (s.onCtx c f).halts = s.halts := rfl
@[simp] theorem State.onCtx_migrations (s : State) (c : Nat) (f : Ctx → Ctx) : (s.onCtx c f).migrations = s.migrations := rfl
@[simp] theorem State.onCtx_dies (s : State) (c : Nat) (f : Ctx → Ctx) : (s.onCtx c f).dies = s.dies := rfl
@[simp] theorem State.onCtx_hbm (s : State) (c : Nat) (f : Ctx → Ctx) : (s.onCtx c f).hbm = s.hbm := rfl
@[simp] theorem State.onCtx_tests (s : State) (c : Nat) (f : Ctx → Ctx) : (s.onCtx c f).tests = s.tests := rfl
@[simp] theorem State.onCtx_fallbackFences (s : State) (c : Nat) (f : Ctx → Ctx) : (s.onCtx c f).fallbackFences = s.fallbackFences := rfl
@[simp] theorem State.onCtx_regions (s : State) (c : Nat) (f : Ctx → Ctx) : (s.onCtx c f).regions = s.regions := rfl
@[simp] theorem State.onCtx_qpairs (s : State) (c : Nat) (f : Ctx → Ctx) : (s.onCtx c f).qpairs = s.qpairs := rfl
@[simp] theorem State.onCtx_portTlb (s : State) (c : Nat) (f : Ctx → Ctx) : (s.onCtx c f).portTlb = s.portTlb := rfl
@[simp] theorem State.onCtx_paused (s : State) (c : Nat) (f : Ctx → Ctx) : (s.onCtx c f).paused = s.paused := rfl
@[simp] theorem State.onCtx_hostTime (s : State) (c : Nat) (f : Ctx → Ctx) : (s.onCtx c f).hostTime = s.hostTime := rfl
@[simp] theorem State.onCtx_fabid (s : State) (c : Nat) (f : Ctx → Ctx) : (s.onCtx c f).fabid = s.fabid := rfl
@[simp] theorem State.onCtx_windows (s : State) (c : Nat) (f : Ctx → Ctx) : (s.onCtx c f).windows = s.windows := rfl
@[simp] theorem State.onCtx_exports (s : State) (c : Nat) (f : Ctx → Ctx) : (s.onCtx c f).exports = s.exports := rfl
@[simp] theorem State.onCtx_routes (s : State) (c : Nat) (f : Ctx → Ctx) : (s.onCtx c f).routes = s.routes := rfl
@[simp] theorem State.onCtx_deadFibres (s : State) (c : Nat) (f : Ctx → Ctx) : (s.onCtx c f).deadFibres = s.deadFibres := rfl
@[simp] theorem State.onCtx_fibreReplays (s : State) (c : Nat) (f : Ctx → Ctx) : (s.onCtx c f).fibreReplays = s.fibreReplays := rfl
@[simp] theorem State.onCtx_unreachable (s : State) (c : Nat) (f : Ctx → Ctx) : (s.onCtx c f).unreachable = s.unreachable := rfl
@[simp] theorem State.onCtx_refused (s : State) (c : Nat) (f : Ctx → Ctx) : (s.onCtx c f).refused = s.refused := rfl
@[simp] theorem State.onCtx_boot (s : State) (c : Nat) (f : Ctx → Ctx) : (s.onCtx c f).boot = s.boot := rfl
@[simp] theorem State.onCtx_spdm (s : State) (c : Nat) (f : Ctx → Ctx) : (s.onCtx c f).spdm = s.spdm := rfl
@[simp] theorem State.onCtx_outs (s : State) (c : Nat) (f : Ctx → Ctx) : (s.onCtx c f).outs = s.outs := rfl
@[simp] theorem State.onCtx_inbox (s : State) (c : Nat) (f : Ctx → Ctx) : (s.onCtx c f).inbox = s.inbox := rfl
@[simp] theorem State.thread_onCtx (s : State) (c j : Nat) (f : Ctx → Ctx) : (s.onCtx c f).thread j = s.thread j := rfl
@[simp] theorem State.band_onCtx (s : State) (c j : Nat) (f : Ctx → Ctx) : (s.onCtx c f).band j = s.band j := rfl
@[simp] theorem State.team_onCtx (s : State) (c j : Nat) (f : Ctx → Ctx) : (s.onCtx c f).team j = s.team j := rfl
@[simp] theorem State.core_onCtx (s : State) (c j : Nat) (f : Ctx → Ctx) : (s.onCtx c f).core j = s.core j := rfl
@[simp] theorem State.tile_onCtx (s : State) (c j : Nat) (f : Ctx → Ctx) : (s.onCtx c f).tile j = s.tile j := rfl
@[simp] theorem State.launch_onCtx (s : State) (c j : Nat) (f : Ctx → Ctx) : (s.onCtx c f).launch j = s.launch j := rfl
@[simp] theorem State.space_onCtx (s : State) (c j : Nat) (f : Ctx → Ctx) : (s.onCtx c f).space j = s.space j := rfl
@[simp] theorem State.die_onCtx (s : State) (c j : Nat) (f : Ctx → Ctx) : (s.onCtx c f).die j = s.die j := rfl
@[simp] theorem State.stack_onCtx (s : State) (c j : Nat) (f : Ctx → Ctx) : (s.onCtx c f).stack j = s.stack j := rfl
theorem State.ctx_onCtx_same {s : State} {c : Nat} (h : (find? c s.ctxs).isSome = true) (f : Ctx → Ctx) :
    (s.onCtx c f).ctx c = f (s.ctx c) := by
  obtain ⟨x, hx⟩ := Option.isSome_iff_exists.mp h
  simp [State.ctx, State.onCtx, hx]
theorem State.ctx_onCtx_ne {c j : Nat} (h : j ≠ c) (s : State) (f : Ctx → Ctx) : (s.onCtx c f).ctx j = s.ctx j := by
  simp [State.ctx, State.onCtx, find_smod_ne h]
@[simp] theorem State.onCtx_ctxs_isSome (s : State) (c j : Nat) (f : Ctx → Ctx) :
    (find? j (s.onCtx c f).ctxs).isSome = (find? j s.ctxs).isSome := find_smod_isSome c j f s.ctxs

/-! ## onDie -/

@[simp] theorem State.onDie_clock (s : State) (d : Nat) (f : Die → Die) : (s.onDie d f).clock = s.clock := rfl
@[simp] theorem State.onDie_fresh (s : State) (d : Nat) (f : Die → Die) : (s.onDie d f).fresh = s.fresh := rfl
@[simp] theorem State.onDie_free (s : State) (d : Nat) (f : Die → Die) : (s.onDie d f).free = s.free := rfl
@[simp] theorem State.onDie_agenda (s : State) (d : Nat) (f : Die → Die) : (s.onDie d f).agenda = s.agenda := rfl
@[simp] theorem State.onDie_focus (s : State) (d : Nat) (f : Die → Die) : (s.onDie d f).focus = s.focus := rfl
@[simp] theorem State.onDie_ev (s : State) (d : Nat) (f : Die → Die) : (s.onDie d f).ev = s.ev := rfl
@[simp] theorem State.onDie_cur (s : State) (d : Nat) (f : Die → Die) : (s.onDie d f).cur = s.cur := rfl
@[simp] theorem State.onDie_threads (s : State) (d : Nat) (f : Die → Die) : (s.onDie d f).threads = s.threads := rfl
@[simp] theorem State.onDie_bands (s : State) (d : Nat) (f : Die → Die) : (s.onDie d f).bands = s.bands := rfl
@[simp] theorem State.onDie_teams (s : State) (d : Nat) (f : Die → Die) : (s.onDie d f).teams = s.teams := rfl
@[simp] theorem State.onDie_quarantine (s : State) (d : Nat) (f : Die → Die) : (s.onDie d f).quarantine = s.quarantine := rfl
@[simp] theorem State.onDie_cores (s : State) (d : Nat) (f : Die → Die) : (s.onDie d f).cores = s.cores := rfl
@[simp] theorem State.onDie_tiles (s : State) (d : Nat) (f : Die → Die) : (s.onDie d f).tiles = s.tiles := rfl
@[simp] theorem State.onDie_channels (s : State) (d : Nat) (f : Die → Die) : (s.onDie d f).channels = s.channels := rfl
@[simp] theorem State.onDie_mem (s : State) (d : Nat) (f : Die → Die) : (s.onDie d f).mem = s.mem := rfl
@[simp] theorem State.onDie_poison (s : State) (d : Nat) (f : Die → Die) : (s.onDie d f).poison = s.poison := rfl
@[simp] theorem State.onDie_versions (s : State) (d : Nat) (f : Die → Die) : (s.onDie d f).versions = s.versions := rfl
@[simp] theorem State.onDie_lost (s : State) (d : Nat) (f : Die → Die) : (s.onDie d f).lost = s.lost := rfl
@[simp] theorem State.onDie_floors (s : State) (d : Nat) (f : Die → Die) : (s.onDie d f).floors = s.floors := rfl
@[simp] theorem State.onDie_baseFloors (s : State) (d : Nat) (f : Die → Die) : (s.onDie d f).baseFloors = s.baseFloors := rfl
@[simp] theorem State.onDie_granules (s : State) (d : Nat) (f : Die → Die) : (s.onDie d f).granules = s.granules := rfl
@[simp] theorem State.onDie_l2 (s : State) (d : Nat) (f : Die → Die) : (s.onDie d f).l2 = s.l2 := rfl
@[simp] theorem State.onDie_parts (s : State) (d : Nat) (f : Die → Die) : (s.onDie d f).parts = s.parts := rfl
@[simp] theorem State.onDie_staging (s : State) (d : Nat) (f : Die → Die) : (s.onDie d f).staging = s.staging := rfl
@[simp] theorem State.onDie_stagingPoison (s : State) (d : Nat) (f : Die → Die) : (s.onDie d f).stagingPoison = s.stagingPoison := rfl
@[simp] theorem State.onDie_damage (s : State) (d : Nat) (f : Die → Die) : (s.onDie d f).damage = s.damage := rfl
@[simp] theorem State.onDie_reqs (s : State) (d : Nat) (f : Die → Die) : (s.onDie d f).reqs = s.reqs := rfl
@[simp] theorem State.onDie_packets (s : State) (d : Nat) (f : Die → Die) : (s.onDie d f).packets = s.packets := rfl
@[simp] theorem State.onDie_lates (s : State) (d : Nat) (f : Die → Die) : (s.onDie d f).lates = s.lates := rfl
@[simp] theorem State.onDie_walkCache (s : State) (d : Nat) (f : Die → Die) : (s.onDie d f).walkCache = s.walkCache := rfl
@[simp] theorem State.onDie_spaces (s : State) (d : Nat) (f : Die → Die) : (s.onDie d f).spaces = s.spaces := rfl
@[simp] theorem State.onDie_ctxs (s : State) (d : Nat) (f : Die → Die) : (s.onDie d f).ctxs = s.ctxs := rfl
@[simp] theorem State.onDie_machineQ (s : State) (d : Nat) (f : Die → Die) : (s.onDie d f).machineQ = s.machineQ := rfl
@[simp] theorem State.onDie_machineWait (s : State) (d : Nat) (f : Die → Die) : (s.onDie d f).machineWait = s.machineWait := rfl
@[simp] theorem State.onDie_launches (s : State) (d : Nat) (f : Die → Die) : (s.onDie d f).launches = s.launches := rfl
@[simp] theorem State.onDie_graphs (s : State) (d : Nat) (f : Die → Die) : (s.onDie d f).graphs = s.graphs := rfl
@[simp] theorem State.onDie_jobs (s : State) (d : Nat) (f : Die → Die) : (s.onDie d f).jobs = s.jobs := rfl
@[simp] theorem State.onDie_clusterQ (s : State) (d : Nat) (f : Die → Die) : (s.onDie d f).clusterQ = s.clusterQ := rfl
@[simp] theorem State.onDie_lastSteal (s : State) (d : Nat) (f : Die → Die) : (s.onDie d f).lastSteal = s.lastSteal := rfl
@[simp] theorem State.onDie_lastStart (s : State) (d : Nat) (f : Die → Die) : (s.onDie d f).lastStart = s.lastStart := rfl
@[simp] theorem State.onDie_drawTurn (s : State) (d : Nat) (f : Die → Die) : (s.onDie d f).drawTurn = s.drawTurn := rfl
@[simp] theorem State.onDie_counts (s : State) (d : Nat) (f : Die → Die) : (s.onDie d f).counts = s.counts := rfl
@[simp] theorem State.onDie_levels (s : State) (d : Nat) (f : Die → Die) : (s.onDie d f).levels = s.levels := rfl
@[simp] theorem State.onDie_heldRecs (s : State) (d : Nat) (f : Die → Die) : (s.onDie d f).heldRecs = s.heldRecs := rfl
@[simp] theorem State.onDie_complFault (s : State) (d : Nat) (f : Die → Die) : (s.onDie d f).complFault = s.complFault := rfl
@[simp] theorem State.onDie_burrowFault (s : State) (d : Nat) (f : Die → Die) : (s.onDie d f).burrowFault = s.burrowFault := rfl
@[simp] theorem State.onDie_invq (s : State) (d : Nat) (f : Die → Die) : (s.onDie d f).invq = s.invq := rfl
@[simp] theorem State.onDie_invNext (s : State) (d : Nat) (f : Die → Die) : (s.onDie d f).invNext = s.invNext := rfl
@[simp] theorem State.onDie_invseq (s : State) (d : Nat) (f : Die → Die) : (s.onDie d f).invseq = s.invseq := rfl
@[simp] theorem State.onDie_saves (s : State) (d : Nat) (f : Die → Die) : (s.onDie d f).saves = s.saves := rfl
@[simp] theorem State.onDie_halts (s : State) (d : Nat) (f : Die → Die) : (s.onDie d f).halts = s.halts := rfl
@[simp] theorem State.onDie_migrations (s : State) (d : Nat) (f : Die → Die) : (s.onDie d f).migrations = s.migrations := rfl
@[simp] theorem State.onDie_hbm (s : State) (d : Nat) (f : Die → Die) : (s.onDie d f).hbm = s.hbm := rfl
@[simp] theorem State.onDie_tests (s : State) (d : Nat) (f : Die → Die) : (s.onDie d f).tests = s.tests := rfl
@[simp] theorem State.onDie_fallbackFences (s : State) (d : Nat) (f : Die → Die) : (s.onDie d f).fallbackFences = s.fallbackFences := rfl
@[simp] theorem State.onDie_regions (s : State) (d : Nat) (f : Die → Die) : (s.onDie d f).regions = s.regions := rfl
@[simp] theorem State.onDie_qpairs (s : State) (d : Nat) (f : Die → Die) : (s.onDie d f).qpairs = s.qpairs := rfl
@[simp] theorem State.onDie_portTlb (s : State) (d : Nat) (f : Die → Die) : (s.onDie d f).portTlb = s.portTlb := rfl
@[simp] theorem State.onDie_paused (s : State) (d : Nat) (f : Die → Die) : (s.onDie d f).paused = s.paused := rfl
@[simp] theorem State.onDie_hostTime (s : State) (d : Nat) (f : Die → Die) : (s.onDie d f).hostTime = s.hostTime := rfl
@[simp] theorem State.onDie_fabid (s : State) (d : Nat) (f : Die → Die) : (s.onDie d f).fabid = s.fabid := rfl
@[simp] theorem State.onDie_windows (s : State) (d : Nat) (f : Die → Die) : (s.onDie d f).windows = s.windows := rfl
@[simp] theorem State.onDie_exports (s : State) (d : Nat) (f : Die → Die) : (s.onDie d f).exports = s.exports := rfl
@[simp] theorem State.onDie_routes (s : State) (d : Nat) (f : Die → Die) : (s.onDie d f).routes = s.routes := rfl
@[simp] theorem State.onDie_deadFibres (s : State) (d : Nat) (f : Die → Die) : (s.onDie d f).deadFibres = s.deadFibres := rfl
@[simp] theorem State.onDie_fibreReplays (s : State) (d : Nat) (f : Die → Die) : (s.onDie d f).fibreReplays = s.fibreReplays := rfl
@[simp] theorem State.onDie_unreachable (s : State) (d : Nat) (f : Die → Die) : (s.onDie d f).unreachable = s.unreachable := rfl
@[simp] theorem State.onDie_refused (s : State) (d : Nat) (f : Die → Die) : (s.onDie d f).refused = s.refused := rfl
@[simp] theorem State.onDie_boot (s : State) (d : Nat) (f : Die → Die) : (s.onDie d f).boot = s.boot := rfl
@[simp] theorem State.onDie_spdm (s : State) (d : Nat) (f : Die → Die) : (s.onDie d f).spdm = s.spdm := rfl
@[simp] theorem State.onDie_outs (s : State) (d : Nat) (f : Die → Die) : (s.onDie d f).outs = s.outs := rfl
@[simp] theorem State.onDie_inbox (s : State) (d : Nat) (f : Die → Die) : (s.onDie d f).inbox = s.inbox := rfl
@[simp] theorem State.thread_onDie (s : State) (d j : Nat) (f : Die → Die) : (s.onDie d f).thread j = s.thread j := rfl
@[simp] theorem State.band_onDie (s : State) (d j : Nat) (f : Die → Die) : (s.onDie d f).band j = s.band j := rfl
@[simp] theorem State.team_onDie (s : State) (d j : Nat) (f : Die → Die) : (s.onDie d f).team j = s.team j := rfl
@[simp] theorem State.core_onDie (s : State) (d j : Nat) (f : Die → Die) : (s.onDie d f).core j = s.core j := rfl
@[simp] theorem State.tile_onDie (s : State) (d j : Nat) (f : Die → Die) : (s.onDie d f).tile j = s.tile j := rfl
@[simp] theorem State.launch_onDie (s : State) (d j : Nat) (f : Die → Die) : (s.onDie d f).launch j = s.launch j := rfl
@[simp] theorem State.ctx_onDie (s : State) (d j : Nat) (f : Die → Die) : (s.onDie d f).ctx j = s.ctx j := rfl
@[simp] theorem State.space_onDie (s : State) (d j : Nat) (f : Die → Die) : (s.onDie d f).space j = s.space j := rfl
@[simp] theorem State.stack_onDie (s : State) (d j : Nat) (f : Die → Die) : (s.onDie d f).stack j = s.stack j := rfl
@[simp] theorem State.die_onDie_same (s : State) (d : Nat) (f : Die → Die) : (s.onDie d f).die d = f (s.die d) := by
  simp [State.die, State.onDie]
theorem State.die_onDie_ne {d j : Nat} (h : j ≠ d) (s : State) (f : Die → Die) : (s.onDie d f).die j = s.die j := by
  simp [State.die, State.onDie, find_sput_ne h]

/-! ## onStack -/

@[simp] theorem State.onStack_clock (s : State) (n : Nat) (f : Stack → Stack) : (s.onStack n f).clock = s.clock := rfl
@[simp] theorem State.onStack_fresh (s : State) (n : Nat) (f : Stack → Stack) : (s.onStack n f).fresh = s.fresh := rfl
@[simp] theorem State.onStack_free (s : State) (n : Nat) (f : Stack → Stack) : (s.onStack n f).free = s.free := rfl
@[simp] theorem State.onStack_agenda (s : State) (n : Nat) (f : Stack → Stack) : (s.onStack n f).agenda = s.agenda := rfl
@[simp] theorem State.onStack_focus (s : State) (n : Nat) (f : Stack → Stack) : (s.onStack n f).focus = s.focus := rfl
@[simp] theorem State.onStack_ev (s : State) (n : Nat) (f : Stack → Stack) : (s.onStack n f).ev = s.ev := rfl
@[simp] theorem State.onStack_cur (s : State) (n : Nat) (f : Stack → Stack) : (s.onStack n f).cur = s.cur := rfl
@[simp] theorem State.onStack_threads (s : State) (n : Nat) (f : Stack → Stack) : (s.onStack n f).threads = s.threads := rfl
@[simp] theorem State.onStack_bands (s : State) (n : Nat) (f : Stack → Stack) : (s.onStack n f).bands = s.bands := rfl
@[simp] theorem State.onStack_teams (s : State) (n : Nat) (f : Stack → Stack) : (s.onStack n f).teams = s.teams := rfl
@[simp] theorem State.onStack_quarantine (s : State) (n : Nat) (f : Stack → Stack) : (s.onStack n f).quarantine = s.quarantine := rfl
@[simp] theorem State.onStack_cores (s : State) (n : Nat) (f : Stack → Stack) : (s.onStack n f).cores = s.cores := rfl
@[simp] theorem State.onStack_tiles (s : State) (n : Nat) (f : Stack → Stack) : (s.onStack n f).tiles = s.tiles := rfl
@[simp] theorem State.onStack_channels (s : State) (n : Nat) (f : Stack → Stack) : (s.onStack n f).channels = s.channels := rfl
@[simp] theorem State.onStack_mem (s : State) (n : Nat) (f : Stack → Stack) : (s.onStack n f).mem = s.mem := rfl
@[simp] theorem State.onStack_poison (s : State) (n : Nat) (f : Stack → Stack) : (s.onStack n f).poison = s.poison := rfl
@[simp] theorem State.onStack_versions (s : State) (n : Nat) (f : Stack → Stack) : (s.onStack n f).versions = s.versions := rfl
@[simp] theorem State.onStack_lost (s : State) (n : Nat) (f : Stack → Stack) : (s.onStack n f).lost = s.lost := rfl
@[simp] theorem State.onStack_floors (s : State) (n : Nat) (f : Stack → Stack) : (s.onStack n f).floors = s.floors := rfl
@[simp] theorem State.onStack_baseFloors (s : State) (n : Nat) (f : Stack → Stack) : (s.onStack n f).baseFloors = s.baseFloors := rfl
@[simp] theorem State.onStack_granules (s : State) (n : Nat) (f : Stack → Stack) : (s.onStack n f).granules = s.granules := rfl
@[simp] theorem State.onStack_l2 (s : State) (n : Nat) (f : Stack → Stack) : (s.onStack n f).l2 = s.l2 := rfl
@[simp] theorem State.onStack_parts (s : State) (n : Nat) (f : Stack → Stack) : (s.onStack n f).parts = s.parts := rfl
@[simp] theorem State.onStack_staging (s : State) (n : Nat) (f : Stack → Stack) : (s.onStack n f).staging = s.staging := rfl
@[simp] theorem State.onStack_stagingPoison (s : State) (n : Nat) (f : Stack → Stack) : (s.onStack n f).stagingPoison = s.stagingPoison := rfl
@[simp] theorem State.onStack_damage (s : State) (n : Nat) (f : Stack → Stack) : (s.onStack n f).damage = s.damage := rfl
@[simp] theorem State.onStack_reqs (s : State) (n : Nat) (f : Stack → Stack) : (s.onStack n f).reqs = s.reqs := rfl
@[simp] theorem State.onStack_packets (s : State) (n : Nat) (f : Stack → Stack) : (s.onStack n f).packets = s.packets := rfl
@[simp] theorem State.onStack_lates (s : State) (n : Nat) (f : Stack → Stack) : (s.onStack n f).lates = s.lates := rfl
@[simp] theorem State.onStack_walkCache (s : State) (n : Nat) (f : Stack → Stack) : (s.onStack n f).walkCache = s.walkCache := rfl
@[simp] theorem State.onStack_spaces (s : State) (n : Nat) (f : Stack → Stack) : (s.onStack n f).spaces = s.spaces := rfl
@[simp] theorem State.onStack_ctxs (s : State) (n : Nat) (f : Stack → Stack) : (s.onStack n f).ctxs = s.ctxs := rfl
@[simp] theorem State.onStack_machineQ (s : State) (n : Nat) (f : Stack → Stack) : (s.onStack n f).machineQ = s.machineQ := rfl
@[simp] theorem State.onStack_machineWait (s : State) (n : Nat) (f : Stack → Stack) : (s.onStack n f).machineWait = s.machineWait := rfl
@[simp] theorem State.onStack_launches (s : State) (n : Nat) (f : Stack → Stack) : (s.onStack n f).launches = s.launches := rfl
@[simp] theorem State.onStack_graphs (s : State) (n : Nat) (f : Stack → Stack) : (s.onStack n f).graphs = s.graphs := rfl
@[simp] theorem State.onStack_jobs (s : State) (n : Nat) (f : Stack → Stack) : (s.onStack n f).jobs = s.jobs := rfl
@[simp] theorem State.onStack_clusterQ (s : State) (n : Nat) (f : Stack → Stack) : (s.onStack n f).clusterQ = s.clusterQ := rfl
@[simp] theorem State.onStack_lastSteal (s : State) (n : Nat) (f : Stack → Stack) : (s.onStack n f).lastSteal = s.lastSteal := rfl
@[simp] theorem State.onStack_lastStart (s : State) (n : Nat) (f : Stack → Stack) : (s.onStack n f).lastStart = s.lastStart := rfl
@[simp] theorem State.onStack_drawTurn (s : State) (n : Nat) (f : Stack → Stack) : (s.onStack n f).drawTurn = s.drawTurn := rfl
@[simp] theorem State.onStack_counts (s : State) (n : Nat) (f : Stack → Stack) : (s.onStack n f).counts = s.counts := rfl
@[simp] theorem State.onStack_levels (s : State) (n : Nat) (f : Stack → Stack) : (s.onStack n f).levels = s.levels := rfl
@[simp] theorem State.onStack_heldRecs (s : State) (n : Nat) (f : Stack → Stack) : (s.onStack n f).heldRecs = s.heldRecs := rfl
@[simp] theorem State.onStack_complFault (s : State) (n : Nat) (f : Stack → Stack) : (s.onStack n f).complFault = s.complFault := rfl
@[simp] theorem State.onStack_burrowFault (s : State) (n : Nat) (f : Stack → Stack) : (s.onStack n f).burrowFault = s.burrowFault := rfl
@[simp] theorem State.onStack_invq (s : State) (n : Nat) (f : Stack → Stack) : (s.onStack n f).invq = s.invq := rfl
@[simp] theorem State.onStack_invNext (s : State) (n : Nat) (f : Stack → Stack) : (s.onStack n f).invNext = s.invNext := rfl
@[simp] theorem State.onStack_invseq (s : State) (n : Nat) (f : Stack → Stack) : (s.onStack n f).invseq = s.invseq := rfl
@[simp] theorem State.onStack_saves (s : State) (n : Nat) (f : Stack → Stack) : (s.onStack n f).saves = s.saves := rfl
@[simp] theorem State.onStack_halts (s : State) (n : Nat) (f : Stack → Stack) : (s.onStack n f).halts = s.halts := rfl
@[simp] theorem State.onStack_migrations (s : State) (n : Nat) (f : Stack → Stack) : (s.onStack n f).migrations = s.migrations := rfl
@[simp] theorem State.onStack_dies (s : State) (n : Nat) (f : Stack → Stack) : (s.onStack n f).dies = s.dies := rfl
@[simp] theorem State.onStack_tests (s : State) (n : Nat) (f : Stack → Stack) : (s.onStack n f).tests = s.tests := rfl
@[simp] theorem State.onStack_fallbackFences (s : State) (n : Nat) (f : Stack → Stack) : (s.onStack n f).fallbackFences = s.fallbackFences := rfl
@[simp] theorem State.onStack_regions (s : State) (n : Nat) (f : Stack → Stack) : (s.onStack n f).regions = s.regions := rfl
@[simp] theorem State.onStack_qpairs (s : State) (n : Nat) (f : Stack → Stack) : (s.onStack n f).qpairs = s.qpairs := rfl
@[simp] theorem State.onStack_portTlb (s : State) (n : Nat) (f : Stack → Stack) : (s.onStack n f).portTlb = s.portTlb := rfl
@[simp] theorem State.onStack_paused (s : State) (n : Nat) (f : Stack → Stack) : (s.onStack n f).paused = s.paused := rfl
@[simp] theorem State.onStack_hostTime (s : State) (n : Nat) (f : Stack → Stack) : (s.onStack n f).hostTime = s.hostTime := rfl
@[simp] theorem State.onStack_fabid (s : State) (n : Nat) (f : Stack → Stack) : (s.onStack n f).fabid = s.fabid := rfl
@[simp] theorem State.onStack_windows (s : State) (n : Nat) (f : Stack → Stack) : (s.onStack n f).windows = s.windows := rfl
@[simp] theorem State.onStack_exports (s : State) (n : Nat) (f : Stack → Stack) : (s.onStack n f).exports = s.exports := rfl
@[simp] theorem State.onStack_routes (s : State) (n : Nat) (f : Stack → Stack) : (s.onStack n f).routes = s.routes := rfl
@[simp] theorem State.onStack_deadFibres (s : State) (n : Nat) (f : Stack → Stack) : (s.onStack n f).deadFibres = s.deadFibres := rfl
@[simp] theorem State.onStack_fibreReplays (s : State) (n : Nat) (f : Stack → Stack) : (s.onStack n f).fibreReplays = s.fibreReplays := rfl
@[simp] theorem State.onStack_unreachable (s : State) (n : Nat) (f : Stack → Stack) : (s.onStack n f).unreachable = s.unreachable := rfl
@[simp] theorem State.onStack_refused (s : State) (n : Nat) (f : Stack → Stack) : (s.onStack n f).refused = s.refused := rfl
@[simp] theorem State.onStack_boot (s : State) (n : Nat) (f : Stack → Stack) : (s.onStack n f).boot = s.boot := rfl
@[simp] theorem State.onStack_spdm (s : State) (n : Nat) (f : Stack → Stack) : (s.onStack n f).spdm = s.spdm := rfl
@[simp] theorem State.onStack_outs (s : State) (n : Nat) (f : Stack → Stack) : (s.onStack n f).outs = s.outs := rfl
@[simp] theorem State.onStack_inbox (s : State) (n : Nat) (f : Stack → Stack) : (s.onStack n f).inbox = s.inbox := rfl
@[simp] theorem State.thread_onStack (s : State) (n j : Nat) (f : Stack → Stack) : (s.onStack n f).thread j = s.thread j := rfl
@[simp] theorem State.band_onStack (s : State) (n j : Nat) (f : Stack → Stack) : (s.onStack n f).band j = s.band j := rfl
@[simp] theorem State.team_onStack (s : State) (n j : Nat) (f : Stack → Stack) : (s.onStack n f).team j = s.team j := rfl
@[simp] theorem State.core_onStack (s : State) (n j : Nat) (f : Stack → Stack) : (s.onStack n f).core j = s.core j := rfl
@[simp] theorem State.tile_onStack (s : State) (n j : Nat) (f : Stack → Stack) : (s.onStack n f).tile j = s.tile j := rfl
@[simp] theorem State.launch_onStack (s : State) (n j : Nat) (f : Stack → Stack) : (s.onStack n f).launch j = s.launch j := rfl
@[simp] theorem State.ctx_onStack (s : State) (n j : Nat) (f : Stack → Stack) : (s.onStack n f).ctx j = s.ctx j := rfl
@[simp] theorem State.space_onStack (s : State) (n j : Nat) (f : Stack → Stack) : (s.onStack n f).space j = s.space j := rfl
@[simp] theorem State.die_onStack (s : State) (n j : Nat) (f : Stack → Stack) : (s.onStack n f).die j = s.die j := rfl
@[simp] theorem State.stack_onStack_same (s : State) (n : Nat) (f : Stack → Stack) : (s.onStack n f).stack n = f (s.stack n) := by
  simp [State.stack, State.onStack]
theorem State.stack_onStack_ne {n j : Nat} (h : j ≠ n) (s : State) (f : Stack → Stack) : (s.onStack n f).stack j = s.stack j := by
  simp [State.stack, State.onStack, find_sput_ne h]

/-! ## Registers of a thread -/

@[simp] theorem Thread.reg_setReg_same (t : Thread) (r : Nat) (w : Word) : (t.setReg r w).reg r = w := by
  simp [Thread.reg, Thread.setReg]
theorem Thread.reg_setReg_ne {r q : Nat} (h : q ≠ r) (t : Thread) (w : Word) : (t.setReg r w).reg q = t.reg q := by
  simp [Thread.reg, Thread.setReg, sget_sset_ne h]
@[simp] theorem Thread.isEmpty_setReg_same (t : Thread) (r : Nat) (w : Word) : (t.setReg r w).isEmpty r = false := by
  simp [Thread.isEmpty, Thread.setReg]
theorem Thread.isEmpty_setReg_ne {r q : Nat} (h : q ≠ r) (t : Thread) (w : Word) :
    (t.setReg r w).isEmpty q = t.isEmpty q := by
  simp [Thread.isEmpty, Thread.setReg, sget_sset_ne h]
@[simp] theorem Thread.markOf_setReg_same (t : Thread) (r : Nat) (w : Word) : (t.setReg r w).markOf r = 0 := by
  simp [Thread.markOf, Thread.setReg]
theorem Thread.markOf_setReg_ne {r q : Nat} (h : q ≠ r) (t : Thread) (w : Word) :
    (t.setReg r w).markOf q = t.markOf q := by
  simp [Thread.markOf, Thread.setReg, sget_sset_ne h]
@[simp] theorem Thread.reg64_setReg64_same (t : Thread) (r : Nat) (w : DWord) : (t.setReg64 r w).reg64 r = w := by
  unfold Thread.reg64 Thread.setReg64
  rw [Thread.reg_setReg_same, Thread.reg_setReg_ne (by omega), Thread.reg_setReg_same]
  ext i hi
  simp only [BitVec.getElem_append, BitVec.getElem_extractLsb']
  split
  · simp [BitVec.getLsbD_eq_getElem, hi]
  · simp [BitVec.getLsbD_eq_getElem, hi, show 32 + (i - 32) = i by omega]
theorem Thread.reg_setReg64_ne {r q : Nat} (h : q ≠ r) (h' : q ≠ r + 1) (t : Thread) (w : DWord) :
    (t.setReg64 r w).reg q = t.reg q := by
  unfold Thread.setReg64
  rw [Thread.reg_setReg_ne h', Thread.reg_setReg_ne h]

@[simp] theorem Thread.setReg_pc (t : Thread) (r : Nat) (w : Word) : (t.setReg r w).pc = t.pc := rfl
@[simp] theorem Thread.setReg_h (t : Thread) (r : Nat) (w : Word) : (t.setReg r w).h = t.h := rfl
@[simp] theorem Thread.setReg_stack (t : Thread) (r : Nat) (w : Word) : (t.setReg r w).stack = t.stack := rfl
@[simp] theorem Thread.setReg_csp (t : Thread) (r : Nat) (w : Word) : (t.setReg r w).csp = t.csp := rfl
@[simp] theorem Thread.setReg_exited (t : Thread) (r : Nat) (w : Word) : (t.setReg r w).exited = t.exited := rfl
@[simp] theorem Thread.setReg_parked (t : Thread) (r : Nat) (w : Word) : (t.setReg r w).parked = t.parked := rfl
@[simp] theorem Thread.setReg_wait (t : Thread) (r : Nat) (w : Word) : (t.setReg r w).wait = t.wait := rfl
@[simp] theorem Thread.setReg_age (t : Thread) (r : Nat) (w : Word) : (t.setReg r w).age = t.age := rfl
@[simp] theorem Thread.setReg_inh (t : Thread) (r : Nat) (w : Word) : (t.setReg r w).inh = t.inh := rfl
@[simp] theorem Thread.setReg_pprv (t : Thread) (r : Nat) (w : Word) : (t.setReg r w).pprv = t.pprv := rfl
@[simp] theorem Thread.setReg_prv (t : Thread) (r : Nat) (w : Word) : (t.setReg r w).prv = t.prv := rfl
@[simp] theorem Thread.setReg_tcause (t : Thread) (r : Nat) (w : Word) : (t.setReg r w).tcause = t.tcause := rfl
@[simp] theorem Thread.setReg_tval (t : Thread) (r : Nat) (w : Word) : (t.setReg r w).tval = t.tval := rfl
@[simp] theorem Thread.setReg_tpc (t : Thread) (r : Nat) (w : Word) : (t.setReg r w).tpc = t.tpc := rfl
@[simp] theorem Thread.setReg_tscr (t : Thread) (r : Nat) (w : Word) : (t.setReg r w).tscr = t.tscr := rfl
@[simp] theorem Thread.setReg_efword (t : Thread) (r : Nat) (w : Word) : (t.setReg r w).efword = t.efword := rfl
@[simp] theorem Thread.setReg_efpc (t : Thread) (r : Nat) (w : Word) : (t.setReg r w).efpc = t.efpc := rfl
@[simp] theorem Thread.setReg_efinfo (t : Thread) (r : Nat) (w : Word) : (t.setReg r w).efinfo = t.efinfo := rfl
@[simp] theorem Thread.setReg_vset (t : Thread) (r : Nat) (w : Word) : (t.setReg r w).vset = t.vset := rfl
@[simp] theorem Thread.setReg_vover (t : Thread) (r : Nat) (w : Word) : (t.setReg r w).vover = t.vover := rfl
@[simp] theorem Thread.setReg_serr (t : Thread) (r : Nat) (w : Word) : (t.setReg r w).serr = t.serr := rfl
@[simp] theorem Thread.setReg_bara (t : Thread) (r : Nat) (w : Word) : (t.setReg r w).bara = t.bara := rfl
@[simp] theorem Thread.setReg_seen (t : Thread) (r : Nat) (w : Word) : (t.setReg r w).seen = t.seen := rfl
@[simp] theorem Thread.setReg_wword (t : Thread) (r : Nat) (w : Word) : (t.setReg r w).wword = t.wword := rfl
@[simp] theorem Thread.setReg_ray (t : Thread) (r : Nat) (w : Word) : (t.setReg r w).ray = t.ray := rfl
@[simp] theorem Thread.setReg64_pc (t : Thread) (r : Nat) (w : DWord) : (t.setReg64 r w).pc = t.pc := rfl
@[simp] theorem Thread.setReg64_h (t : Thread) (r : Nat) (w : DWord) : (t.setReg64 r w).h = t.h := rfl
@[simp] theorem Thread.setReg64_stack (t : Thread) (r : Nat) (w : DWord) : (t.setReg64 r w).stack = t.stack := rfl
@[simp] theorem Thread.setReg64_csp (t : Thread) (r : Nat) (w : DWord) : (t.setReg64 r w).csp = t.csp := rfl
@[simp] theorem Thread.setReg64_exited (t : Thread) (r : Nat) (w : DWord) : (t.setReg64 r w).exited = t.exited := rfl
@[simp] theorem Thread.setReg64_parked (t : Thread) (r : Nat) (w : DWord) : (t.setReg64 r w).parked = t.parked := rfl
@[simp] theorem Thread.setReg64_wait (t : Thread) (r : Nat) (w : DWord) : (t.setReg64 r w).wait = t.wait := rfl
@[simp] theorem Thread.setReg64_age (t : Thread) (r : Nat) (w : DWord) : (t.setReg64 r w).age = t.age := rfl
@[simp] theorem Thread.setReg64_inh (t : Thread) (r : Nat) (w : DWord) : (t.setReg64 r w).inh = t.inh := rfl
@[simp] theorem Thread.setReg64_pprv (t : Thread) (r : Nat) (w : DWord) : (t.setReg64 r w).pprv = t.pprv := rfl
@[simp] theorem Thread.setReg64_prv (t : Thread) (r : Nat) (w : DWord) : (t.setReg64 r w).prv = t.prv := rfl
@[simp] theorem Thread.setReg64_tcause (t : Thread) (r : Nat) (w : DWord) : (t.setReg64 r w).tcause = t.tcause := rfl
@[simp] theorem Thread.setReg64_tval (t : Thread) (r : Nat) (w : DWord) : (t.setReg64 r w).tval = t.tval := rfl
@[simp] theorem Thread.setReg64_tpc (t : Thread) (r : Nat) (w : DWord) : (t.setReg64 r w).tpc = t.tpc := rfl
@[simp] theorem Thread.setReg64_tscr (t : Thread) (r : Nat) (w : DWord) : (t.setReg64 r w).tscr = t.tscr := rfl
@[simp] theorem Thread.setReg64_efword (t : Thread) (r : Nat) (w : DWord) : (t.setReg64 r w).efword = t.efword := rfl
@[simp] theorem Thread.setReg64_efpc (t : Thread) (r : Nat) (w : DWord) : (t.setReg64 r w).efpc = t.efpc := rfl
@[simp] theorem Thread.setReg64_efinfo (t : Thread) (r : Nat) (w : DWord) : (t.setReg64 r w).efinfo = t.efinfo := rfl
@[simp] theorem Thread.setReg64_vset (t : Thread) (r : Nat) (w : DWord) : (t.setReg64 r w).vset = t.vset := rfl
@[simp] theorem Thread.setReg64_vover (t : Thread) (r : Nat) (w : DWord) : (t.setReg64 r w).vover = t.vover := rfl
@[simp] theorem Thread.setReg64_serr (t : Thread) (r : Nat) (w : DWord) : (t.setReg64 r w).serr = t.serr := rfl
@[simp] theorem Thread.setReg64_bara (t : Thread) (r : Nat) (w : DWord) : (t.setReg64 r w).bara = t.bara := rfl
@[simp] theorem Thread.setReg64_seen (t : Thread) (r : Nat) (w : DWord) : (t.setReg64 r w).seen = t.seen := rfl
@[simp] theorem Thread.setReg64_wword (t : Thread) (r : Nat) (w : DWord) : (t.setReg64 r w).wword = t.wword := rfl
@[simp] theorem Thread.setReg64_ray (t : Thread) (r : Nat) (w : DWord) : (t.setReg64 r w).ray = t.ray := rfl
@[simp] theorem Thread.setHdl_pc (t : Thread) (h : Nat) (x : Handle) : (t.setHdl h x).pc = t.pc := rfl
@[simp] theorem Thread.setHdl_g (t : Thread) (h : Nat) (x : Handle) : (t.setHdl h x).g = t.g := rfl
@[simp] theorem Thread.setHdl_empty (t : Thread) (h : Nat) (x : Handle) : (t.setHdl h x).empty = t.empty := rfl
@[simp] theorem Thread.setHdl_mark (t : Thread) (h : Nat) (x : Handle) : (t.setHdl h x).mark = t.mark := rfl
@[simp] theorem Thread.setHdl_stack (t : Thread) (h : Nat) (x : Handle) : (t.setHdl h x).stack = t.stack := rfl
@[simp] theorem Thread.setHdl_csp (t : Thread) (h : Nat) (x : Handle) : (t.setHdl h x).csp = t.csp := rfl
@[simp] theorem Thread.setHdl_exited (t : Thread) (h : Nat) (x : Handle) : (t.setHdl h x).exited = t.exited := rfl
@[simp] theorem Thread.setHdl_parked (t : Thread) (h : Nat) (x : Handle) : (t.setHdl h x).parked = t.parked := rfl
@[simp] theorem Thread.setHdl_wait (t : Thread) (h : Nat) (x : Handle) : (t.setHdl h x).wait = t.wait := rfl
@[simp] theorem Thread.setHdl_age (t : Thread) (h : Nat) (x : Handle) : (t.setHdl h x).age = t.age := rfl
@[simp] theorem Thread.setHdl_inh (t : Thread) (h : Nat) (x : Handle) : (t.setHdl h x).inh = t.inh := rfl
@[simp] theorem Thread.setHdl_pprv (t : Thread) (h : Nat) (x : Handle) : (t.setHdl h x).pprv = t.pprv := rfl
@[simp] theorem Thread.setHdl_prv (t : Thread) (h : Nat) (x : Handle) : (t.setHdl h x).prv = t.prv := rfl
@[simp] theorem Thread.setHdl_tcause (t : Thread) (h : Nat) (x : Handle) : (t.setHdl h x).tcause = t.tcause := rfl
@[simp] theorem Thread.setHdl_tval (t : Thread) (h : Nat) (x : Handle) : (t.setHdl h x).tval = t.tval := rfl
@[simp] theorem Thread.setHdl_tpc (t : Thread) (h : Nat) (x : Handle) : (t.setHdl h x).tpc = t.tpc := rfl
@[simp] theorem Thread.setHdl_tscr (t : Thread) (h : Nat) (x : Handle) : (t.setHdl h x).tscr = t.tscr := rfl
@[simp] theorem Thread.setHdl_efword (t : Thread) (h : Nat) (x : Handle) : (t.setHdl h x).efword = t.efword := rfl
@[simp] theorem Thread.setHdl_efpc (t : Thread) (h : Nat) (x : Handle) : (t.setHdl h x).efpc = t.efpc := rfl
@[simp] theorem Thread.setHdl_efinfo (t : Thread) (h : Nat) (x : Handle) : (t.setHdl h x).efinfo = t.efinfo := rfl
@[simp] theorem Thread.setHdl_vset (t : Thread) (h : Nat) (x : Handle) : (t.setHdl h x).vset = t.vset := rfl
@[simp] theorem Thread.setHdl_vover (t : Thread) (h : Nat) (x : Handle) : (t.setHdl h x).vover = t.vover := rfl
@[simp] theorem Thread.setHdl_serr (t : Thread) (h : Nat) (x : Handle) : (t.setHdl h x).serr = t.serr := rfl
@[simp] theorem Thread.setHdl_bara (t : Thread) (h : Nat) (x : Handle) : (t.setHdl h x).bara = t.bara := rfl
@[simp] theorem Thread.setHdl_seen (t : Thread) (h : Nat) (x : Handle) : (t.setHdl h x).seen = t.seen := rfl
@[simp] theorem Thread.setHdl_wword (t : Thread) (h : Nat) (x : Handle) : (t.setHdl h x).wword = t.wword := rfl
@[simp] theorem Thread.setHdl_ray (t : Thread) (h : Nat) (x : Handle) : (t.setHdl h x).ray = t.ray := rfl
@[simp] theorem Thread.advance_g (t : Thread) : (t.advance).g = t.g := rfl
@[simp] theorem Thread.advance_empty (t : Thread) : (t.advance).empty = t.empty := rfl
@[simp] theorem Thread.advance_mark (t : Thread) : (t.advance).mark = t.mark := rfl
@[simp] theorem Thread.advance_h (t : Thread) : (t.advance).h = t.h := rfl
@[simp] theorem Thread.advance_stack (t : Thread) : (t.advance).stack = t.stack := rfl
@[simp] theorem Thread.advance_csp (t : Thread) : (t.advance).csp = t.csp := rfl
@[simp] theorem Thread.advance_exited (t : Thread) : (t.advance).exited = t.exited := rfl
@[simp] theorem Thread.advance_parked (t : Thread) : (t.advance).parked = t.parked := rfl
@[simp] theorem Thread.advance_wait (t : Thread) : (t.advance).wait = t.wait := rfl
@[simp] theorem Thread.advance_age (t : Thread) : (t.advance).age = t.age := rfl
@[simp] theorem Thread.advance_inh (t : Thread) : (t.advance).inh = t.inh := rfl
@[simp] theorem Thread.advance_pprv (t : Thread) : (t.advance).pprv = t.pprv := rfl
@[simp] theorem Thread.advance_prv (t : Thread) : (t.advance).prv = t.prv := rfl
@[simp] theorem Thread.advance_tcause (t : Thread) : (t.advance).tcause = t.tcause := rfl
@[simp] theorem Thread.advance_tval (t : Thread) : (t.advance).tval = t.tval := rfl
@[simp] theorem Thread.advance_tpc (t : Thread) : (t.advance).tpc = t.tpc := rfl
@[simp] theorem Thread.advance_tscr (t : Thread) : (t.advance).tscr = t.tscr := rfl
@[simp] theorem Thread.advance_efword (t : Thread) : (t.advance).efword = t.efword := rfl
@[simp] theorem Thread.advance_efpc (t : Thread) : (t.advance).efpc = t.efpc := rfl
@[simp] theorem Thread.advance_efinfo (t : Thread) : (t.advance).efinfo = t.efinfo := rfl
@[simp] theorem Thread.advance_vset (t : Thread) : (t.advance).vset = t.vset := rfl
@[simp] theorem Thread.advance_vover (t : Thread) : (t.advance).vover = t.vover := rfl
@[simp] theorem Thread.advance_serr (t : Thread) : (t.advance).serr = t.serr := rfl
@[simp] theorem Thread.advance_bara (t : Thread) : (t.advance).bara = t.bara := rfl
@[simp] theorem Thread.advance_seen (t : Thread) : (t.advance).seen = t.seen := rfl
@[simp] theorem Thread.advance_wword (t : Thread) : (t.advance).wword = t.wword := rfl
@[simp] theorem Thread.advance_ray (t : Thread) : (t.advance).ray = t.ray := rfl
@[simp] theorem Thread.advance_pc (t : Thread) : t.advance.pc = t.pc + 8 := rfl
@[simp] theorem Thread.advance_reg (t : Thread) (r : Nat) : t.advance.reg r = t.reg r := rfl
@[simp] theorem Thread.advance_reg64 (t : Thread) (r : Nat) : t.advance.reg64 r = t.reg64 r := rfl
@[simp] theorem Thread.advance_isEmpty (t : Thread) (r : Nat) : t.advance.isEmpty r = t.isEmpty r := rfl
@[simp] theorem Thread.advance_markOf (t : Thread) (r : Nat) : t.advance.markOf r = t.markOf r := rfl
@[simp] theorem Thread.hdl_setHdl_same (t : Thread) (n : Nat) (x : Handle) : (t.setHdl n x).hdl n = x := by
  simp [Thread.hdl, Thread.setHdl]
theorem Thread.hdl_setHdl_ne {n q : Nat} (h : q ≠ n) (t : Thread) (x : Handle) : (t.setHdl n x).hdl q = t.hdl q := by
  simp [Thread.hdl, Thread.setHdl, sget_sset_ne h]

/-! ## Masks, uniform registers and tokens of a band -/

@[simp] theorem Band.mask_setMask_same (b : Band) (n : Nat) (w : Word) : (b.setMask n w).mask n = w := by
  simp [Band.mask, Band.setMask]
theorem Band.mask_setMask_ne {n q : Nat} (h : q ≠ n) (b : Band) (w : Word) : (b.setMask n w).mask q = b.mask q := by
  simp [Band.mask, Band.setMask, sget_sset_ne h]

end Sys2Proof.Machine
end

