-- ==== Sys2Proof/Laws/Ops.lean ====
section
/-!
SUPPORT. What the frame of an instruction word does (05 R159, 01 R14-R16): the pcs that move, the lanes that stop, the
bundle that remains; and, once for every word whose lanes compute from their own records, its completion and frame.
-/

namespace Sys2Proof.Machine

/-! ## Steps over a list of threads -/

/-- A loop that changes only thread records. -/
structure OnlyThreads (s t : State) : Prop where
  same : ({ t with threads := s.threads } : State) = s

theorem OnlyThreads.refl (s : State) : OnlyThreads s s := ⟨rfl⟩

theorem OnlyThreads.trans {s t u : State} (h : OnlyThreads s t) (h' : OnlyThreads t u) : OnlyThreads s u :=
  ⟨by rw [← h.same, ← h'.same]⟩

theorem OnlyThreads.onThread (s : State) (tid : Nat) (f : Thread → Thread) : OnlyThreads s (s.onThread tid f) := ⟨rfl⟩

theorem OnlyThreads.eq {s t : State} (h : OnlyThreads s t) : t = { s with threads := t.threads } := by
  rw [← h.same]

theorem forEach_nil {α : Type} (s : State) (f : State → α → State) : forEach [] s f = s := rfl

theorem forEach_cons {α : Type} (x : α) (xs : List α) (s : State) (f : State → α → State) :
    forEach (x :: xs) s f = forEach xs (f s x) f := rfl

theorem forEach_append {α : Type} (xs ys : List α) (s : State) (f : State → α → State) :
    forEach (xs ++ ys) s f = forEach ys (forEach xs s f) f := by
  simp [forEach, List.foldl_append]

/-- A loop of thread updates, each by a function of its own number alone, changes nothing but thread records. -/
theorem forEach_onThread_only (key : Nat → Nat) (g : Nat → Thread → Thread) (xs : List Nat) (s : State) :
    OnlyThreads s (forEach xs s (fun s x => s.onThread (key x) (g x))) := by
  induction xs generalizing s with
  | nil => exact .refl s
  | cons x xs ih => exact (OnlyThreads.onThread s _ _).trans (ih _)

theorem forEach_onThread_isSome (key : Nat → Nat) (g : Nat → Thread → Thread) (xs : List Nat) (s : State) (tid : Nat) :
    (find? tid (forEach xs s (fun s x => s.onThread (key x) (g x))).threads).isSome = (find? tid s.threads).isSome := by
  induction xs generalizing s with
  | nil => rfl
  | cons x xs ih => rw [forEach_cons, ih]; simp

/-- A thread that the loop does not name keeps its record. -/
theorem forEach_onThread_other {key : Nat → Nat} {xs : List Nat} {tid : Nat} (h : ∀ x ∈ xs, tid ≠ key x)
    (g : Nat → Thread → Thread) (s : State) :
    (forEach xs s (fun s x => s.onThread (key x) (g x))).thread tid = s.thread tid := by
  induction xs generalizing s with
  | nil => rfl
  | cons x xs ih =>
    rw [forEach_cons, ih (fun y hy => h y (by simp [hy])), State.thread_onThread_ne (h x (by simp))]

/-- A thread that the loop names once takes its update. -/
theorem forEach_onThread_mem {key : Nat → Nat} {xs : List Nat} {x : Nat} (hx : x ∈ xs) (hn : xs.Nodup)
    (hk : ∀ y ∈ xs, y ≠ x → key y ≠ key x) (g : Nat → Thread → Thread) {s : State}
    (hs : (find? (key x) s.threads).isSome = true) :
    (forEach xs s (fun s x => s.onThread (key x) (g x))).thread (key x) = g x (s.thread (key x)) := by
  induction xs generalizing s with
  | nil => cases hx
  | cons y ys ih =>
    rw [forEach_cons]
    have hy := List.nodup_cons.mp hn
    by_cases hxy : x = y
    · subst hxy
      rw [forEach_onThread_other, State.thread_onThread_same hs]
      intro z hz h
      exact hk z (by simp [hz]) (fun e => hy.1 (e ▸ hz)) h.symm
    · have hx' : x ∈ ys := by simpa [hxy] using hx
      rw [ih hx' hy.2 (fun z hz => hk z (by simp [hz])) (by simpa using hs),
        State.thread_onThread_ne (fun h => hk y (by simp) (Ne.symm hxy) h.symm)]

/-! ## The bundle (R14) -/

/-- No value of a list is more common than one, and none that is as common is lower. -/
def Common (xs : List Nat) (x : Nat) : Prop := ∀ y ∈ xs, xs.count y < xs.count x ∨ (xs.count y = xs.count x ∧ x ≤ y)

/-- A search that has found the most common value of some part of a list goes on to find that of more of it. -/
theorem mostCommon_fold (all : List Nat) (ys : List Nat) (b : Nat) :
    ∃ x, ys.foldl (fun best x => match best with
        | none => some x
        | some b => let cb := all.count b; let cx := all.count x
                    if cx > cb || (cx == cb && x < b) then some x else some b) (some b) = some x ∧
      ∀ y ∈ b :: ys, all.count y < all.count x ∨ (all.count y = all.count x ∧ x ≤ y) := by
  induction ys generalizing b with
  | nil => exact ⟨b, rfl, by simp⟩
  | cons z zs ih =>
    rw [List.foldl_cons]
    dsimp only
    split
    · rename_i h
      obtain ⟨x, hx, hy⟩ := ih z
      refine ⟨x, hx, fun y m => ?_⟩
      rcases List.mem_cons.mp m with rfl | m
      · have := hy z (by simp)
        simp only [Bool.or_eq_true, decide_eq_true_eq, Bool.and_eq_true, beq_iff_eq] at h
        omega
      · exact hy y m
    · rename_i h
      obtain ⟨x, hx, hy⟩ := ih b
      refine ⟨x, hx, fun y m => ?_⟩
      simp only [Bool.or_eq_true, decide_eq_true_eq, Bool.and_eq_true, beq_iff_eq, not_or, not_and] at h
      rcases List.mem_cons.mp m with rfl | m
      · exact hy y (by simp)
      · rcases List.mem_cons.mp m with rfl | m
        · have := hy b (by simp)
          have h2 := h.2
          by_cases e : all.count y = all.count b
          · have := h2 e; omega
          · omega
        · exact hy y (by simp [m])

/-- What the search finds is the most common value of its list. -/
theorem mostCommon_common {xs : List Nat} {x : Nat} (h : mostCommon xs = some x) : Common xs x := by
  cases xs with
  | nil => cases h
  | cons z zs =>
    obtain ⟨y, hy, hc⟩ := mostCommon_fold (z :: zs) zs z
    have e : some y = some x := hy.symm.trans h
    cases e
    exact hc

theorem mostCommon_none {xs : List Nat} (h : mostCommon xs = none) : xs = [] := by
  cases xs with
  | nil => rfl
  | cons z zs =>
    obtain ⟨y, hy, _⟩ := mostCommon_fold (z :: zs) zs z
    exact absurd (hy.symm.trans h) (by simp)

theorem keepAmong_rest (s : State) (bid : Nat) (lanes : List Nat) :
    ∃ b, s.keepAmong bid lanes = s.onBand bid (fun x => { x with bundle := b }) := by
  unfold State.keepAmong
  dsimp only
  split
  · exact ⟨_, rfl⟩
  · exact ⟨_, rfl⟩

/-- The bundle after a word is the one that R14 gives. -/
theorem keepAmong_bundled {s : State} {bid : Nat} (hb : (find? bid s.bands).isSome = true) (lanes : List Nat) :
    Bundled (s.keepAmong bid lanes) bid lanes := by
  unfold State.keepAmong
  dsimp only
  split
  · rename_i h
    have h := mostCommon_none h
    have h : lanes.filter (fun l => (s.thread (32 * bid + l)).free) = [] := by simpa using h
    refine ⟨0, ?_, ?_⟩
    · rw [State.band_onBand_same hb]
      simp only [State.thread_onBand, h, List.filter_nil]
    · simp only [State.thread_onBand, h, List.map_nil]
      intro y hy
      cases hy
  · rename_i x h
    refine ⟨x, ?_, ?_⟩
    · rw [State.band_onBand_same hb]
      simp only [State.thread_onBand]
    · simp only [State.thread_onBand]
      exact mostCommon_common h

theorem keepBundle_rest (s : State) (bid : Nat) (lanes : List Nat) :
    ∃ b, s.keepBundle bid lanes = s.onBand bid (fun x => { x with bundle := b }) := keepAmong_rest s bid _

@[simp] theorem thread_keepBundle (s : State) (bid : Nat) (lanes : List Nat) (tid : Nat) :
    (s.keepBundle bid lanes).thread tid = s.thread tid := by
  obtain ⟨b, h⟩ := keepBundle_rest s bid lanes
  rw [h]; rfl

/-! ## A word that every selected lane passes -/

theorem performs_selected {i : Instr} {ms : BitVec 4} (h : msOf i = some ms) (s : State) (l : Nat) :
    performs s ms l = selected i s l := by simp [selected, h]

/-- `perform` of a word whose selected lanes all pass: the pcs move, then the effect takes place for the performers. -/
theorem perform_pass {i : Instr} {s : State} {own : State → Nat → Check} {eff : State → List Nat → State}
    (hi : Issuing i s) (hp : AllPass i s own) :
    perform i s own eff =
      (if performers i s = [] then s.moved i else eff (s.moved i) (performers i s)).keepBundle s.cur.bid s.cur.lanes := by
  obtain ⟨ms, hms, hok⟩ := hi.select
  have hgo : (s.cur.lanes.filter (performs s ms)).filter (fun l => verdict i s own l == .pass) =
      s.cur.lanes.filter (selected i s) := by
    rw [List.filter_filter]
    refine List.filter_congr fun l hl => ?_
    rw [performs_selected hms]
    by_cases h : selected i s l = true
    · simp [h, hp l hl h]
    · simp [h]
  have hstop : ∀ (xs : List Nat) (x : State), (∀ l ∈ xs, l ∈ s.cur.lanes ∧ selected i s l = true) →
      forEach xs x (fun x l => x.stop (32 * s.cur.bid + l) (verdict i s own l)) = x := by
    intro xs
    induction xs with
    | nil => intro x _; rfl
    | cons y ys ih =>
      intro x h
      rw [forEach_cons, hp y (h y (by simp)).1 (h y (by simp)).2]
      exact ih x (fun l hl => h l (by simp [hl]))
  have hact : ∀ l ∈ s.cur.lanes.filter (performs s ms), l ∈ s.cur.lanes ∧ selected i s l = true := by
    intro l hl
    have := List.mem_filter.mp hl
    exact ⟨this.1, performs_selected hms s l ▸ this.2⟩
  have hkeep : s.cur.lanes.filter (fun l => verdict i s own l != .wait || !performs s ms l) = s.cur.lanes := by
    rw [List.filter_eq_self]
    intro l hl
    rw [performs_selected hms]
    by_cases h : selected i s l = true
    · simp [h, hp l hl h]
    · simp [h]
  unfold perform
  simp only [hms, hok, Bool.not_true, Bool.false_eq_true, if_false]
  rw [hgo, hstop _ _ hact, hkeep]
  have hidle : s.cur.lanes.filter (fun l => !performs s ms l) = s.cur.lanes.filter (fun l => !selected i s l) :=
    List.filter_congr fun l _ => by rw [performs_selected hms]
  rw [hidle]
  simp only [State.moved, performers, List.isEmpty_iff, List.map_eq_nil_iff]
  rfl

theorem moved_only (i : Instr) (s : State) : OnlyThreads s (s.moved i) :=
  forEach_onThread_only s.here (fun _ => Thread.advance) _ s

theorem here_inj {s : State} {l k : Nat} (h : s.here l = s.here k) : l = k := by
  unfold State.here at h; omega

theorem moved_nodup {i : Instr} {s : State} (h : s.cur.lanes.Nodup) :
    (s.cur.lanes.filter (fun l => !selected i s l) ++ s.cur.lanes.filter (selected i s)).Nodup := by
  refine List.nodup_append.mpr ⟨List.Pairwise.filter _ h, List.Pairwise.filter _ h, ?_⟩
  intro a ha b hb hab
  subst hab
  have h1 := (List.mem_filter.mp ha).2
  have h2 := (List.mem_filter.mp hb).2
  simp [h2] at h1

/-- Every lane of the bundle has moved past the word. -/
theorem thread_moved {i : Instr} {s : State} (hi : Issuing i s) {l : Nat} (hl : l ∈ s.cur.lanes) :
    (s.moved i).thread (s.here l) = (s.thread (s.here l)).advance := by
  refine forEach_onThread_mem (key := s.here) (g := fun _ => Thread.advance) ?_ (moved_nodup hi.nodup)
    (fun y _ hy e => hy (here_inj e)) (hi.lanes l hl).2
  by_cases h : selected i s l = true <;> simp [hl, h]

theorem thread_moved_other {i : Instr} {s : State} {tid : Nat} (h : ∀ l ∈ s.cur.lanes, tid ≠ s.here l) :
    (s.moved i).thread tid = s.thread tid := by
  refine forEach_onThread_other (key := s.here) (fun x hx => h x ?_) (fun _ => Thread.advance) s
  rcases List.mem_append.mp hx with hx | hx <;> exact (List.mem_filter.mp hx).1

theorem isSome_moved (i : Instr) (s : State) (tid : Nat) :
    (find? tid (s.moved i).threads).isSome = (find? tid s.threads).isSome :=
  forEach_onThread_isSome s.here (fun _ => Thread.advance) _ s tid

theorem performers_nodup {i : Instr} {s : State} (h : s.cur.lanes.Nodup) : (performers i s).Nodup :=
  List.Pairwise.map s.here (fun _ _ hne e => hne (here_inj e)) (List.Pairwise.filter _ h)

theorem mem_performers {i : Instr} {s : State} {l : Nat} :
    s.here l ∈ performers i s ↔ l ∈ s.cur.lanes ∧ selected i s l = true := by
  simp only [performers, List.mem_map, List.mem_filter]
  constructor
  · rintro ⟨k, hk, e⟩
    exact here_inj e ▸ hk
  · exact fun h => ⟨l, h, rfl⟩

theorem eachThread_eq (f : State → Nat → Thread → Thread) (x : State) (tids : List Nat) :
    eachThread f x tids = forEach tids x (fun y tid => y.onThread tid (f x tid)) := rfl

/-- A word whose performing lanes each compute from their own record completes, and changes nothing else. -/
theorem lanewise_completes {i : Instr} {s : State} {own : State → Nat → Check} {f : State → Nat → Thread → Thread}
    (hi : Issuing i s) (hp : AllPass i s own) :
    ∃ t, lanewise i s own f = .next t ∧ OnlyBundle s t ∧
      ∀ l ∈ s.cur.lanes, t.thread (s.here l) =
        if selected i s l then f (s.moved i) (s.here l) (s.thread (s.here l)).advance
        else (s.thread (s.here l)).advance := by
  refine ⟨_, rfl, ?_⟩
  rw [perform_pass hi hp]
  have heff : (if performers i s = [] then s.moved i else eachThread f (s.moved i) (performers i s)) =
      eachThread f (s.moved i) (performers i s) := by
    split
    · rename_i h; rw [h]; rfl
    · rfl
  rw [heff]
  generalize hx : eachThread f (s.moved i) (performers i s) = x
  have honly : OnlyThreads s x := by
    subst hx
    exact (moved_only i s).trans (forEach_onThread_only id (f (s.moved i)) _ _)
  have hsel : ∀ l ∈ s.cur.lanes, x.thread (s.here l) =
      if selected i s l then f (s.moved i) (s.here l) (s.thread (s.here l)).advance
      else (s.thread (s.here l)).advance := by
    intro l hl
    subst hx
    split
    · rename_i hs
      rw [← thread_moved hi hl]
      exact forEach_onThread_mem (key := id) (mem_performers.mpr ⟨hl, hs⟩) (performers_nodup hi.nodup)
        (fun _ _ h => h) (f (s.moved i)) (by rw [isSome_moved]; exact (hi.lanes l hl).2)
    · rename_i hs
      rw [← thread_moved hi hl]
      refine forEach_onThread_other (key := id) ?_ (f (s.moved i)) _
      intro y hy e
      exact hs (mem_performers.mp (show s.here l ∈ _ from e ▸ hy)).2
  have hcur : x.cur = s.cur := by rw [honly.eq]
  have hsplit : Bundled (x.keepBundle s.cur.bid s.cur.lanes) s.cur.bid (s.cur.lanes ++ s.cur.trapped) := by
    unfold State.keepBundle
    rw [hcur]
    exact keepAmong_bundled (by rw [honly.eq]; exact hi.band) _
  obtain ⟨b, hb⟩ := keepBundle_rest x s.cur.bid s.cur.lanes
  refine ⟨⟨?_, ?_, ?_, hsplit, ?_⟩, ?_⟩
  · intro tid h
    rw [thread_keepBundle]
    subst hx
    rw [← thread_moved_other (i := i) h]
    refine forEach_onThread_other (key := id) ?_ (f (s.moved i)) _
    intro y hy e
    obtain ⟨l, hl, rfl⟩ := List.mem_map.mp hy
    exact h l (List.mem_filter.mp hl).1 e
  · intro c hc
    rw [hb, State.band_onBand_ne hc, honly.eq]
    rfl
  · rw [hb, State.band_onBand_same (by rw [honly.eq]; exact hi.band), honly.eq]
    rfl
  · rw [hb, honly.eq]
    rfl
  · intro l hl
    rw [thread_keepBundle]
    exact hsel l hl

end Sys2Proof.Machine
end

