-- ==== Sys2Proof/Laws/Frame.lean ====
section
/-!
SUPPORT. The frames of words that act lane after lane, of late results and of a bundle of one thread: what `performEach`, `latewise`,
`statusWord` and `raise` can do, each said once (05 R159, R175, 13 R313-R315, R328).
-/

namespace Sys2Proof.Machine

/-! ## A bundle of one thread -/

/-- The one lane of a bundle that its word selects does not pass: it stops as its check says. -/
theorem perform_stops {i : Instr} {s : State} {own : State → Nat → Check} {eff : State → List Nat → State} {l : Nat}
    (hi : Issuing i s) (hl : s.cur.lanes = [l]) (hs : selected i s l = true) {c : Check} (hv : verdict i s own l = c)
    (hp : c ≠ .pass) : perform i s own eff = (s.stop (s.here l) c).keepBundle s.cur.bid (if c = .wait then [] else [l]) := by
  obtain ⟨ms, hms, hok⟩ := hi.select
  have hps : performs s ms l = true := by rw [performs_selected hms]; exact hs
  have hne : (verdict i s own l == Check.pass) = false := by rw [hv]; simpa using hp
  unfold perform
  simp only [hms, hok, hl, List.filter_cons, List.filter_nil, hps, hne, Bool.not_true, Bool.false_eq_true, if_true, if_false,
    List.append_nil, List.isEmpty_nil, forEach_nil, forEach_cons]
  rw [show (32 * s.cur.bid + l) = s.here l from rfl, hv]
  by_cases hw : c = .wait
  · subst hw; simp
  · simp [hw]

/-- A lane that the word does not select only moves past it. -/
theorem laneTurn_idle {i : Instr} {s : State} {own : State → Nat → Check} {eff : State → Nat → State} {ms : BitVec 4}
    (hms : msOf i = some ms) {l : Nat} (h : selected i s l = false) (acc : State × List Nat) :
    laneTurn i s ms own eff acc l = (acc.1.onThread (s.here l) Thread.advance, acc.2 ++ [l]) := by
  have hl : performs s ms l = false := by rw [performs_selected hms]; exact h
  simp [laneTurn, hl, State.here]

/-- A lane that the word selects and that passes takes the word's effect. -/
theorem laneTurn_passes {i : Instr} {s : State} {own : State → Nat → Check} {eff : State → Nat → State} {ms : BitVec 4}
    (hms : msOf i = some ms) {l : Nat} (h : selected i s l = true) {acc : State × List Nat}
    (hv : verdict i { acc.1 with cur := s.cur } own l = .pass) :
    laneTurn i s ms own eff acc l = (eff (acc.1.onThread (s.here l) Thread.advance) (s.here l), acc.2 ++ [l]) := by
  have hl : performs s ms l = true := by rw [performs_selected hms]; exact h
  simp [laneTurn, hl, hv, State.here]

/-- A lane that the word selects and that does not pass stops, and leaves the bundle where it waits. -/
theorem laneTurn_stops {i : Instr} {s : State} {own : State → Nat → Check} {eff : State → Nat → State} {ms : BitVec 4}
    (hms : msOf i = some ms) {l : Nat} (h : selected i s l = true) {acc : State × List Nat} {c : Check}
    (hv : verdict i { acc.1 with cur := s.cur } own l = c) (hp : c ≠ .pass) :
    laneTurn i s ms own eff acc l = (acc.1.stop (s.here l) c, if c = .wait then acc.2 else acc.2 ++ [l]) := by
  have hl : performs s ms l = true := by rw [performs_selected hms]; exact h
  simp only [laneTurn, hl, hv, if_true]
  cases c <;> simp_all [State.stop, State.here]

theorem performEach_stops {i : Instr} {s : State} {own : State → Nat → Check} {eff : State → Nat → State} {l : Nat}
    (hi : Issuing i s) (hl : s.cur.lanes = [l]) (hs : selected i s l = true) {c : Check} (hv : verdict i s own l = c)
    (hp : c ≠ .pass) : performEach i s own eff = (s.stop (s.here l) c).keepBundle s.cur.bid (if c = .wait then [] else [l]) := by
  obtain ⟨ms, hms, hok⟩ := hi.select
  unfold performEach
  simp only [hms, hok, hl, List.foldl_cons, List.foldl_nil, Bool.not_true, Bool.false_eq_true, if_false]
  rw [laneTurn_stops (acc := (s, [])) hms hs hv hp]
  rfl

/-- Lanes that the word does not select only move past it. -/
theorem laneTurns_idle {i : Instr} {s : State} {own : State → Nat → Check} {eff : State → Nat → State} {ms : BitVec 4}
    (hms : msOf i = some ms) {ls : List Nat} (h : ∀ l ∈ ls, selected i s l = false) (acc : State × List Nat) :
    ls.foldl (laneTurn i s ms own eff) acc =
      (Machine.forEach ls acc.1 (fun x l => x.onThread (s.here l) Thread.advance), acc.2 ++ ls) := by
  induction ls generalizing acc with
  | nil => simp [Machine.forEach]
  | cons l ls ih =>
    rw [List.foldl_cons, laneTurn_idle hms (h l (by simp)), ih (fun m hm => h m (by simp [hm]))]
    simp [forEach_cons]

/-- One lane of the bundle performs a lane-by-lane word and passes: the idle lanes before it have moved, it takes effect, and those
after it move. -/
theorem performEach_alone {i : Instr} {s : State} {own : State → Nat → Check} {eff : State → Nat → State} {l : Nat}
    {pre post : List Nat} (hi : Issuing i s) (hl : s.cur.lanes = pre ++ l :: post) (hs : selected i s l = true)
    (hpre : ∀ m ∈ pre, selected i s m = false) (hpost : ∀ m ∈ post, selected i s m = false) {x : State}
    (hx : forEach pre s (fun x m => x.onThread (s.here m) Thread.advance) = x)
    (hv : verdict i { x with cur := s.cur } own l = .pass) :
    performEach i s own eff =
      (forEach post (eff (x.onThread (s.here l) Thread.advance) (s.here l))
        (fun y m => y.onThread (s.here m) Thread.advance)).keepBundle s.cur.bid s.cur.lanes := by
  obtain ⟨ms, hms, hok⟩ := hi.select
  unfold performEach
  simp only [hms, hok, Bool.not_true, Bool.false_eq_true, if_false]
  rw [hl, List.foldl_append, laneTurns_idle hms hpre, List.foldl_cons]
  dsimp only
  rw [hx, laneTurn_passes (acc := (x, [] ++ pre)) hms hs hv, laneTurns_idle hms hpost]
  simp

/-- The word of a bundle of one thread that passes: the effect on the state in which its pc has moved. -/
theorem performEach_passes {i : Instr} {s : State} {own : State → Nat → Check} {eff : State → Nat → State} {l : Nat}
    (hi : Issuing i s) (hl : s.cur.lanes = [l]) (hs : selected i s l = true) (hv : verdict i s own l = .pass) :
    performEach i s own eff = (eff (s.onThread (s.here l) Thread.advance) (s.here l)).keepBundle s.cur.bid [l] := by
  have hv' : verdict i { s with cur := s.cur } own l = .pass := by
    rw [show ({ s with cur := s.cur } : State) = s from rfl]
    exact hv
  rw [performEach_alone hi (pre := []) (post := []) hl hs (by simp) (by simp) (forEach_nil s _) hv', hl]
  rfl

/-! ## Traps (13 R313-R315) -/

/-- A thread outside a trap whose band has a handler can perform trap entry. -/
theorem mayTrap_of {s : State} {tid : Nat} (hi : (s.thread tid).inh = false) (hv : addrField (s.band (bandOf tid)).tvec ≠ 0) :
    s.mayTrap tid = true := by
  rw [State.mayTrap, hi]
  exact bne_iff_ne.mpr hv |>.symm ▸ rfl

/-- A cause with a handler, outside a trap and not one that parks: trap entry, and nothing else. -/
theorem raise_enters {s : State} {tid cause : Nat} {tval : DWord} (hp : parks cause (unitOf tid) = false)
    (hi : (s.thread tid).inh = false) (hv : addrField (s.band (bandOf tid)).tvec ≠ 0) :
    s.raise tid cause tval =
      s.onThread tid (fun t => t.trapEntry (s.band (bandOf tid)).tvec (BitVec.ofNat 64 cause) tval) := by
  simp [State.raise, hp, mayTrap_of hi hv]

/-- A cause of the thread's own access on a shader core, with a handler and outside a trap, parks it at the word. -/
theorem raise_parks {s : State} {tid cause : Nat} {tval : DWord} (hp : parks cause (unitOf tid) = true)
    (hi : (s.thread tid).inh = false) (hv : addrField (s.band (bandOf tid)).tvec ≠ 0) :
    s.raise tid cause tval = s.park tid cause tval false := by
  simp [State.raise, hp, mayTrap_of hi hv]

/-- A cause with no handler, or inside a trap. -/
theorem raise_doubles {s : State} {tid cause : Nat} {tval : DWord}
    (h : (s.thread tid).inh = true ∨ addrField (s.band (bandOf tid)).tvec = 0) :
    s.raise tid cause tval = s.doubleTrap tid cause tval := by
  rcases h with h | h <;> simp [State.raise, State.mayTrap, h]

/-- Parking changes the thread and the held notices of its core, and nothing else. -/
theorem park_rest (s : State) (tid cause : Nat) (tval : DWord) (d : Bool) :
    ({ s.park tid cause tval d with threads := s.threads, cores := s.cores } : State) = s := rfl

/-! ## Late results (R175) -/

/-- A late result empties its registers and is on its way; nothing else changes but the next unused name. -/
theorem deliverLate_rest (s : State) (tid r : Nat) (ws : List Word) :
    ({ s.deliverLate tid r ws with threads := s.threads, lates := s.lates, fresh := s.fresh } : State) = s := rfl

theorem deliverLate_lates (s : State) (tid r : Nat) (ws : List Word) :
    (s.deliverLate tid r ws).lates =
      s.lates ++ [{ id := s.fresh, tid := tid, words := ((List.range ws.length).map (r + ·)).zip ws }] := rfl

theorem deliverLate_threads (s : State) (tid r : Nat) (ws : List Word) :
    (s.deliverLate tid r ws).threads = smod tid (fun t => t.emptyRegs r ws.length) s.threads := rfl

theorem emptyRegs_isEmpty (t : Thread) (r : Nat) : (t.emptyRegs r 1).isEmpty r = true := by
  simp [Thread.emptyRegs, Thread.isEmpty]

/-- A status that arrives late is as the statements say it. -/
theorem statusComes_deliverLate {s : State} {tid : Nat} (h : (find? tid s.threads).isSome = true) (d : Nat) (w : Word) :
    StatusComes (s.deliverLate tid d [w]) tid d w := by
  refine ⟨?_, { id := s.fresh, tid := tid, words := [(d, w)] }, ?_, rfl, rfl, rfl⟩
  · show ((s.onThread tid (fun t => t.emptyRegs d 1)).thread tid).isEmpty d = true
    rw [State.thread_onThread_same h]
    exact emptyRegs_isEmpty _ d
  · rw [deliverLate_lates]
    simp

end Sys2Proof.Machine
end

