-- ==== Sys2Proof/Laws/Slices.lean ====
section
/-!
SUPPORT. What the slices and the DRAM behind them can change: lines, versions, floors, poison, damage, queues of sub-channels, error
records and tests, and nothing else of the state.
-/

namespace Sys2Proof.Machine

/-- A state differs from another at most in what slices and memory controllers hold and record. -/
structure SliceFrame (s t : State) : Prop where
  same : t = { s with
    hbm := t.hbm, dies := t.dies, tests := t.tests, poison := t.poison, damage := t.damage, l2 := t.l2, versions := t.versions, lost := t.lost,
    floors := t.floors, baseFloors := t.baseFloors, free := t.free, fallbackFences := t.fallbackFences }

namespace SliceFrame

theorem refl (s : State) : SliceFrame s s := ⟨rfl⟩

theorem trans {s t u : State} (h : SliceFrame s t) (g : SliceFrame t u) : SliceFrame s u := by
  constructor
  have h := h.same
  have g := g.same
  rw [h] at g
  exact g

/-- Loops whose steps stay inside the frame do. -/
theorem foldl {α : Type} {f : State → α → State} (hf : ∀ s x, SliceFrame s (f s x)) (xs : List α) (s : State) :
    SliceFrame s (xs.foldl f s) := by
  induction xs generalizing s with
  | nil => exact .refl s
  | cons x xs ih => exact (hf s x).trans (ih _)

theorem forEach {α : Type} {f : State → α → State} (hf : ∀ s x, SliceFrame s (f s x)) (xs : List α) (s : State) :
    SliceFrame s (forEach xs s f) := foldl hf xs s

theorem onStack (s : State) (n : Nat) (f : Stack → Stack) : SliceFrame s (s.onStack n f) := ⟨rfl⟩
theorem onDie (s : State) (d : Nat) (f : Die → Die) : SliceFrame s (s.onDie d f) := ⟨rfl⟩
theorem poison (s : State) (a : Nat) (p : Bool) : SliceFrame s (s.setPoison .phys a p) := ⟨rfl⟩
theorem l2 (s : State) (m : List (Nat × L2Line)) : SliceFrame s { s with l2 := m } := ⟨rfl⟩

theorem flags (s : State) (n : Nat) (l : List (Nat × Bool)) (v : List (Nat × Version)) :
    SliceFrame s { s with free := n, lost := l, versions := v } := ⟨rfl⟩
theorem tests (s : State) (ts : List (Structure × Nat)) : SliceFrame s { s with tests := ts } := ⟨rfl⟩

theorem poisonAll (s : State) (xs : List Nat) : SliceFrame s (s.poisonAll xs) := forEach (fun s x => poison s x true) xs s

theorem recordAs (s : State) (kind cls result : Nat) (field : Option Nat) (st : Structure) :
    SliceFrame s (s.recordAs kind cls result field st) := by
  unfold State.recordAs
  exact onDie _ _ _

theorem record (s : State) (kind cls : Nat) (field : Option Nat) (st : Structure) : SliceFrame s (s.record kind cls field st) := by
  unfold State.record
  dsimp only
  split
  · exact recordAs _ _ _ _ _ _
  · exact (recordAs _ _ _ _ _ _).trans ⟨rfl⟩

theorem dramAccess (s : State) (pa : Nat) (write : Bool) (w : Who) : SliceFrame s (s.dramAccess pa write w) :=
  forEach (fun s _ => onStack s _ _) _ s

theorem hurtUnit (s : State) (pa : Nat) (errs : List (List Nat)) : SliceFrame s (s.hurtUnit pa errs) := by
  unfold State.hurtUnit
  split <;> exact ⟨rfl⟩

theorem poisonLine (s : State) (line : Nat) : SliceFrame s (s.poisonLine line) := forEach (fun s _ => poison s _ _) _ s

theorem loseVersion (s : State) (line : Nat) : SliceFrame s (s.loseVersion line) := by
  unfold State.loseVersion
  split
  · exact refl s
  · exact (poisonLine s line).trans (flags _ _ _ _)

theorem loseChannel (s : State) (pa c : Nat) : SliceFrame s (s.loseChannel pa c) := by
  unfold State.loseChannel
  exact ((onStack s _ _).trans (record _ _ _ _ _)).trans (tests _ _)

theorem readWord (s : State) (g : Gran) (held : Nat → Bool) (a : Nat) (places : List Nat) (bad : Bool) :
    SliceFrame s (s.readWord g held a places bad) := by
  unfold State.readWord
  dsimp only
  split
  · split
    · exact (record _ _ _ _ _).trans (poisonAll _ _)
    · exact (record _ _ _ _ _).trans (loseVersion _ _)
  · split
    · exact refl s
    · exact record _ _ _ _ _

theorem readUnit (s : State) (pa : Nat) (held : Nat → Bool) (w : Who) : SliceFrame s (s.readUnit pa held w) := by
  unfold State.readUnit
  dsimp only
  split
  · exact (((dramAccess s pa false w).trans (forEach (fun _ _ => readWord _ _ _ _ _ _) _ _)).trans (poisonAll _ _)).trans (loseChannel _ _ _)
  · exact ((dramAccess s pa false w).trans (forEach (fun _ _ => readWord _ _ _ _ _ _) _ _)).trans (poisonAll _ _)

theorem writeUnit (s : State) (pa : Nat) : SliceFrame s (s.writeUnit pa) := (dramAccess s _ _ _).trans ⟨rfl⟩

theorem raiseFloor (s : State) (sl : Nat) (v : Version) : SliceFrame s (s.raiseFloor sl v) := by
  unfold State.raiseFloor
  dsimp only
  split <;> exact ⟨rfl⟩

theorem writeDirty (s : State) (line : Nat) : SliceFrame s (s.writeDirty line) := by
  unfold State.writeDirty
  split
  · exact refl s
  · split
    · refine forEach (fun s u => ?_) _ s
      dsimp only
      split
      · exact writeUnit _ _
      · exact (readUnit _ _ _ _).trans (writeUnit _ _)
    · split
      · exact refl s
      · exact (writeUnit s _).trans ⟨rfl⟩

theorem dropLine (s : State) (line : Nat) : SliceFrame s (s.dropLine line) := by
  unfold State.dropLine
  split
  · exact refl s
  · dsimp only
    have h := (writeDirty s line).trans (l2 _ (serase line (s.writeDirty line).l2))
    split
    · exact (h.trans (raiseFloor _ _ _)).trans ⟨rfl⟩
    · exact h

/-- A line that leaves its slice leaves every byte of memory as it is. -/
theorem evict (s : State) (line : Nat) : SliceFrame s (s.evict line) := by
  unfold State.evict
  dsimp only
  split
  · exact refl s
  · exact forEach dropLine _ s

theorem flushSlice (s : State) (sl : Nat) : SliceFrame s (s.flushSlice sl) := by
  unfold State.flushSlice
  refine forEach (fun s l => ?_) _ s
  split
  · exact (((SliceFrame.mk rfl : SliceFrame s { s with lost := serase l s.lost }).trans (poisonLine _ l)).trans (writeUnit _ _)).trans (dropLine _ l)
  · exact dropLine s l

theorem allot (s : State) (line : Nat) : SliceFrame s (s.allot line) := by
  unfold State.allot
  split
  · exact refl s
  · dsimp only
    split
    · exact refl s
    · exact (forEach evict _ s).trans (forEach (fun _ _ => ⟨rfl⟩) _ _)

theorem addValid (s : State) (line : Nat) (secs : List Nat) : SliceFrame s (s.addValid line secs) := l2 s _

theorem fillUnit (s : State) (line u : Nat) (w : Who) : SliceFrame s (s.fillUnit line u w) := by
  unfold State.fillUnit
  dsimp only
  split
  · split
    · exact refl s
    · exact (readUnit _ _ _ _).trans (addValid _ _ _)
  · split
    · exact refl s
    · exact (readUnit _ _ _ _).trans (forEach (fun s l => addValid s l _) _ _)

theorem fenceSlice (s : State) (d sl : Nat) : SliceFrame s (s.fenceSlice d sl) := by
  unfold State.fenceSlice
  exact ((flushSlice s _).trans (onDie _ _ _)).trans ⟨rfl⟩

theorem settleFlags (s : State) (pa : Nat) : SliceFrame s (s.settleFlags pa) := by
  unfold State.settleFlags
  split
  · exact refl s
  · exact (recordAs _ _ _ _ _ _).trans (fenceSlice _ _ _)

/-- A load's access at its home. -/
theorem touch (s : State) (line : Nat) (sectors : List Nat) (w : Who) : SliceFrame s (s.touch line sectors w) := by
  unfold State.touch
  dsimp only
  split
  · exact refl s
  · split
    · exact forEach (fun s _ => readUnit s _ _ _) _ s
    · exact ((allot s line).trans (forEach (fun s _ => fillUnit s _ _ _) _ _)).trans (settleFlags _ _)

/-- A store's access at its home, before its bytes. -/
theorem touchStore (s : State) (line : Nat) (whole part : List Nat) (w : Who) : SliceFrame s (s.touchStore line whole part w) := by
  unfold State.touchStore
  dsimp only
  split
  · exact refl s
  · split
    · split
      · refine forEach (fun s u => ?_) _ s
        split
        · exact writeUnit _ _
        · exact (readUnit _ _ _ _).trans (writeUnit _ _)
      · exact (readUnit _ _ _ _).trans (writeUnit _ _)
    · split
      · exact ((allot s line).trans (forEach (fun s _ => fillUnit s _ _ _) _ _)).trans (addValid _ _ _)
      · exact touch _ _ _ _

/-- A read that does not allocate. -/
theorem readThrough (s : State) (line : Nat) (sectors : List Nat) (w : Who) : SliceFrame s (s.readThrough line sectors w) := by
  unfold State.readThrough
  dsimp only
  split
  · exact refl s
  · split
    · exact touch _ _ _ _
    · split
      · exact forEach (fun s _ => readUnit s _ _ _) _ s
      · exact readUnit _ _ _ _

/-- The reads of some addresses at their homes. -/
theorem fillFor (s : State) (w : Who) (pl : Place) (addrs : List Nat) : SliceFrame s (s.fillFor w pl addrs) := by
  cases pl with
  | phys => exact forEach (fun s l => touch s l _ w) _ s
  | scratch aid => exact refl s
  | staging d sl => exact refl s

theorem soil (s : State) (line : Nat) (sectors : List Nat) : SliceFrame s (s.soil line sectors) := l2 s _

theorem bump (s : State) (line : Nat) : SliceFrame s (s.bump line) := by
  unfold State.bump
  dsimp only
  split <;> exact ⟨rfl⟩

end SliceFrame

end Sys2Proof.Machine
end

