-- ==== Sys2Proof/Laws/Memory.lean ====
section
/-!
SUPPORT. The memories of the machine (04, log 3): every operation keeps their canonical form, a write is read back, and leaves every
other byte as it was.
-/

namespace Sys2Proof.Machine

/-! ## One memory -/

theorem Memory.wf_nil : Memory.wf [] = true := rfl

theorem Memory.wf_write {m : List Host.Cell} (h : Memory.wf m = true) (a : Nat) (b : Byte) :
    Memory.wf (Memory.write m a b) = true := canonical_sset Memory.blank a b h

theorem Memory.wf_writeAll {m : List Host.Cell} (h : Memory.wf m = true) (bs : List (Nat × Byte)) :
    Memory.wf (Memory.writeAll m bs) = true := by
  induction bs generalizing m with
  | nil => exact h
  | cons p t ih => exact ih (Memory.wf_write h p.1 p.2)

/-- Dropping cells keeps the form. -/
theorem Memory.wf_filter {m : List Host.Cell} (h : Memory.wf m = true) (f : Host.Cell → Bool) :
    Memory.wf (m.filter f) = true := by
  simp only [Memory.wf, canonical, Bool.and_eq_true, List.all_eq_true, decide_eq_true_eq] at *
  refine ⟨?_, fun p hp => h.2 p (List.mem_filter.mp hp).1⟩
  rw [keysRise_pairwise] at *
  exact List.Pairwise.sublist ((List.filter_sublist (p := f) (l := m)).map _) h.1

@[simp] theorem Memory.read_write_same (m : List Host.Cell) (a : Nat) (b : Byte) :
    Memory.read (Memory.write m a b) a = b := sget_sset_same Memory.blank m a b

theorem Memory.read_write_ne {a c : Nat} (h : c ≠ a) (m : List Host.Cell) (b : Byte) :
    Memory.read (Memory.write m a b) c = Memory.read m c := sget_sset_ne h Memory.blank m b

/-- A write of several bytes leaves the bytes it does not name. -/
theorem Memory.read_writeAll_ne {bs : List (Nat × Byte)} {c : Nat} (h : c ∉ bs.map (·.1)) (m : List Host.Cell) :
    Memory.read (Memory.writeAll m bs) c = Memory.read m c := by
  induction bs generalizing m with
  | nil => rfl
  | cons p t ih =>
    obtain ⟨a, b⟩ := p
    simp only [List.map_cons, List.mem_cons, not_or] at h
    show Memory.read (Memory.writeAll (Memory.write m a b) t) c = _
    rw [ih h.2, Memory.read_write_ne h.1]

/-- Bytes written at distinct addresses are read back. -/
theorem Memory.read_writeAll_mem {bs : List (Nat × Byte)} (hn : (bs.map (·.1)).Nodup) {p : Nat × Byte} (hp : p ∈ bs)
    (m : List Host.Cell) : Memory.read (Memory.writeAll m bs) p.1 = p.2 := by
  induction bs generalizing m with
  | nil => cases hp
  | cons q t ih =>
    obtain ⟨a, b⟩ := q
    simp only [List.map_cons, List.nodup_cons] at hn
    show Memory.read (Memory.writeAll (Memory.write m a b) t) p.1 = _
    rcases List.mem_cons.mp hp with rfl | h
    · rw [Memory.read_writeAll_ne hn.1, Memory.read_write_same]
    · exact ih hn.2 h _

/-! ## Every memory of the machine -/

/-- Records that a change of every value of a table keeps to a property. -/
theorem smod_all {α : Type} {P : α → Prop} {k : Nat} {f : α → α} {m : List (Nat × α)} (h : ∀ p ∈ m, P p.2)
    (hf : ∀ x, P x → P (f x)) : ∀ p ∈ smod k f m, P p.2 := by
  intro p hp
  obtain ⟨q, hq, rfl⟩ := List.mem_map.mp hp
  split
  · exact hf _ (h q hq)
  · exact h q hq

theorem sput_all {α : Type} {P : α → Prop} {k : Nat} {v : α} {m : List (Nat × α)} (h : ∀ p ∈ m, P p.2) (hv : P v) :
    ∀ p ∈ sput k v m, P p.2 := by
  intro p hp
  rcases mem_sput hp with rfl | hp
  · exact hv
  · exact h p hp

theorem sset_all {α : Type} [DecidableEq α] {P : α → Prop} {d : α} {k : Nat} {v : α} {m : List (Nat × α)}
    (h : ∀ p ∈ m, P p.2) (hv : P v) : ∀ p ∈ sset d m k v, P p.2 := by
  unfold sset
  split
  · exact fun p hp => h p (List.mem_filter.mp (show p ∈ m.filter _ from hp)).1
  · exact sput_all h hv

theorem mem_of_find {α : Type} {k : Nat} {v : α} {m : List (Nat × α)} (h : find? k m = some v) : (k, v) ∈ m := by
  induction m with
  | nil => cases h
  | cons p t ih =>
    obtain ⟨j, w⟩ := p
    rw [find_cons] at h
    split at h
    · simp_all
    · simp [ih h]

theorem sget_all {α : Type} {P : α → Prop} {d : α} {m : List (Nat × α)} (h : ∀ p ∈ m, P p.2) (hd : P d) (k : Nat) :
    P (sget d m k) := by
  unfold sget
  cases hf : find? k m with
  | none => exact hd
  | some v => exact h _ (mem_of_find hf)

/-- States with the same memories keep the form together. -/
theorem MemoryForm.of_eq {s t : State} (h : MemoryForm s) (h1 : t.mem = s.mem) (h2 : t.teams = s.teams)
    (h3 : t.staging = s.staging) : MemoryForm t := ⟨h1 ▸ h.mem, h2 ▸ h.scratch, h3 ▸ h.staging⟩

theorem reset_memoryForm : MemoryForm State.reset := ⟨rfl, by simp [State.reset], by simp [State.reset]⟩

theorem MemoryForm.onTeam {s : State} (h : MemoryForm s) (k : Nat) {f : Team → Team}
    (hf : ∀ x : Team, Memory.wf x.scratch = true → Memory.wf (f x).scratch = true) : MemoryForm (s.onTeam k f) :=
  ⟨h.mem, smod_all (P := fun (x : Team) => Memory.wf x.scratch = true) h.scratch hf, h.staging⟩

/-- The one operation that writes bytes keeps the form. -/
theorem MemoryForm.writeBytes {s : State} (h : MemoryForm s) (pl : Place) (bs : List (Nat × Byte)) :
    MemoryForm (s.writeBytes pl bs) := by
  cases pl with
  | phys => exact ⟨Memory.wf_writeAll h.mem bs, h.scratch, h.staging⟩
  | scratch aid =>
    unfold State.writeBytes
    dsimp only
    split
    · exact h.onTeam _ (fun x hx => Memory.wf_writeAll hx bs)
    · exact h
  | staging d sl =>
    exact ⟨h.mem, h.scratch, sset_all (P := fun m => Memory.wf m = true) h.staging
      (Memory.wf_writeAll (sget_all (P := fun m => Memory.wf m = true) h.staging rfl _) bs)⟩

theorem MemoryForm.setPoison {s : State} (h : MemoryForm s) (pl : Place) (a : Nat) (p : Bool) :
    MemoryForm (s.setPoison pl a p) := by
  cases pl with
  | phys => exact h.of_eq rfl rfl rfl
  | scratch aid =>
    unfold State.setPoison
    dsimp only
    split
    · exact h.onTeam _ (fun x hx => hx)
    · exact h
  | staging d sl => exact h.of_eq rfl rfl rfl

/-- A loop whose steps keep the form keeps it. -/
theorem MemoryForm.foldl {α : Type} {f : State → α → State} (hf : ∀ s x, MemoryForm s → MemoryForm (f s x)) (xs : List α)
    {s : State} (h : MemoryForm s) : MemoryForm (xs.foldl f s) := by
  induction xs generalizing s with
  | nil => exact h
  | cons x xs ih => exact ih (hf s x h)

theorem MemoryForm.forEach {α : Type} {f : State → α → State} (hf : ∀ s x, MemoryForm s → MemoryForm (f s x)) (xs : List α)
    {s : State} (h : MemoryForm s) : MemoryForm (forEach xs s f) := h.foldl hf xs

/-- What the slices do keeps every memory. -/
theorem MemoryForm.slice {s t : State} (h : MemoryForm s) (g : SliceFrame s t) : MemoryForm t := by
  have g := g.same
  exact h.of_eq (by rw [g]) (by rw [g]) (by rw [g])

theorem MemoryForm.store {s : State} (h : MemoryForm s) (pl : Place) (bs : List (Nat × Byte)) : MemoryForm (s.store pl bs) := by
  unfold State.store State.clearCovered
  refine MemoryForm.foldl (fun s k h => ?_) _ (h.writeBytes pl bs)
  split
  · exact h.setPoison _ _ _
  · exact h

/-- A write of bytes at their homes keeps the form. -/
theorem MemoryForm.writeHome {s : State} (h : MemoryForm s) (w : Who) (bs : List (Nat × Byte)) : MemoryForm (s.writeHome w bs) :=
  MemoryForm.forEach (fun s l h => (((h.slice (.touchStore s l _ _ w)).slice (.soil _ l _)).store _ _).slice (.bump _ l)) _ h

theorem MemoryForm.writeCtl {s : State} (h : MemoryForm s) (pa : Nat) (bs : List Byte) : MemoryForm (s.writeCtl pa bs) :=
  h.writeHome _ _

theorem MemoryForm.fillFor {s : State} (h : MemoryForm s) (w : Who) (pl : Place) (addrs : List Nat) : MemoryForm (s.fillFor w pl addrs) :=
  h.slice (.fillFor s w pl addrs)

/-- A write at its memory point keeps the form. -/
theorem MemoryForm.writeAt {s : State} (h : MemoryForm s) (w : Who) (pl : Place) (bs : List (Nat × Byte)) : MemoryForm (s.writeAt w pl bs) := by
  cases pl with
  | phys => exact h.writeHome w bs
  | scratch aid => exact h.store _ _
  | staging d sl => exact h.store _ _

/-- A partition that is released takes its bytes with it. -/
theorem MemoryForm.release1 {s : State} (h : MemoryForm s) (d sl : Nat) (p : Partition) : MemoryForm (s.release1 d sl p) :=
  ⟨h.mem, h.scratch, sset_all (P := fun m => Memory.wf m = true) h.staging
    (Memory.wf_filter (sget_all (P := fun m => Memory.wf m = true) h.staging rfl _) _)⟩

theorem Team.wf_zeroScratch {t : Team} (h : Memory.wf t.scratch = true) : Memory.wf t.zeroScratch.scratch = true :=
  Memory.wf_filter h _

/-- An image's scratchpad is in the form, whatever its bytes. -/
theorem MemoryForm.loadScratch {s : State} (h : MemoryForm s) (k off n : Nat) (rd : Reader) :
    MemoryForm (s.loadScratch k off n rd) := h.onTeam k (fun _ _ => Memory.wf_writeAll Memory.wf_nil _)

/-! ## What a write leaves of the bytes of a place -/

/-- A write of main memory is read back where its addresses are distinct, and leaves the rest. -/
theorem readByte_writeBytes_phys {bs : List (Nat × Byte)} (hn : (bs.map (·.1)).Nodup) {p : Nat × Byte} (hp : p ∈ bs)
    (s : State) : (s.writeBytes .phys bs).readByte .phys p.1 = p.2 := Memory.read_writeAll_mem hn hp s.mem

theorem readByte_writeBytes_phys_ne {bs : List (Nat × Byte)} {a : Nat} (h : a ∉ bs.map (·.1)) (s : State) :
    (s.writeBytes .phys bs).readByte .phys a = s.readByte .phys a := Memory.read_writeAll_ne h s.mem

end Sys2Proof.Machine
end

