-- ==== Sys2Proof/Tests/Slice0.lean ====
section
/-!
SUPPORT. Own tests: the words that the specification writes out decode to their instructions, ill-formed words are refused, worked
examples of the specification, and a witness for the hypotheses of every statement.
-/

namespace Sys2Proof.Tests

open Sys2Proof Sys2Proof.Machine

/-! ## States for tests -/

/-- A thread's word at the pc of a small machine: lane 0 of band 0 of the unit that runs the word's class. -/
def runs (i : Instr) : State :=
  let w := (encode i).getD 0
  let s := State.reset.withFetchWord 64 w.toNat
  let u := placeUnit w
  { s with cur := ⟨u, 64 * u, [0], 0x400000, w, []⟩ }

/-- The thread that issues, changed. -/
def withThread (s : State) (f : Thread → Thread) : State := s.onThread (s.here 0) f

/-- The band that issues, changed. -/
def withBand (s : State) (f : Band → Band) : State := s.onBand s.cur.bid f

/-- Registers of the thread that issues. -/
def withRegs (s : State) (g : List (Nat × Word)) : State := withThread s (fun t => { t with g := g })

/-- The hypothesis Issuing, as a check that evaluates. -/
def issues (i : Instr) (s : State) : Bool :=
  s.cur.u == unitOfBand s.cur.bid && (find? s.cur.bid s.bands).isSome && decide s.cur.lanes.Nodup &&
  s.cur.lanes.all (fun l => decide (l < 32) && (find? (s.here l) s.threads).isSome) &&
  match msOf i with
    | some ms => maskSelectOk ms s.cur.u
    | none => false

/-- The hypotheses Issuing and AllPass, with some lane selected. -/
def ready (i : Instr) (s : State) (own : State → Nat → Check) : Bool :=
  issues i s && s.cur.lanes.all (fun l => !selected i s l || verdict i s own l == .pass) && s.cur.lanes.any (selected i s)

theorem issuing {i : Instr} {s : State} (h : issues i s = true) : Issuing i s := by
  simp only [issues, Bool.and_eq_true, List.all_eq_true, decide_eq_true_eq, beq_iff_eq] at h
  obtain ⟨⟨⟨⟨hu, hb⟩, hn⟩, hl⟩, hm⟩ := h
  refine ⟨hu, hb, hn, fun l hl' => hl l hl', ?_⟩
  split at hm
  · rename_i ms hms
    exact ⟨ms, hms, hm⟩
  · cases hm

/-- A word that issues with every selected lane passing its checks, and at least one lane selected. -/
structure Meets (i : Instr) (s : State) (own : State → Nat → Check) : Prop where
  issuing : Issuing i s
  passes : AllPass i s own
  performs : performers i s ≠ []

theorem meets {i : Instr} {s : State} {own : State → Nat → Check} (h : ready i s own = true) : Meets i s own := by
  simp only [ready, Bool.and_eq_true, List.all_eq_true, List.any_eq_true, Bool.or_eq_true, Bool.not_eq_true', beq_iff_eq] at h
  obtain ⟨⟨hi, hp⟩, l, hl, hs⟩ := h
  refine ⟨issuing hi, fun m hm hs => ?_, fun hn => ?_⟩
  · rcases hp m hm with h | h
    · rw [hs] at h; cases h
    · exact h
  · have : s.here l ∈ performers i s := List.mem_map.2 ⟨l, List.mem_filter.2 ⟨hl, hs⟩, rfl⟩
    rw [hn] at this; cases this

/-- Each word of a list in the state that `runs` gives it. -/
theorem meets_runs {L : List Instr} {own : State → Nat → Check} (h : ∀ i ∈ L, ready i (runs i) own = true) :
    ∀ i ∈ L, Meets i (runs i) own := fun i hi => meets (h i hi)

/-- Each word of a list in a state and with checks of its own. -/
theorem meets_all {α : Type} {L : List α} {mk : α → Instr} {st : α → State} {own : α → State → Nat → Check}
    (h : ∀ a ∈ L, ready (mk a) (st a) (own a) = true) : ∀ a ∈ L, Meets (mk a) (st a) (own a) := fun a ha => meets (h a ha)

/-- A bundle of one thread, which the word's mask selects. -/
structure Lone (i : Instr) (s : State) : Prop where
  issuing : Issuing i s
  lanes : s.cur.lanes = [0]
  selected : selected i s 0 = true

theorem lone {i : Instr} {s : State} (h : (issues i s && s.cur.lanes == [0] && selected i s 0) = true) : Lone i s := by
  simp only [Bool.and_eq_true, beq_iff_eq] at h
  exact ⟨issuing h.1.1, h.1.2, h.2⟩

/-- One thread performs the word. -/
theorem alone {i : Instr} {s : State} {own : State → Nat → Check} {tid : Nat}
    (h : (ready i s own && performers i s == [tid] && !(s.thread tid).exited) = true) : Alone i s own tid := by
  simp only [Bool.and_eq_true, beq_iff_eq, Bool.not_eq_true'] at h
  exact ⟨(meets h.1.1).issuing, h.1.2, (meets h.1.1).passes, h.2⟩

/-- The clock may move to a moment before every deadline, and one past. -/
theorem mayReach {s : State} {t : Nat} (h : s.deadlines.all (t ≤ ·) = true) : MayReach s t :=
  .inr fun d hd => of_decide_eq_true (List.all_eq_true.1 h d hd)

/-! ## Decoding (05 R144-R158)

The words, and the fields that each stands for, are those that the specification writes out. -/

/-- 05: `ffma` with predicate mask 3, trap on B, round toward zero and a negated C. -/
theorem test_decode_ffma : decode 0x333428C390005000 = .ok (.ffma ⟨3, 2, 5, 6, 7, 8, 0, 1, 0, 8, 0⟩) := rfl

/-- 05: the two other worked words, and the bytes of the first in memory order. -/
theorem test_decode_ldg : decode 0x78C05046458A0010 = .ok (.ldg ⟨12, 0, 10, 2, 12, 4, 5, 4, 1, 2, 0x10⟩) := rfl

theorem test_decode_bra : decode 0x50C0013FFFFFFFA2 = .ok (.bra ⟨12, 0, 0, 9, 0xFFFFFFFD, 2⟩) := rfl

theorem test_decode_bytes : decodeBytes [0x00, 0x50, 0x00, 0x90, 0xC3, 0x28, 0x34, 0x33] = decode 0x333428C390005000 := rfl

/-- 06: `cmp.lt.i32 m4, g2, g3`, `movi g4, 0x12345678` and `nop`. -/
theorem test_decode_compute : decode 0x1EC0204180040C00 = .ok (.cmp ⟨12, 0, 4, 2, 3, 0, 2, 0, 0, 6, 0⟩) ∧
    decode 0x22C02002468ACF00 = .ok (.movi ⟨12, 0, 4, 0, 0x12345678, 0⟩) ∧
    decode 0x60C0000000000000 = .ok (.nop ⟨12, 0, 0, 0, 0, 0, 0, 0, 0, 0, 0⟩) := ⟨rfl, rfl, rfl⟩

/-- 09: calls, a return, an indirect call and an FP32 compare. -/
theorem test_decode_calls : decode 0x52C0000000000060 = .ok (.call ⟨12, 0, 0, 0, 3, 0⟩) ∧
    decode 0x53C0014000000000 = .ok (.callx ⟨12, 0, 0, 10, 0, 0, 0, 0, 0, 0, 0⟩) ∧
    decode 0x50C001C0000000C2 = .ok (.bra ⟨12, 0, 0, 14, 6, 2⟩) ∧
    decode 0x52C0001FFFFFFF60 = .ok (.call ⟨12, 0, 0, 0, 0xFFFFFFFB, 0⟩) ∧
    decode 0x54C0000000000000 = .ok (.ret ⟨12, 0, 0, 0, 0, 0, 0, 0, 0, 0, 0⟩) ∧
    decode 0x36C0706680041000 = .ok (.fcmp ⟨12, 0, 14, 3, 13, 0, 2, 0, 0, 8, 0⟩) := ⟨rfl, rfl, rfl, rfl, rfl, rfl⟩

/-- 07, 12: stores, atomics, versions, events and barriers. -/
theorem test_decode_memory : decode 0x79C0300A41B30002 = .ok (.stg ⟨12, 0, 6, 0, 20, 4, 1, 5, 2, 3, 2⟩) ∧
    decode 0x7DC0406A42BA0004 = .ok (.atom ⟨12, 0, 8, 3, 20, 4, 2, 5, 3, 2, 4⟩) ∧
    decode 0x7AC0281FC0020020 = .ok (.ldv ⟨12, 0, 5, 0, 63, 4, 0, 0, 0, 2, 0x20⟩) ∧
    decode 0x7BC0A00000000000 = .ok (.vset ⟨12, 0, 20, 0, 0, 0, 0, 0, 0, 0, 0⟩) ∧
    decode 0x7CC0600440BA0000 = .ok (.casv ⟨12, 0, 12, 0, 8, 4, 0, 5, 3, 2, 0⟩) ∧
    decode 0x9CC0181FC0B20080 = .ok (.evsig ⟨12, 0, 3, 0, 63, 4, 0, 5, 2, 2, 0x80⟩) := ⟨rfl, rfl, rfl, rfl, rfl, rfl⟩

theorem test_decode_barriers : decode 0x90C0180000182000 = .ok (.bar ⟨12, 0, 3, 0, 0xC1, 0, 0⟩) ∧
    decode 0x93C0180000100000 = .ok (.cbar ⟨12, 0, 3, 0, 0x80, 0, 0⟩) ∧
    decode 0x96C0000000000000 = .ok (.notify ⟨12, 0, 0, 0, 0, 0, 0⟩) ∧
    decode 0x97C0000000000000 = .ok (.wpred ⟨12, 0, 0, 0, 0, 0, 0⟩) := ⟨rfl, rfl, rfl, rfl⟩

/-- 11: packed BF16 and a uniform branch. -/
theorem test_decode_packed : decode 0x44C059430E001400 = .ok (.pkfma ⟨12, 0, 11, 10, 6, 7, 0, 0, 0, 10, 0⟩) ∧
    decode 0x42C0594600001400 = .ok (.pkadd ⟨12, 0, 11, 10, 12, 0, 0, 0, 0, 10, 0⟩) ∧
    decode 0x50C0006000000052 = .ok (.bra ⟨12, 0, 0, 3, 2, 0x12⟩) := ⟨rfl, rfl, rfl⟩

/-- 08, 10: gang product, engine words, copies and rings. -/
theorem test_decode_engines : decode 0xA1C0041452000000 = .ok (.gmma ⟨12, 0, 0, 32, 40, 41, 0, 0, 0, 0, 0⟩) ∧
    decode 0xB5C010020A1FFE07 = .ok (.mma ⟨12, 0, 2, 0, 4, 5, 1, 31, 31, 0x207⟩) ∧
    decode 0xB4C01002863FFC00 = .ok (.old ⟨12, 0, 2, 0, 5, 3, 3, 31, 31, 0⟩) ∧
    decode 0xB5C018000220FC00 = .ok (.mma ⟨12, 0, 3, 0, 0, 1, 2, 1, 31, 0⟩) := ⟨rfl, rfl, rfl, rfl⟩

theorem test_decode_copies : decode 0xCEC00864004FFC85 = .ok (.tcpy ⟨12, 0, 1, 3, 8, 0, 4, 31, 31, 0x85⟩) ∧
    decode 0xD010080453FFFC02 = .ok (.cpy ⟨1, 0, 1, 0, 8, 41, 31, 31, 31, 2⟩) ∧
    decode 0xD2C0008010610000 = .ok (.rngd ⟨12, 0, 0, 4, 0x8308, 0, 0⟩) ∧
    decode 0xD5C1F80001FFFC10 = .ok (.brcv ⟨12, 0, 63, 0, 0, 0, 31, 31, 31, 0x10⟩) ∧
    decode 0xD3C0280000000000 = .ok (.rnga ⟨12, 0, 5, 0, 0, 0, 0⟩) ∧
    decode 0xD4C0000003E20000 = .ok (.rngf ⟨12, 0, 0, 0, 0x1F10, 0, 0⟩) := ⟨rfl, rfl, rfl, rfl, rfl, rfl⟩

/-- 13, 17: the system words that share an opcode are told apart by FN and OFF16. -/
theorem test_decode_system : decode 0xE0C0000000020000 = .ok (.tretSkip ⟨12, 0, 0, 0, 0, 0, 1, 0, 0, 0, 0⟩) ∧
    decode 0xE1C0200000002000 = .ok (.csrr ⟨12, 0, 4, 0, 1, 0, 0⟩) ∧
    decode 0xE2C0A28000008000 = .ok (.csrw ⟨12, 0, 20, 20, 4, 0, 0⟩) ∧
    decode 0xE5C0110000000000 = .ok (.invq ⟨12, 0, 2, 8, 0, 0, 0, 0, 0, 0, 0⟩) ∧
    decode 0xE6C0184000000000 = .ok (.invw ⟨12, 0, 3, 2, 0, 0, 0, 0, 0, 0, 0⟩) ∧
    decode 0xE7C0108400000000 = .ok (.ctxs ⟨12, 0, 2, 4, 8, 0, 0, 0, 0, 0, 0⟩) := ⟨rfl, rfl, rfl, rfl, rfl, rfl⟩

theorem test_decode_service : decode 0xEBC0108300000000 = .ok (.prkrRetry ⟨12, 0, 2, 4, 6, 0, 0, 0, 0, 0, 0⟩) ∧
    decode 0xECC000000000A000 = .ok (.svc ⟨12, 0, 0, 0, 5, 0, 0⟩) ∧
    decode 0xEDC0285FB0000003 = .ok (.psetUnpinb ⟨12, 0, 5, 2, 63, 3, 0, 0, 0, 0, 3⟩) ∧
    decode 0xEEC0184000000000 = .ok (.drstQuiesce ⟨12, 0, 3, 2, 0, 0, 0, 0, 0, 0, 0⟩) ∧
    decode 0xEEC0184000020000 = .ok (.drstFlush ⟨12, 0, 3, 2, 0, 0, 1, 0, 0, 0, 0⟩) := ⟨rfl, rfl, rfl, rfl, rfl⟩

/-- R147, R158: a reserved mask select is refused by name, and an opcode that is not assigned is the illegal word. -/
theorem test_decode_refuses : decode 0x01D0000000000400 = .error .reservedMask ∧ decode 0x01C0000000000000 = .error .illegalField ∧
    decode 0 = .ok (.unassignedOpcode 0) ∧ decode 0xFFC0000000000000 = .ok (.unassignedOpcode 0xFFC0000000000000) :=
  ⟨rfl, rfl, rfl, rfl⟩

/-- The host's numbering: bit 0 of the word is bit 0 of its first byte. -/
theorem test_decode_table_word : decodeTableWord 64 0x22C02002468ACF00 = some (.movi ⟨12, 0, 4, 0, 0x12345678, 0⟩) := rfl

/-! ## Well-formedness: one ill-formed term for each check (R147-R155) -/

/-- The fields that most tests change from: mask all, type .b32 for R, 32 bits for M. -/
def fR : RFmt := ⟨12, 0, 4, 8, 12, 0, 0, 0, 0, 2, 0⟩

def fI : IFmt := ⟨12, 0, 4, 8, 5, 0, 0⟩

def fM : MFmt := ⟨12, 0, 4, 0, 63, 4, 0, 0, 0, 2, 0⟩

def fE : EFmt := ⟨12, 0, 63, 1, 2, 3, 31, 31, 31, 0⟩

/-- R147: mask selects 13, 14 and 15 are reserved. -/
theorem test_wf_mask : (Instr.add fR).wellFormed = true ∧ ∀ m ∈ [(13 : BitVec 4), 14, 15], (Instr.add { fR with ms := m }).wellFormed = false :=
  by decide

/-- R148: FE names only fields that hold a source of the word. -/
theorem test_wf_fe : (Instr.not { fR with b := 0, fe := 4 }).wellFormed = true ∧ (Instr.not { fR with b := 0, fe := 2 }).wellFormed = false ∧
    (Instr.add { fR with fe := 1 }).wellFormed = false := by decide

/-- R150: pairs and groups at multiples of their size, as sources and as destinations. -/
theorem test_wf_pairs : (Instr.add { fR with ty := 3 }).wellFormed = true ∧ (Instr.add { fR with ty := 3, a := 9 }).wellFormed = false ∧
    (Instr.add { fR with ty := 3, d := 5 }).wellFormed = false ∧ (Instr.clk ⟨12, 0, 5, 0, 0, 0, 0, 0, 0, 0, 0⟩).wellFormed = false := by decide

/-- R149: handles 0-7, masks 0-11 written, tokens 0-30. -/
theorem test_wf_names : (Instr.hrel ⟨12, 0, 0, 8, 0, 0, 0, 0, 0, 0, 0⟩).wellFormed = false ∧
    (Instr.leave ⟨12, 0, 0, 12, 0, 0, 0, 0, 0, 0, 0⟩).wellFormed = false ∧ (Instr.fxw ⟨12, 0, 0, 31, 0, 0, 0, 0, 0, 0, 0⟩).wellFormed = false ∧
    (Instr.mma { fE with d := 31, a := 0 }).wellFormed = false ∧ (Instr.mma { fE with a := 0 }).wellFormed = true := by decide

/-- R151: TY as the entry admits it. -/
theorem test_wf_type : (Instr.add { fR with ty := 8 }).wellFormed = false ∧ (Instr.sar fR).wellFormed = false ∧
    (Instr.fadd { fR with ty := 2 }).wellFormed = false ∧ (Instr.fcvt { fR with b := 0, ty := 13, mod := 8 }).wellFormed = false := by decide

/-- R152, R119, R121: SP, SZ, SC and ORD of memory words. -/
theorem test_wf_memory : (Instr.ldg fM).wellFormed = true ∧ (Instr.ldg { fM with sp := 1 }).wellFormed = false ∧
    (Instr.ldg { fM with sz := 5 }).wellFormed = false ∧ (Instr.ldg { fM with ord := 2, sc := 2 }).wellFormed = false ∧
    (Instr.ldg { fM with sc := 2 }).wellFormed = false ∧ (Instr.ldg { fM with ord := 1, sc := 7 }).wellFormed = false := by decide

/-- R155: a field that the entry does not use is 0, its waits 31. -/
theorem test_wf_unused : (Instr.add { fR with c := 1 }).wellFormed = false ∧ (Instr.add { fR with mod := 1 }).wellFormed = false ∧
    (Instr.add { fR with rm := 1 }).wellFormed = false ∧ (Instr.min { fR with sat := 1 }).wellFormed = false ∧
    (Instr.brcv ⟨12, 0, 63, 0, 0, 0, 30, 31, 31, 0⟩).wellFormed = false ∧ (Instr.nop { fR with ty := 0 }).wellFormed = false := by decide

/-- R178, R208, R210, R239: bounded immediates. -/
theorem test_wf_immediates : (Instr.shli { fI with imm := 31 }).wellFormed = true ∧ (Instr.shli { fI with imm := 32 }).wellFormed = false ∧
    (Instr.shli { fI with imm := 63, fn := 1 }).wellFormed = true ∧ (Instr.sreg ⟨12, 0, 4, 0, 18, 0, 0⟩).wellFormed = false ∧
    (Instr.bar ⟨12, 0, 4, 0, 0x411, 0, 0⟩).wellFormed = false ∧ (Instr.csrr ⟨12, 0, 4, 0, 5, 0, 0⟩).wellFormed = false := by decide

/-- A page of 64 KiB at 0x10000 that may be read and written, under a valid handle whose base is 0x400000. -/
def page : Leaf := { pa := 0x10000, size := 0, r := true, w := true }

def pageHandle : Handle := { st := .valid, base := 0x400000, asid := 1, leaf := page }

/-- The state of `runs` with resources: h0 names a page that may be read and written, the team has a scratchpad, the band private
memory, the package a staging partition, and the launch every kind of barrier. -/
def rich (s : State) : State :=
  let s := withThread s (fun t => { t with h := [(0, pageHandle)], csp := 256 })
  let s := withBand s (fun b => { b with psize := 512, spilltop := 512, pbase := 0x408000, tvec := 0x400100 })
  let s := s.onTeam 1 (fun k => { k with alloc := 65536 })
  let s := s.onLaunch (2 ^ 32) (fun l => { l with desc := { l.desc with cgroup := 2, pkgbar := true } })
  { s with
    mem := Memory.writeAll s.mem (cellsAt 0x4200 (toBytes 8 0x1009F))
    parts := [(0, [{ off := 0, size := 4096 }])]
    granules := [] }

/-! ## Witnesses: each shows a state and operands that meet the hypotheses of a statement -/

/-- IntegerResults, ImmediateResults, LogicAndShiftResults: a word of each opcode. -/
theorem witness_opcodes : ∀ op ∈ [(0x01 : BitVec 8), 0x02, 0x03, 0x04, 0x05, 0x06, 0x07, 0x08, 0x09, 0x0A, 0x0B, 0x0C, 0x0D, 0x0E, 0x0F,
    0x10, 0x11, 0x12, 0x13, 0x14, 0x15, 0x16, 0x17, 0x28], (op.setWidth 64 <<< 56 : DWord).extractLsb' 56 8 = op := by decide

/-- IntegerResults: each word, legal, issues on a shader core. -/
theorem witness_integerResults : ∀ i ∈ [Instr.add fR, .sub fR, .mul fR, .mulh fR, .mad fR, .min fR, .max fR, .absd fR, .clamp fR],
    Meets i (runs i) noCheck := meets_runs (by decide)

theorem witness_integer_legal : ∀ i ∈ [Instr.add fR, .sub fR, .mul fR, .mulh fR, .mad fR, .min fR, .max fR, .absd fR, .clamp fR],
    legal i = true := by decide

/-- ImmediateResults: each word issues and passes; with FN 2, with MOD 1, or with a count of 32, it issues. -/
theorem witness_immediateResults : ∀ i ∈ [Instr.addi fI, .andi fI, .ori fI, .xori fI, .shli fI, .shri fI, .sari fI],
    Meets i (runs i) noCheck := meets_runs (by decide)

theorem witness_immediate_legal : ∀ i ∈ [Instr.addi fI, .andi fI, .ori fI, .xori fI, .shli fI, .shri fI, .sari fI], legal i = true := by decide

theorem witness_immediate_traps : ∀ i ∈ [Instr.addi { fI with fn := 2 }, .andi { fI with fn := 2 }, .ori { fI with mod := 1 },
    .xori { fI with fn := 255 }, .shli { fI with imm := 32 }, .shri { fI with imm := 64, fn := 1 }, .sari { fI with imm := 32 }],
    Lone i (runs i) := fun i hi => lone (by revert i; decide)

/-- LogicAndShiftResults and BitFieldResults. -/
theorem witness_logicAndShiftResults : ∀ i ∈ [Instr.and fR, .or fR, .xor fR, .not { fR with b := 0 }, .shl fR, .shr fR,
    .sar { fR with ty := 6 }, .rot fR], Meets i (runs i) noCheck := meets_runs (by decide)

theorem witness_logic_legal : ∀ i ∈ [Instr.and fR, .or fR, .xor fR, .not { fR with b := 0 }, .shl fR, .shr fR,
    .sar { fR with ty := 6 }, .rot fR], legal i = true := by decide

theorem witness_bitFieldResults : ∀ i ∈ [Instr.bfe fR, .bfi fR, .popc { fR with b := 0 }, .clz { fR with b := 0 }, .brev { fR with b := 0 },
    .sel fR, .lea { fR with ty := 0, mod := 11 }, .cvti { fR with b := 0, mod := 4 }, .bswz { fR with ty := 0, mod := 0x81 }],
    Meets i (runs i) noCheck := meets_runs (by decide)

/-- CompareResults: setting and combining with the old mask. -/
theorem witness_compareResults : ∀ i ∈ [Instr.cmp { fR with fn := 2 }, .cmp { fR with fn := 0x15 }, .cmp { fR with fn := 0x20 },
    .cmpi { fI with fn := 0x1B }, .setc { fR with fn := 3 }], Meets i (runs i) noCheck := meets_runs (by decide)

/-- MoveResults: each form. -/
def movs (fn : BitVec 8) : Instr := .mov ⟨12, 0, 4, 8, 0, 0, fn, 0, 0, if fn = 0 then 3 else 0, 0⟩

theorem witness_moveResults : ∀ i ∈ [movs 0, movs 1, movs 2, movs 3, movs 4, .movi ⟨12, 0, 4, 0, 7, 0⟩, .movi ⟨12, 0, 4, 0, 7, 1⟩,
    .movi ⟨12, 0, 4, 0, 7, 2⟩, .movh ⟨12, 0, 4, 0, 7, 0⟩, .movh ⟨12, 0, 4, 0, 7, 1⟩], Meets i (runs i) noCheck := meets_runs (by decide)

/-- DivisionResults: a zero divisor, another one, and MinOf / -1. -/
def idiv64 : Instr := .idiv { fR with ty := 7 }

theorem witness_division_by_zero : Lone idiv64 (runs idiv64) ∧ verdict idiv64 (runs idiv64) noCheck 0 = .pass ∧
    operand 7 ((runs idiv64).thread ((runs idiv64).here 0)) 12 = 0 := ⟨lone (by decide), by decide, by decide⟩

theorem witness_divisionResults : ∀ s ∈ [withRegs (runs idiv64) [(8, 7), (12, 2)],
    withRegs (runs idiv64) [(9, 0x80000000), (12, 0xFFFFFFFF), (13, 0xFFFFFFFF)]],
    Meets idiv64 s noCheck ∧ ∀ tid ∈ performers idiv64 s, operand 7 (s.thread tid) 12 ≠ 0 :=
  fun s hs => ⟨meets (by revert s; decide), by revert s; decide⟩

/-- RoundingIsExactAndNearest: a code of each format that is no NaN, and an inexact sum that stays finite. -/
theorem witness_rounding_exact : ∀ f ∈ [fp32, fp16, bf16, e4m3, e5m2, e2m1], (5 : Nat) < 2 ^ f.bits ∧ f.decode 5 ≠ .nan := by decide

theorem witness_rounding_nearest : ∀ f ∈ [fp32, fp16, bf16, e5m2], ∃ rn rm re st,
    f.decode (f.round 0 false false (.fin true (2 ^ 30 + 1) (-30) false)) = .fin rn rm re st ∧ (-200 : Int) ≤ -30 ∧ -200 ≤ f.emin ∧
    ∃ on om oe ost, f.decode 5 = .fin on om oe ost := by
  intro f hf
  simp only [List.mem_cons, List.not_mem_nil, or_false] at hf
  rcases hf with rfl | rfl | rfl | rfl <;> exact ⟨_, _, _, _, rfl, by decide, by decide, _, _, _, _, rfl⟩

/-- FloatResults and FloatSelectionAndPackedResults: each word issues; a NaN source. -/
theorem witness_floatResults : ∀ i ∈ [Instr.fadd { fR with ty := 8, rm := 1 }, .fsub { fR with ty := 8 }, .fmul { fR with ty := 8 },
    .ffma { fR with ty := 8 }, .frnd { fR with ty := 8, b := 0 }, .frcp { fR with ty := 8, b := 0 }, .frsq { fR with ty := 8, b := 0 },
    .fsqrt { fR with ty := 8, b := 0 }, .fex2 { fR with ty := 8, b := 0 }, .flg2 { fR with ty := 8, b := 0 },
    .fsin { fR with ty := 8, b := 0 }, .fcos { fR with ty := 8, b := 0 }, .ftanh { fR with ty := 8, b := 0 }],
    Meets i (runs i) noCheck := meets_runs (by decide)

theorem witness_float_special : (∀ w ∈ [(0 : Word), 0x80000000, 0x7F800000, 0xFF800000], ({ g := [(8, w)] } : Thread).reg 8 = w) ∧
    ({ fR with ty := 8, b := 0 } : RFmt).mod = 0 := ⟨fun _ _ => rfl, rfl⟩

theorem witness_float_nan : isNanCode (({ g := [(8, 0xFF800001)] } : Thread).reg 8) := by unfold isNanCode; decide

theorem witness_floatSelectionAndPackedResults : ∀ i ∈ [Instr.fmin { fR with ty := 8 }, .fmax { fR with ty := 8 },
    .fcvt { fR with ty := 8, b := 0, mod := 9 }, .fclass { fR with ty := 9, b := 0 }, .pkadd { fR with ty := 9 }, .pkmul { fR with ty := 10 },
    .pkfma { fR with ty := 9 }, .pkmin { fR with ty := 9 }, .pkmax { fR with ty := 10 }, .idp4 { fR with ty := 6, mod := 3, sat := 1 },
    .fdp2 { fR with ty := 8, mod := 9 }, .fcmp { fR with ty := 8, fn := 6 }, .fcmp { fR with ty := 8, fn := 0x1A }],
    Meets i (runs i) noCheck := meets_runs (by decide)

theorem witness_packed : (∀ ty ∈ [(9 : BitVec 4), 10], ∀ i ∈ [Instr.pkadd { fR with ty := ty }, .pkmul { fR with ty := ty }, .pkfma { fR with ty := ty },
      .fdp2 { fR with ty := 8, mod := ty.setWidth 9 }], legal i = true) ∧
    (∀ p ∈ [((9 : BitVec 4), (0x7E01 : Nat)), (10, 0xFF81)], codeNan (fieldsOf p.1) p.2) ∧ ¬ codeNan (fieldsOf 9) 0x7C00 ∧
    (half16 0x3C007C00 0 % 2 ^ 15 = (2 ^ 5 - 1) * 2 ^ 10 ∧ (0xFF800000 : Word).toNat % 2 ^ 31 = 0x7F800000) ∧
    (0xFF800000 : Word).msb ≠ (codeSign 15 (half16 0x3C007C00 0) != codeSign 15 (half16 0x3C003C00 0)) := by
  simp only [codeNan]
  decide

/-- ConversionResults: from FP32 to each kind of type and from E8M0, with codes of every kind. -/
theorem witness_conversions : (∀ p ∈ [((0 : BitVec 4), (0 : BitVec 1)), (7, 1), (8, 1), (9, 0), (9, 1), (10, 0), (10, 1), (11, 0), (11, 1), (12, 0), (12, 1), (13, 1), (14, 0)],
      legal (.fcvt { fR with ty := p.1, sat := p.2, b := 0, mod := 8 }) = true) ∧
    legal (.fcvt { fR with ty := 8, b := 0, mod := 14 }) = true ∧
    Meets (.fcvt { fR with ty := 8, b := 0, mod := 14 }) (withRegs (runs (.fcvt { fR with ty := 8, b := 0, mod := 14 })) [(8, 0x80)]) noCheck ∧
    (∀ w ∈ [(0xFFC00001 : Word), 0x7F800000, 0xFF800000, 0, 0x80000000, 0x7F7FFFFF], ({ g := [(8, w)] } : Thread).reg 8 = w) ∧
    codeNan (8, 23) 0xFFC00001 := ⟨by decide, by decide, meets (by decide), fun _ _ => rfl, by simp [codeNan]⟩

/-- MaskAndVoteResults: each form; a mask operand gives an `MFFS` and votes to count. -/
def onMask (fn : BitVec 8) : RFmt := ⟨12, 0, 4, 0, 0, 0, fn, 0, 0, 0, 0⟩

theorem witness_maskAndVoteResults : ∀ i ∈ [Instr.mset (onMask 0), .mset (onMask 1), .mops (onMask 0), .mops (onMask 1), .mops (onMask 2),
    .mops (onMask 3), .mops (onMask 4), .mpop (onMask 0), .mpop (onMask 1), .mffs (onMask 0), .mffs (onMask 1), .poll (onMask 0),
    .poll (onMask 1), .poll (onMask 2), .poll (onMask 3), .poll (onMask 4), .lbits (onMask 0), .lbits (onMask 1), .xlane (onMask 0),
    .xlane (onMask 1), .xlane { onMask 2 with mod := 3 }, .xlane (onMask 3)], Meets i (runs i) noCheck := meets_runs (by decide)

theorem witness_votes : ∀ l, l < 32 → (hasLane 1 l = true ↔ ∃ v ∈ voters (.lbits (onMask 0)) (withRegs (runs (.lbits (onMask 0))) [(0, 5)]) 0,
    v.1 = l ∧ v.2 ≠ 0) := by decide

/-! ### Control, joins, traps and checks -/

def rz : RFmt := ⟨12, 0, 0, 0, 0, 0, 0, 0, 0, 0, 0⟩

def iz : IFmt := ⟨12, 0, 0, 0, 0, 0, 0⟩

def bra1 : BFmt := ⟨12, 0, 0, 9, 5, 1⟩

def call0 : BFmt := ⟨12, 0, 0, 0, 3, 0⟩

/-- BranchesCallsAndReturns: a branch, an aligned BRX and CALLX, a call with room and one that spills, a return. -/
theorem witness_branches : Meets (.bra bra1) (runs (.bra bra1)) noCheck ∧
    (Meets (.brx rz) (withRegs (runs (.brx rz)) [(0, 0x400040)]) noCheck ∧
      ((withRegs (runs (.brx rz)) [(0, 0x400040)]).thread 0).reg64 0 = 0x400040) := ⟨meets (by decide), meets (by decide), by decide⟩

def calling (i : Instr) : State := withThread (withRegs (rich (runs i)) [(0, 0x400040)]) (fun t => { t with stack := [0x400008, 16, 24, 32] })

theorem witness_calls : (∀ s ∈ [rich (runs (.call call0)), calling (.call call0)],
      Meets (.call call0) s (fun x tid => if taken call0 x tid then x.pushCheck tid else .pass)) ∧
    ((calling (.call call0)).thread 0).stack.length = 4 ∧
    (∀ s ∈ [withRegs (rich (runs (.callx rz))) [(0, 0x400040)], calling (.callx rz)],
      Meets (.callx rz) s (fun x tid => (targetCheck ((x.thread tid).reg64 rz.a.toNat)).andThen (x.pushCheck tid))) :=
  ⟨fun s hs => meets (by revert s; decide), by decide, fun s hs => meets (by revert s; decide)⟩

theorem witness_returns : Meets (.ret rz) (calling (.ret rz)) noCheck ∧ ((calling (.ret rz)).thread 0).stack.getLast? = some 32 ∧
    Meets (.ret rz) (rich (runs (.ret rz))) State.popCheck ∧ ((rich (runs (.ret rz))).thread 0).stack = [] ∧
    Lone (.ret rz) (rich (runs (.ret rz))) := ⟨meets (by decide), by decide, meets (by decide), by decide, lone (by decide)⟩

/-- BranchesCallsAndReturns: a misaligned target, a spill below 8, and a return with nothing to return to. -/
theorem witness_branch_traps : (let s := withRegs (runs (.brx rz)) [(0, 0x400044)];
      Lone (.brx rz) s ∧ verdict (.brx rz) s noCheck 0 = .pass ∧ ((s.thread 0).reg64 0).toNat % 8 ≠ 0) ∧
    (let s := withThread (calling (.callx rz)) (fun t => { t with csp := 4 });
      Lone (.callx rz) s ∧ verdict (.callx rz) s noCheck 0 = .pass ∧ 4 ≤ (s.thread 0).stack.length ∧ (s.thread 0).csp.toNat < 8) ∧
    (let s := runs (.ret rz);
      Lone (.ret rz) s ∧ verdict (.ret rz) s noCheck 0 = .pass ∧ (s.thread 0).stack = [] ∧ (s.band 0).spilltop ≤ (s.thread 0).csp) :=
  ⟨⟨lone (by decide), by decide⟩, ⟨lone (by decide), by decide⟩, ⟨lone (by decide), by decide⟩⟩

/-- OtherControlResults. -/
theorem witness_otherControlResults : ∀ i ∈ [Instr.nop rz, .yield rz, .sleep iz, .sleep { iz with imm := 100 }, .clk { rz with d := 4 },
    .sreg { iz with d := 4 }, .sreg { iz with d := 4, imm := 8 }, .sreg { iz with d := 4, imm := 17 }], Meets i (runs i) noCheck :=
  meets_runs (by decide)

theorem witness_exit : Meets (.exit rz) (runs (.exit rz)) (fun x t => x.storeError t (fun _ => true)) ∧
    ∀ tid ∈ performers (.exit rz) (runs (.exit rz)), ((runs (.exit rz)).thread tid).exited = false ∧ (runs (.exit rz)).faultsOf tid = [] ∧
      (∀ m ∈ (runs (.exit rz)).boxesOf 1, m.holds = false) ∧ ((runs (.exit rz)).team 1).boxes = [] := ⟨meets (by decide), by decide⟩

/-- An entry of the band's copy queue that has faulted and whose thread exits before it takes the trap. -/
def exitFault : Entry :=
  { instr := .cpy ⟨12, 0, 1, 0, 8, 12, 31, 31, 31, 2⟩, word := 0, addr := 0x400000, tid := 0, dno := 1, started := true, fault := some (0x10, 7) }

def exiting : State := withBand (withThread (runs (.exit rz)) (fun t => { t with inh := true })) (fun b => { b with cq := { entries := [exitFault], faulted := true } })

theorem witness_exit_notice : Lone (.exit rz) exiting ∧ Meets (.exit rz) exiting (fun x t => x.storeError t (fun _ => true)) ∧
    (exiting.thread (exiting.here 0)).exited = false ∧ exiting.cur.u < 1024 ∧ exiting.firstFault (exiting.here 0) = some (.band 0, exitFault) :=
  ⟨lone (by decide), meets (by decide), by decide⟩

/-- TrapWords: with a handler, and inside one. -/
theorem witness_trapWords : ∀ i ∈ [Instr.trap { iz with imm := 7 }, .bkpt iz, .svc { iz with imm := 5 }],
    Meets i (rich (runs i)) noCheck ∧ (∀ tid ∈ performers i (rich (runs i)), ((rich (runs i)).thread tid).inh = false) ∧
    ((rich (runs i)).band 0).tvec &&& 0x000FFFFFFFFFFFF8 ≠ 0 ∧ Lone i (runs i) ∧ Meets i (runs i) noCheck ∧
    ((runs i).band 0).tvec &&& 0x000FFFFFFFFFFFF8 = 0 := fun i hi =>
  ⟨meets (by revert i; decide), by revert i; decide, by revert i; decide, lone (by revert i; decide), meets (by revert i; decide),
   by revert i; decide⟩

/-- ChecksComeBeforeEffects: a field that is not legal, an empty source, a reserved mask, an unassigned opcode, a level too low. -/
theorem witness_checks : (Lone (.add { fR with c := 1 }) (runs (.add { fR with c := 1 })) ∧
      laneCheck (.add { fR with c := 1 }) 7 0 64 {} = .trap 0x01 7) ∧
    (let s := withThread (runs (.add fR)) (fun t => { t with empty := [(8, true)] });
      Lone (.add fR) s ∧ laneCheck (.add fR) s.cur.word s.cur.u (s.band s.cur.bid).nregs (s.thread (s.here 0)) = .wait) ∧
    (msOf (.add { fR with ms := 14 }) = some 14 ∧ maskSelectOk 14 (runs (.add { fR with ms := 14 })).cur.u = false ∧
      (runs (.add { fR with ms := 14 })).cur.lanes = [0]) :=
  ⟨⟨lone (by decide), by decide⟩, ⟨lone (by decide), by decide⟩, by decide, by decide, by decide⟩

def none64 : DWord := 0xFFC0000000000000

theorem witness_unassigned : let s := rich (runs (.unassignedOpcode none64));
    Lone (.unassignedOpcode none64) s ∧ s.cur.word = none64 ∧ (s.thread (s.here 0)).inh = false ∧
    (s.band s.cur.bid).tvec &&& 0x000FFFFFFFFFFFF8 ≠ 0 := ⟨lone (by decide), by decide⟩

theorem witness_privilege : ∀ i ∈ [Instr.csrr { iz with d := 4 }, .invq rz, .drstQuiesce rz, .drstFlush { rz with fn := 1 },
    .drstCore { rz with fn := 2 }, .drstAdmit { rz with fn := 3 }, .drstEngine { rz with fn := 4 }, .stest rz],
    let s := withThread (runs i) (fun t => { t with prv := 0 });
    Lone i s ∧ fits i s.cur.u (s.band s.cur.bid).nregs = true ∧ classOf i = some .p ∧ (s.thread (s.here 0)).prv = 0 :=
  fun i hi => ⟨lone (by revert i; decide), by revert i; decide⟩

/-- JoinLeaveAndWaitm: a member, the only one, and a thread that is none with a member besides. -/
def band2 (s : State) (m : Word) : State :=
  { withBand s (fun b => { b with lanes := 2, m := [(0, 3), (2, m)] }) with threads := s.threads ++ [(1, {})] }

theorem witness_joinLeaveAndWaitm : ∀ i ∈ [Instr.join { rz with a := 2 }, .leave { rz with a := 2 }, .waitm { rz with a := 2 }],
    Meets i (runs i) noCheck ∧ Meets i (band2 (runs i) 3) noCheck ∧ Meets i (band2 (runs i) 2) noCheck ∧
    (band2 (runs i) 3).isMember 0 2 = true ∧
    ((band2 (runs i) 2).isMember 0 2 = false ∧ ((band2 (runs i) 2).members 0 2).all (· == 0) = false) ∧
    ((runs i).isMember 0 2 = false ∧ ((runs i).members 0 2).all (· == 0) = true) := fun i hi =>
  ⟨meets (by revert i; decide), meets (by revert i; decide), meets (by revert i; decide), by revert i; decide, by revert i; decide,
   by revert i; decide⟩

/-! ### Memory, fences, barriers and launches -/

/-- A word of each space: private, scratchpad, cluster, staging and global; the addresses are 64 of the first four. -/
def mem (sp : BitVec 3) : MFmt := ⟨12, 0, 4, if sp = 4 then 0 else 8, 63, sp, 3, 0, 0, 3, 0⟩

def readyRegs (s : State) : State := withRegs (rich s) [(8, 64), (9, 0)]

/-- LoadsIssue and StoresIssue: no copy in the L1, and one. -/
theorem witness_loadsIssue : ∀ p ∈ [(Instr.ldl (mem 0), mem 0), (.lds (mem 1), mem 1), (.ldc (mem 2), mem 2), (.ldp (mem 3), mem 3),
    (.ldg (mem 4), mem 4)], Meets p.1 (readyRegs (runs p.1)) (loadCheck p.2) :=
  meets_all (mk := Prod.fst) (st := fun p => readyRegs (runs p.1)) (own := fun p => loadCheck p.2) (by decide)

theorem witness_storesIssue : ∀ p ∈ [(Instr.stl (mem 0), mem 0), (.sts (mem 1), mem 1), (.stc (mem 2), mem 2), (.stp (mem 3), mem 3),
    (.stg (mem 4), mem 4), (.mcst (mem 4), mem 4)], Meets p.1 (readyRegs (runs p.1)) (storeCheck p.2) :=
  meets_all (mk := Prod.fst) (st := fun p => readyRegs (runs p.1)) (own := fun p => storeCheck p.2) (by decide)

/-- VersionsAndAtomicsIssue: each word; an overflown, an empty and a filled version set. -/
def casv : MFmt := { mem 4 with ord := 3, sc := 5 }

def atom (sp : BitVec 3) : MFmt := { mem sp with sz := 2, off := 0 }

theorem witness_versions : Meets (.ldv (mem 4)) (readyRegs (runs (.ldv (mem 4)))) (fun x t => x.memCheck t (mem 4) true true false true) ∧
    (∀ t ∈ [({ vover := true } : Thread), {}, { vset := [⟨512, 3, 1, 0x400000⟩] }],
      Meets (.vset { rz with d := 4 }) (withThread (runs (.vset { rz with d := 4 })) (fun x => { x with vset := t.vset, vover := t.vover })) vsetCheck) ∧
    Meets (.casv casv) (readyRegs (runs (.casv casv))) (rmwCheck casv true) :=
  ⟨meets (by decide), fun t ht => meets (by revert t; decide), meets (by decide)⟩

theorem witness_atomics : ∀ p ∈ [(Instr.atom (atom 4), atom 4), (.atoms (atom 1), atom 1), (.atoms (atom 2), atom 2), (.red (atom 4), atom 4)],
    Meets p.1 (readyRegs (runs p.1)) (rmwCheck p.2 false) :=
  meets_all (mk := Prod.fst) (st := fun p => readyRegs (runs p.1)) (own := fun p => rmwCheck p.2 false) (by decide)

theorem witness_events : ∀ f ∈ [atom 1, atom 4], Meets (.evsig f) (readyRegs (runs (.evsig f)))
      (fun x t => (x.releaseError t f).andThen (x.memCheck t f true true true false)) ∧
    Meets (.evwait f) (readyRegs (runs (.evwait f))) (loadCheck f) :=
  fun f hf => ⟨meets (by revert f; decide), meets (by revert f; decide)⟩

/-- HandlesAndTranslations: an address above 2^52, a miss and a hit; a pending hit that is due and a walk. -/
def trn : Instr := .trn ⟨12, 0, 2, 8, 63, 4, 0, 0, 0, 0, 0⟩

theorem witness_trn : ∀ s ∈ [withRegs (runs trn) [(9, 0x100000)], withRegs (runs trn) [(8, 0x400000)],
    { withRegs (runs trn) [(8, 0x400000)] with cores := [(0, { tlb := [⟨1, 0x400000, page, 0, 0⟩] })] }], Meets trn s noCheck :=
  fun s hs => meets (by revert s; decide)

theorem witness_trn_cases : 2 ^ 52 ≤ (((withRegs (runs trn) [(9, 0x100000)]).thread 0).reg64 8).toNat ∧
    ((withRegs (runs trn) [(8, 0x400000)]).core 0).tlbHit 1 0x400000 = none ∧
    (({ tlb := [⟨1, 0x400000, page, 0, 0⟩] } : Core).tlbHit 1 0x400000).isSome = true := by decide

theorem witness_handles : ∀ i ∈ [Instr.hrel { rz with a := 2 }, .hqry { rz with d := 4, a := 2 }, .hqry { rz with d := 4, a := 2, fn := 1 },
    .pref ⟨12, 0, 0, 0, 63, 4, 0, 0, 0, 0, 0⟩], Meets i (rich (runs i)) noCheck := fun i hi => meets (by revert i; decide)

def translating (h : Handle) : State := { withThread (runs trn) (fun t => { t with h := [(2, h)] }) with ev := { tid := 0, hdl := 2 } }

theorem witness_tlbHitValid : let s := { translating { pageHandle with st := .pending, due := some 12 } with clock := 12 }; let h := (s.thread s.ev.tid).hdl s.ev.hdl;
    (find? s.ev.tid s.threads).isSome = true ∧ h.st = .pending ∧ h.due = some 12 ∧ MayReach s 12 :=
  ⟨by decide, by decide, by decide, .inl (by decide)⟩

theorem witness_pageWalkEnd : let s := translating { pageHandle with st := .pending, walk := some (3, 0x1000) };
    let h := (s.thread s.ev.tid).hdl s.ev.hdl;
    (find? s.ev.tid s.threads).isSome = true ∧ h.st = .pending ∧ h.walk = some (3, (s.space h.asid).root) ∧ h.base.toNat < 2 ^ 52 ∧
    s.walkCache = [] := by decide

/-- FencesComplete: each word; a record that is posted and one that is not, a wait that is over. -/
def fence : MFmt := ⟨12, 0, 0, 0, 63, 0, 0, 5, 3, 0, 0xFFFF⟩

def fxi : MFmt := ⟨12, 0, 3, 0, 63, 0, 0, 0, 0, 0, 1⟩

theorem witness_fencesComplete : Meets (.fence fence) (runs (.fence fence)) (fenceCheck fence) ∧
    (Meets (.fxi fxi) (runs (.fxi fxi)) (fxiCheck fxi) ∧ performers (.fxi fxi) (runs (.fxi fxi)) = [0]) ∧
    Meets (.fxw { rz with a := 3 }) (runs (.fxw { rz with a := 3 })) (fxwCheck { rz with a := 3 }) :=
  ⟨meets (by decide), ⟨meets (by decide), by decide⟩, meets (by decide)⟩

/-- BarrierWords: a barrier that is whole and one that is broken, a recorded arrival that its generation has left behind. -/
def bar5 : IFmt := ⟨12, 0, 4, 0, 0x25, 0, 0⟩

theorem witness_barrierWords : ∀ p ∈ [(Instr.bar bar5, BarKind.team, false), (.barw bar5, .team, true), (.cbar bar5, .cluster, false),
    (.lbar bar5, .launch, false)], let s := rich (runs p.1);
    Meets p.1 s (barCheck p.2.1 bar5) ∧ (find? (s.band s.cur.bid).team s.teams).isSome = true ∧
    (find? (s.team (s.band s.cur.bid).team).lid s.launches).isSome = true ∧ s.barBroken p.2.1 1 5 = false ∧
    (let t := s.onLaunch (2 ^ 32) (fun l => { l with broken := [5, 21, 37, 53, 16, 32, 69, 133, s.barKey p.2.1 1 5] });
      Meets p.1 t (barCheck p.2.1 bar5) ∧ (p.2.1 ≠ .team → t.barBroken p.2.1 1 5 = true)) :=
  fun p hp => ⟨meets (by revert p; decide), by revert p; decide, by revert p; decide, by revert p; decide, meets (by revert p; decide),
    by revert p; decide⟩

theorem witness_barw_observes : let s := withThread (rich (runs (.barw bar5))) (fun t => { t with bara := [(5, true)] });
    Meets (.barw bar5) s (barCheck .team bar5) ∧ (s.barState .team 1 5).gen = false ∧ s.recorded 0 5 = some true :=
  ⟨meets (by decide), by decide⟩

theorem witness_bara : let s := rich (runs (.bara { bar5 with d := 0, imm := 5 })); let f := { bar5 with d := 0, imm := 5 };
    Meets (.bara f) s (fun x t => x.releaseAll t 2) ∧ (find? (s.band s.cur.bid).team s.teams).isSome = true ∧ (s.thread 0).wait = .none :=
  ⟨meets (by decide), by decide⟩

theorem witness_bar_alone : ∀ s ∈ [rich (runs (.bar bar5)), { rich (runs (.bar bar5)) with
      bands := [(0, { (rich (runs (.bar bar5))).band 0 with lanes := 2 })], threads := (rich (runs (.bar bar5))).threads ++ [(1, {})] }],
    Lone (.bar bar5) s ∧ Meets (.bar bar5) s (barCheck .team bar5) ∧ (find? 1 s.teams).isSome = true ∧ (s.team 1).place = .resident 0 ∧
    s.here 0 ∈ s.teamTids 1 ∧ (s.thread (s.here 0)).exited = false ∧ s.recorded (s.here 0) 5 = none :=
  fun s hs => ⟨lone (by revert s; decide), meets (by revert s; decide), by revert s; decide⟩

theorem witness_bar_all_arrived : ∀ r ∈ (rich (runs (.bar bar5))).liveRids 1, r = (rich (runs (.bar bar5))).rid 0 := by decide

/-- LaunchWords. -/
theorem witness_fetchw : let f : IFmt := { iz with a := 8, d := 10 }; let s := withRegs (rich (runs (.fetchw f))) [(8, 256), (10, 3)];
    Meets (.fetchw f) s (fetchwCheck f) ∧ performers (.fetchw f) s = [0] ∧ s.boxesOf 1 = [] ∧ s.teamWith (s.team 1).aid = some 1 :=
  ⟨meets (by decide), by decide⟩

theorem witness_notify : let s := rich (runs (.notify iz));
    Meets (.notify iz) s noCheck ∧ (find? 1 s.teams).isSome = true ∧ (find? (s.team 1).lid s.launches).isSome = true :=
  ⟨meets (by decide), by decide⟩

theorem witness_notify_again : let s := rich (runs (.notify iz)); let t := { s with teams := s.teams ++ [(9, { lid := (s.team 1).lid, hinted := true })] };
    Meets (.notify iz) t noCheck ∧ ∃ p ∈ t.teams, p.2.lid = (t.team 1).lid ∧ p.2.index = (t.team 1).index ∧ p.2.hinted = true :=
  ⟨meets (by decide), by decide⟩

theorem witness_wpred : Meets (.wpred iz) (rich (runs (.wpred iz))) wpredCheck := meets (by decide)

theorem witness_launchWords : ∀ i ∈ [Instr.twait { iz with a := 3, imm := 255 }, .cancel iz, .cancel { iz with fn := 1 }, .cntq { iz with d := 4 },
    .cntq { iz with d := 4, fn := 1 }, .cntq { iz with d := 4, fn := 2 }, .cntq { iz with d := 4, fn := 3 }, .cntq { iz with d := 4, a := 8, fn := 4 }],
    Meets i (rich (runs i)) noCheck := fun i hi => meets (by revert i; decide)

theorem witness_fxi_events : (let s := { withBand (runs (.nop rz)) (fun b => { b with fxis := [⟨7, 3, 0, [0], [], false⟩] }) with ev := { bid := 0, id := 7 } };
      (find? s.ev.bid s.bands).isSome = true ∧ (s.band s.ev.bid).fxis.find? (fun x => x.id == s.ev.id) = some ⟨7, 3, 0, [0], [], false⟩ ∧
      bandOf 0 = s.ev.bid) ∧
    (let s := withThread (runs (.nop rz)) (fun t => { t with wait := .fxw 3 });
      (find? s.ev.tid s.threads).isSome = true ∧ (s.thread s.ev.tid).wait = .fxw 3 ∧ s.fxwDone (bandOf s.ev.tid) 3 = true ∧
      s.storeError s.ev.tid (s.fxwCovers (bandOf s.ev.tid) 3) = .pass) := by decide

/-! ### Gangs, rays and engines -/

/-- Two bands of one lane each in a gang of two. -/
def gmma : RFmt := ⟨12, 0, 0, 32, 40, 41, 0, 0, 0, 0, 0⟩

def arrived1 : Gang := { n := 2, list := 32, arrivals := [⟨[0], [0, 32, 40, 41], 0, 0⟩] }

def ganged (i : Instr) (other : Gang) : State :=
  let s := withBand (rich (runs i)) (fun b => { b with gang := { n := 2, list := 32 } })
  let s := s.onTeam 1 (fun k => { k with bands := [0, 1] })
  { s with bands := sput 1 { team := 1, index := 1, lanes := 1, gang := other } s.bands, threads := s.threads ++ [(32, {})] }

theorem witness_gang : let f : RFmt := { rz with fn := 2, a := 8 }; let s := withRegs (ganged (.gang f) {}) [(8, 32)];
    s.gangOk s.cur.bid f.fn.toNat 32 = true ∧ Meets (.gang f) s noCheck := ⟨by decide, meets (by decide)⟩

theorem witness_gmma_waits : let s := ganged (.gmma gmma) { n := 2, list := 32 };
    Meets (.gmma gmma) s (gmmaCheck gmma) ∧ s.arrival s.cur.bid = none ∧ s.gangDead s.cur.bid = false ∧
    ∃ b ∈ s.gangBands s.cur.bid, b ≠ s.cur.bid ∧ s.arrival b = none := ⟨meets (by decide), by decide⟩

def released : State := (withRegs (ganged (.gmma gmma) arrived1) [(41, 0x7F7F00)]).onThread 32 (fun t => { t with g := [(41, 0x7F7F00)] })

theorem witness_gmma_released : let s := released;
    Meets (.gmma gmma) s (gmmaCheck gmma) ∧ s.arrival s.cur.bid = none ∧ s.gangDead s.cur.bid = false ∧
    (s.gangBands s.cur.bid).head? = some s.cur.bid ∧ (s.gangBands s.cur.bid).Nodup ∧
    (∀ b ∈ s.gangBands s.cur.bid, (s.band b).gang.count = (s.band s.cur.bid).gang.count ∧
      (s.band b).gang.n = (s.band s.cur.bid).gang.n ∧ (s.band b).gang.list = (s.band s.cur.bid).gang.list) ∧
    (s.arrival 1 = some ⟨[0], [0, 32, 40, 41], 0, 0⟩ ∧ ∀ x ∈ s.fmtWords 1 ⟨[0], [0, 32, 40, 41], 0, 0⟩, x.2 = 0x7F7F00) ∧ s.fresh ≠ 0 ∧
    (∀ tid ∈ performers (.gmma gmma) s, (s.thread tid).reg gmma.c.toNat = 0x7F7F00) ∧ fmtOk 0x7F7F00 = true ∧
    4096 ≤ (s.team (s.band s.cur.bid).team).alloc ∧ s.stagingPoison = [] ∧ (s.team 1).poison = [] := ⟨meets (by decide), by decide⟩

theorem witness_gmmaResultDelivery : let s := { rich (runs (.gmma gmma)) with lates := [⟨9, 0, [(0, 5), (1, 6)], 0, 0, 8⟩] };
    ∃ l ∈ s.lates, l.u = s.ev.u ∧ l.grp ≠ 0 ∧ (∀ x ∈ s.lates, x.u = l.u → x.grp ≠ 0 → l.grp ≤ x.grp) ∧
      (find? l.tid s.threads).isSome = true ∧ (l.words.map (·.1)).Nodup ∧ l.mark = 0 ∧
      s.lates.filter (fun x => x.tid == l.tid && x.grp == l.grp) = [l] := by decide

theorem witness_gangTimeout : let s := { ganged (.gmma gmma) arrived1 with clock := 2 ^ 20, ev := { bid := 1 } };
    s.arrival s.ev.bid = some ⟨[0], [0, 32, 40, 41], 0, 0⟩ ∧ s.gangDead s.ev.bid = false ∧
    (s.gangBands s.ev.bid).filter (fun b => (s.arrival b).isSome) = [s.ev.bid] ∧ s.teamHalted (s.band s.ev.bid).team = false ∧
    (s.core (unitOfBand s.ev.bid)).gangLive.toNat % 2 ^ 32 ≠ 0 ∧
    MayReach s (0 + (s.core (unitOfBand s.ev.bid)).gangLive.toNat % 2 ^ 32) := by
  refine ⟨by decide, by decide, by decide, by decide, by decide, .inl (by decide)⟩

def frag : MFmt := ⟨12, 0, 16, 8, 63, 1, 0, 0, 0, 1, 2⟩

theorem witness_fragments : ∀ i ∈ [Instr.gldf frag, .gstf frag], Meets i (readyRegs (runs i)) (fragCheck frag) :=
  fun i hi => meets (by revert i; decide)

theorem witness_groups : ∀ i ∈ [Instr.cmprs { rz with d := 4, a := 8, ty := 8 }, .dcmprs { rz with d := 4, a := 8, ty := 6 },
    .rayb { rz with a := 8, c := 20 }, .rayn { rz with d := 4 }, .rayn { rz with d := 4, fn := 1 }, .rayc rz, .rayc { rz with fn := 1 },
    .rayc { rz with fn := 2 }], Meets i (runs i) noCheck := meets_runs (by decide)

theorem witness_expand : ∀ ty ∈ [(4 : BitVec 4), 5, 6, 8, 9, 10, 11, 12, 13], 0xABCD < 2 ^ (4 * elemBits ty) := by decide

theorem witness_rayq : ∀ s ∈ [withThread (rich (runs (.rayq { rz with d := 4 }))) (fun t => { t with ray := { finished := true } }),
    withThread (rich (runs (.rayq { rz with d := 4 }))) (fun t => { t with ray := { cur := 0x4000000000000000 } })], Meets (.rayq { rz with d := 4 }) s rayqCheck :=
  fun s hs => meets (by revert s; decide)

theorem witness_rayq_cases : ({ finished := true } : Ray).ended = true ∧ ({ cur := 0x4000000000000000 } : Ray).ended = false := by decide

/-- EngineAndCopyWordsDispatch: tile words with their slots claimed, and copies of a shader thread and of a tile. -/
def engines : List (Instr × (State → Nat → Check) × EngineQ) :=
  [(.mma { fE with a := 0 }, noCheck, .mq), (.mmas { fE with a := 0 }, noCheck, .mq), (.mzero { fE with b := 0, c := 0 }, noCheck, .mq),
   (.old { fE with b := 8, c := 9 }, oldCheck { fE with b := 8, c := 9 }, .lq), (.mdrn { fE with b := 8, c := 9 }, mdrnCheck { fE with b := 8, c := 9 }, .sq),
   (.vld { fE with b := 8, c := 0 }, fun x t => scratchCheck (x.gval t 8 % 16 != 0) (x.gval t 8 + 256) (x.team (x.teamOf t)).alloc (x.gval t 8), .lq),
   (.vst { fE with b := 8, c := 0 }, fun x t => scratchCheck (x.gval t 8 % 16 != 0) (x.gval t 8 + 256) (x.team (x.teamOf t)).alloc (x.gval t 8), .sq),
   (.vadd fE, noCheck, .aq), (.vsub fE, noCheck, .aq), (.vmul fE, noCheck, .aq), (.vfma fE, noCheck, .aq), (.vmin fE, noCheck, .aq),
   (.vmax fE, noCheck, .aq), (.vexp { fE with c := 0 }, noCheck, .aq), (.vrcp { fE with c := 0 }, noCheck, .aq),
   (.vrsq { fE with c := 0 }, noCheck, .aq), (.vtanh { fE with c := 0 }, noCheck, .aq), (.vcvt { fE with c := 0, efn := 1 }, noCheck, .aq),
   (.vred { fE with c := 0 }, noCheck, .aq), (.vbcst { fE with c := 0 }, noCheck, .aq), (.vperm fE, noCheck, .aq), (.vsel fE, noCheck, .aq),
   (.vcmp fE, noCheck, .aq), (.vscl fE, noCheck, .aq), (.vmov { fE with c := 0 }, noCheck, .aq), (.vmov { fE with b := 0, c := 8, efn := 4 }, noCheck, .aq)]

def onTile (s : State) (f : Tile → Tile) : State := s.onTile 1024 f

def tileState (i : Instr) : State :=
  onTile (withRegs (rich (runs i)) [(8, 4096), (9, 512)]) (fun t => { t with claims := [(1, true), (2, true), (3, true)] })

theorem witness_engineWordsDispatch : ∀ p ∈ engines, Meets p.1 (tileState p.1) (fun x t =>
      ((slotCheck (x.tile (unitOf t)) (slotsNamed p.1 [])).andThen (p.2.1 x t)).andThen (x.roomCheck t (.tile 1024 p.2.2) 63)) ∧
    performers p.1 (tileState p.1) = [32 * 65536] := fun p hp => ⟨meets (by revert p; decide), by revert p; decide⟩

def tcpy : EFmt := ⟨12, 0, 1, 0, 8, 0, 31, 31, 31, 2⟩

def cpy : EFmt := ⟨12, 0, 1, 0, 8, 12, 31, 31, 31, 2⟩

def cpym : EFmt := ⟨12, 0, 1, 0, 8, 20, 31, 31, 31, 2⟩

def bvhr : EFmt := ⟨12, 0, 1, 0, 8, 12, 31, 31, 31, 2⟩

theorem witness_copyWordsDispatch : ∀ p ∈ [(Instr.tcpy tcpy, tcpy, tensorCheck tcpy false), (.tcst tcpy, tcpy, tensorCheck tcpy false),
    (.cpy cpy, cpy, flatCheck cpy false), (.cpym cpym, cpym, flatCheck cpym true), (.bvhr bvhr, bvhr, bvhrCheck bvhr)],
    let s := withRegs (rich (runs p.1)) [(8, 0), (10, 256), (12, 16), (13, 1)];
    Meets p.1 s (fun x t => ((copyError p.2.1 x t).andThen ((p.2.2 x t).andThen (copyRelease p.2.1 x t))).andThen
      (x.roomCheck t (queueFor t .cq) p.2.1.d)) ∧ performers p.1 s = [0] := fun p hp => ⟨meets (by revert p; decide), by revert p; decide⟩

def waiting : Entry := { instr := .mzero fE, word := 0, addr := 0, tid := 0, dno := 1 }

theorem witness_dispatch_stalls : let s := onTile (tileState (.mma { fE with a := 0 })) (fun t => { t with mq := { entries := List.replicate 32 waiting } });
    Lone (.mma { fE with a := 0 }) s ∧ verdict (.mma { fE with a := 0 }) s noCheck 0 = .pass ∧ (s.tile s.cur.u).claimed 2 = true ∧
    (s.tile s.cur.u).claimed 3 = true ∧ 32 ≤ (s.tile s.cur.u).mq.entries.length := ⟨lone (by decide), by decide⟩

theorem witness_dispatch_traps : (let i : Instr := .mma { fE with a := 0, d := 5 };
      let s := onTile (tileState i) (fun t => { t with k := [(5, { issued := 1 })] });
      Lone i s ∧ verdict i s noCheck 0 = .pass ∧ (s.tile s.cur.u).claimed 2 = true ∧ (s.tile s.cur.u).claimed 3 = true ∧
      s.dispatchStalls (.tile s.cur.u .mq) = false ∧ ((s.tile s.cur.u).mq.entries.filter (fun e => e.tok == some 5)).length <
        (s.token (s.here 0) 5).outstanding) ∧
    (let i : Instr := .mma { fE with a := 0 };
      Lone i (runs i) ∧ verdict i (runs i) noCheck 0 = .pass ∧ ((runs i).tile (runs i).cur.u).claimed 2 = false) :=
  ⟨⟨lone (by decide), by decide⟩, ⟨lone (by decide), by decide⟩⟩

/-! ### Tile control words -/

/-- TileControlWords: the ring that the words name, empty and with a filled and an acquired slot. -/
def ring : Ring := { base := 0, size := 128, count := 2 }

def withRing (s : State) (r : Ring) : State := onTile s (fun t => { t with rings := [(0, r)] })

theorem witness_tileControlWords : ∀ i ∈ [Instr.tqcfg { iz with imm := 160 }, .tokr { iz with d := 4, a := 3 }, .mcfg { iz with imm := 3 },
    .oclm ⟨12, 0, 63, 7, 0, 0, 31, 31, 31, 0⟩, .orel ⟨12, 0, 63, 1, 0, 0, 31, 31, 31, 0⟩, .orel ⟨12, 0, 63, 1, 0, 0, 5, 31, 31, 0⟩,
    .rngd { iz with a := 8, imm := 8 }], Meets i (tileState i) noCheck ∧ performers i (tileState i) = [32 * 65536] :=
  fun i hi => ⟨meets (by revert i; decide), by revert i; decide⟩

theorem witness_slots : (let s := tileState (.oclm ⟨12, 0, 63, 7, 0, 0, 31, 31, 31, 0⟩); (s.tile s.cur.u).claimed 7 = false) ∧
    (let s := tileState (.orel ⟨12, 0, 63, 1, 0, 0, 31, 31, 31, 0⟩); (s.tile s.cur.u).claimed 1 = true ∧ (s.tile s.cur.u).named 1 = false ∧
      s.waitsMet 2097152 (s.targets 2097152 [31, 31, 31]) = true) ∧
    (let s := onTile (tileState (.orel ⟨12, 0, 63, 1, 0, 0, 5, 31, 31, 0⟩)) (fun t => { t with k := [(5, { issued := 1 })] });
      s.waitsMet 2097152 (s.targets 2097152 [5, 31, 31]) = false) := by decide

theorem witness_rngd : let s := tileState (.rngd { iz with a := 8, imm := 8 }); ((s.thread 2097152).reg 8).toNat % 128 = 0 ∧
    4096 + 2 * 128 ≤ (s.team (s.teamOf 2097152)).alloc ∧ find? 0 (s.tile s.cur.u).rings = none := by decide

theorem witness_rings : ∀ r ∈ [ring, { ring with filled := 1 }], let s := withRing (tileState (.rnga { iz with d := 5 })) r;
    Meets (.rnga { iz with d := 5 }) s noCheck ∧ performers (.rnga { iz with d := 5 }) s = [2097152] ∧ find? 0 (s.tile s.cur.u).rings = some r :=
  fun r hr => ⟨meets (by revert r; decide), by revert r; decide⟩

def rngf (imm : BitVec 24) : State :=
  onTile (withRing (tileState (.rngf { iz with imm := imm })) { ring with acquired := 1 }) (fun t => { t with k := [(5, { issued := 1 })] })

theorem witness_rngf : (Meets (.rngf { iz with imm := 8184 }) (rngf 8184) noCheck ∧ Meets (.rngf { iz with imm := 7976 }) (rngf 7976) noCheck) ∧
    performers (.rngf { iz with imm := 8184 }) (rngf 8184) = [2097152] ∧ performers (.rngf { iz with imm := 7976 }) (rngf 7976) = [2097152] ∧
    find? 0 ((rngf 8184).tile 1024).rings = some { ring with acquired := 1 } ∧
    (rngf 8184).waitsMet 2097152 ((rngf 8184).targets 2097152 [31, 31]) = true ∧
    (rngf 7976).waitsMet 2097152 ((rngf 7976).targets 2097152 [5, 31]) = false := ⟨⟨meets (by decide), meets (by decide)⟩, by decide⟩

/-- BRCV binds channel 16 on a tile of die 4, and unbinds it. -/
def brcv (efn : BitVec 10) : EFmt := ⟨12, 0, 63, 0, 0, 0, 31, 31, 31, efn⟩

def binding (efn : BitVec 10) (bound : Option (Nat × Nat)) : State :=
  { withRing (tileState (.brcv (brcv efn))) ring with channels := [(16, { bound := bound, team := (tileState (.brcv (brcv efn))).teamOf 2097152 })] }

theorem witness_brcv : Meets (.brcv (brcv 0x10)) (binding 0x10 none) (brcvCheck (brcv 0x10)) ∧
    Meets (.brcv (brcv 0x90)) (binding 0x90 (some (1024, 0))) (brcvCheck (brcv 0x90)) ∧
    performers (.brcv (brcv 0x10)) (binding 0x10 none) = [2097152] := ⟨meets (by decide), meets (by decide), by decide⟩

/-! ### Events: requests, replies, waits -/

/-- The machine with an event's arguments: it holds one thread, its team and its launch. -/
def base : State := rich (runs (.nop rz))

def onTileBase : State := tileState (.tokr { iz with d := 4, a := 3 })

/-- A request in flight of that thread; in `away` the slice's die is flushed, so that its agent serves the request. -/
def asked (r : Req) : State := { base with reqs := [r], ev := { id := r.id } }

def away (r : Req) : State := { asked r with dies := [(0, { st := .flushed })] }

def part : ReqPart := { tid := 0, va := 0x400040, addrs := [0x10040, 0x10041, 0x10042, 0x10043], data := [1, 2, 3, 4], dests := [(4, 0)] }

def asking (kind : ReqKind) : Req := { id := 9, seq := 9, u := 0, place := .phys, kind := kind, parts := [part], st := 3 }

def fadd : AtomOp := { code := 0, v := 5, cmp := 0, size := 4 }

/-- RequestsArePerformed: a load, a store and an atomic that nothing holds back, at a slice and at the agent. -/
theorem witness_performable : (∀ k ∈ [ReqKind.load, .store, .atom fadd true], Performable (asked (asking k)) (asking k) false) ∧
    ∀ k ∈ [ReqKind.load, .store, .atom fadd true], Performable (away (asking k)) (asking k) true :=
  ⟨fun k hk => ⟨by revert k; decide, rfl, by revert k; decide, by revert k; decide, by revert k; decide, by revert k; decide, by revert k; decide, by intro _ h; cases h⟩,
   fun k hk => ⟨by revert k; decide, rfl, by revert k; decide, by revert k; decide, by revert k; decide, by revert k; decide, by revert k; decide, by intro _ h; cases h⟩⟩

theorem witness_unpoisoned : (∀ k ∈ [ReqKind.load, .atom fadd true], ∀ s ∈ [asked (asking k), away (asking k)],
    ((s.acquireDrop (asking k)).fillFor (dataWho 0) .phys part.addrs).readsPoison .phys part.addrs = false) ∧
    part.addrs = runOf 0x10040 fadd.size ∧ ∀ n, ((asked (asking .store)).stack n).fencedBanks = [] := ⟨by decide, by decide, fun _ => rfl⟩

theorem witness_held_back : (asked { asking .load with performed := true }).req? 9 = some { asking .load with performed := true } ∧
    (let s := { asked (asking .load) with reqs := [{ asking .store with id := 3, seq := 3 }, asking .load] };
      s.req? s.ev.id = some (asking .load) ∧ s.blocked (asking .load) = true) ∧
    ({ asked (asking .load) with packets := [{ cls := .req, ref := 9, src := 0, dst := 4096, node := 0, rest := [1] }] } : State).hasArrived
      (asking .load) 0 = false := by decide

theorem witness_error_reply : ∀ k ∈ [ReqKind.load, .store], let r := { asking k with err := some 0x0F };
    (asked r).req? 9 = some r ∧ (asked r).blocked r = false ∧ (asked r).agentServes r 0 = false ∧
    (asked r).hasArrived r 0 = true ∧ (asked r).replyError r = some 0x0F := by decide

/-- RepliesAreDelivered: a store that is performed, with an error and without; an event word; a late result; two refills. -/
theorem witness_replies : (∀ e ∈ [none, some 0x0F], let r := { asking .store with performed := true, err := e };
      (asked r).req? 9 = some r ∧ r.isStore = true ∧ r.writes = true ∧ (find? 0 (asked r).threads).isSome = true ∧
      (asked r).carries .rsp 9 = false ∧
      ({ asked r with packets := [{ cls := .rsp, ref := 9, src := 4096, dst := 0, node := 0, rest := [1] }] } : State).carries .rsp 9 = true) ∧
    (let r := { asking .evwait with performed := true }; let s := withThread (asked r) (fun t => { t with wait := .evwait 9 7 4 });
      s.req? s.ev.id = some r ∧ s.replyError r = none ∧ (s.thread 0).wait = .evwait 9 7 4 ∧
      ((s.acquireDrop r).fillFor (dataWho 0) .phys part.addrs).readsPoison .phys part.addrs = false) := by decide

theorem witness_evwait_values : ((7 : Word) - 7).toNat < 2 ^ 31 ∧ 2 ^ 31 ≤ ((6 : Word) - 7).toNat := by decide

theorem witness_lateResult : let l : Late := { id := 9, tid := 0, words := [(4, 1), (5, 2)] }; let s := { base with lates := [l], ev := { id := 9 } };
    s.lates.find? (fun x => x.id == s.ev.id) = some l ∧ s.carries .rsp 9 = false ∧ l.grp = 0 ∧ (s.thread 0).wait = .none ∧ (find? l.tid s.threads).isSome = true ∧ (l.words.map (·.1)).Nodup := by decide

theorem witness_refill : ∀ w ∈ [(0x400040 : Nat), 0x400044], let l : Late := { id := 9, tid := 0, words := [(0, BitVec.ofNat 32 w), (1, 0)] };
    let s := { withThread base (fun t => { t with wait := .refill 9 }) with lates := [l] };
    (find? s.ev.tid s.threads).isSome = true ∧ (s.thread s.ev.tid).wait = .refill 9 ∧ s.lates.find? (fun x => x.id == 9) = some l ∧ s.carries .rsp 9 = false ∧
    (s.band (bandOf s.ev.tid)).tvec &&& 0x000FFFFFFFFFFFF8 ≠ 0 ∧ (s.thread s.ev.tid).inh = false := by decide

/-- WaitsEnd: each wait, in a state where it is over, and a token wait that is not. -/
theorem witness_waitsEnd : ∀ w ∈ [Wait.sleep 50, .twait 3 0, .tokens [] (.orel 7), .tokens [] (.rngf 0), .rnga 0 5, .wpred, .invw 2 4],
    let s := { withThread (withRing onTileBase { ring with filled := 1, acquired := 1 }) (fun t => { t with wait := w }) with
      ev := { tid := 2097152 }, invq := [⟨2, 1, 0, 0, 0, 0, true, [], [], [], [], true⟩] };
    (find? s.ev.tid s.threads).isSome = true ∧ (s.thread s.ev.tid).wait = w ∧ (s.token s.ev.tid 3).outstanding ≤ 0 ∧
    s.waitsMet s.ev.tid [] = true ∧ (s.tile 1024).named 7 = false ∧ s.readsDone s.ev.tid (fun _ => true) = true ∧ s.predsDone s.ev.tid = true ∧
    s.storeError s.ev.tid (fun _ => true) = .pass ∧ ((s.invCmd 2).map (·.complete)) = some true := by decide

set_option maxRecDepth 20000 in
theorem witness_mayReach : MayReach onTileBase 5000 ∧ MayReach { onTileBase with clock := 60 } 50 :=
  ⟨mayReach (by decide), .inl (by decide)⟩

theorem witness_tokenWait_unmet : let s := withThread (onTile onTileBase (fun t => { t with k := [(3, { issued := 2 })] })) (fun t => { t with wait := .twait 3 1 });
    (s.thread 2097152).wait = .twait 3 1 ∧ 1 < (s.token 2097152 3).outstanding := by decide

theorem witness_fetchw_events : ∀ n ∈ [2, 1], let m : Mailbox := ⟨7, 2 ^ 32, 256, true, false⟩;
    let s := { (withBand base (fun b => { b with boxes := [m] })).onLaunch (2 ^ 32) (fun l => { l with total := n, next := 1 }) with ev := { id := 7 } };
    (find? s.ev.bid s.bands).isSome = true ∧ (s.band s.ev.bid).boxes.find? (fun x => x.id == s.ev.id && x.pending) = some m ∧
    s.teamWith (s.team 1).aid = some 1 ∧ (∀ p ∈ s.teams, p.2.lid = m.lid → p.2.place ≠ .returned) ∧
    (s.launch m.lid).cancelled = false ∧ (s.launch m.lid).desc.tensor = false ∧ (find? m.lid s.launches).isSome = true ∧
    (n = 2 → (s.launch m.lid).next < (s.launch m.lid).total) ∧ (n = 1 → (s.launch m.lid).total ≤ (s.launch m.lid).next) := by decide

/-! ### Engine entries and copies -/

/-- An entry that a queue holds, started or not. -/
def entry (i : Instr) (started : Bool) : Entry :=
  { instr := i, word := 0, addr := 0x400000, tid := 2097152, dno := 1, started := started, tok := some 5, regs := [4096, 512] }

def queued (n : EngineQ) (e : Entry) : State :=
  let q : Queue := { entries := [e] }
  { onTile onTileBase (fun t => match n with
      | .lq => { t with lq := q }
      | .aq => { t with aq := q }
      | .sq => { t with sq := q }
      | .mq => { t with mq := q }
      | .cq => { t with cq := q }) with ev := { q := .tile 1024 n, u := 1024 } }

theorem oldest {n : EngineQ} {e : Entry} (h : ((queued n e).queue (.tile 1024 n)).entries = [e] ∧ ((queued n e).queue (.tile 1024 n)).runs = true) :
    Oldest (queued n e) (.tile 1024 n) e [] :=
  ⟨h.1, h.2, fun _ h => absurd h List.not_mem_nil, fun u m h => by cases h; rfl⟩

/-- EntriesStartCompleteAndFault: unstarted with its waits met and unmet, finished, a queue in Fault, and a fault to take. -/
def mq (e : Entry) : State := queued .mq e

theorem witness_entries : (∀ e ∈ [entry (.mzero fE) false, { entry (.mzero fE) false with waits := [(3, 1)] }, { entry (.mzero fE) true with finished := true }],
      Oldest (mq e) (.tile 1024 .mq) e [] ∧ NoArrivals (mq e) ((mq e).queueTeam (.tile 1024 .mq))) ∧
    (mq (entry (.mzero fE) false)).waitsMet (queueTid (.tile 1024 .mq)) [] = true ∧
    (mq (entry (.mzero fE) false)).waitsMet (queueTid (.tile 1024 .mq)) [(3, 1)] = false :=
  ⟨fun e he => ⟨oldest (by revert e; decide), by revert e; unfold NoArrivals; decide⟩, by decide⟩

theorem witness_faulted_queue : ((onTile onTileBase (fun t => { t with mq := { faulted := true } })).queue (.tile 1024 .mq)).faulted = true := by decide

def faulty : Entry := { entry (.mzero fE) true with fault := some (0x10, 7) }

theorem witness_engineFault : let s := mq faulty; (s.queue s.ev.q).entries = [faulty] ∧ (s.queue s.ev.q).faulted = false ∧
    faulty.fault = some (0x10, 7) ∧ (s.thread faulty.tid).exited = false := by decide

theorem witness_engineTrapEntry : let s := { onTile (mq faulty) (fun t => { t with mq := { entries := [faulty], faulted := true } }) with ev := { tid := 2097152 } };
    (find? s.ev.tid s.threads).isSome = true ∧ (s.thread s.ev.tid).exited = false ∧ (s.thread s.ev.tid).parked = none ∧
    (s.thread s.ev.tid).inh = false ∧ (s.thread s.ev.tid).wait = .none ∧ s.firstFault s.ev.tid = some (.tile 1024 .mq, faulty) ∧
    (s.band (bandOf s.ev.tid)).tvec &&& 0x000FFFFFFFFFFFF8 ≠ 0 := by decide

theorem witness_engineTrap_held : let s := { withThread onTileBase (fun t => { t with inh := true }) with ev := { tid := 2097152 } };
    (s.thread s.ev.tid).inh = true ∧ s.stuckDispatch s.ev.tid = false ∧ s.neverEnds s.ev.tid = false := by decide

/-- VectorEntriesCompute and MatrixAndTransferEntriesCompute: a working entry of each instruction. -/
theorem working {n : EngineQ} {i : Instr} (h : ((queued n (entry i true)).queue (.tile 1024 n)).entries = [entry i true] ∧
    ((queued n (entry i true)).queue (.tile 1024 n)).runs = true) : Working (queued n (entry i true)) (.tile 1024 n) (entry i true) [] :=
  ⟨oldest h, rfl, rfl, rfl⟩

theorem witness_vectorEntries : ∀ i ∈ [Instr.vadd fE, .vsub fE, .vmul fE, .vfma fE, .vmin fE, .vmax fE, .vexp fE, .vrcp fE, .vrsq fE, .vtanh fE,
    .vcvt { fE with efn := 1 }, .vred fE, .vbcst fE, .vperm fE, .vsel fE, .vcmp fE, .vmov fE, .vscl fE], let s := queued .aq (entry i true);
    Working s (.tile 1024 .aq) (entry i true) [] ∧ NoArrivals s (s.queueTeam (.tile 1024 .aq)) ∧
    vPoisoned i (s.tile 1024) = none ∧ vNan 1024 (entry i true) (s.tile 1024) = none :=
  fun i hi => ⟨working (by revert i; decide), by revert i; unfold NoArrivals; decide, by revert i; decide, by
    have : (entry i true).nan = false := rfl
    simp only [vNan, this]
    split <;> simp⟩

theorem witness_transferEntries : ∀ p ∈ [(EngineQ.mq, Instr.mma { fE with a := 0 }), (.mq, .mmas { fE with a := 0 }), (.mq, .mzero { fE with a := 0 }),
    (.lq, .old fE), (.sq, .mdrn { fE with a := 0 }), (.lq, .vld fE), (.sq, .vst { fE with efn := 2 })], let s := queued p.1 (entry p.2 true);
    Working s (.tile 1024 p.1) (entry p.2 true) [] ∧ NoArrivals s (s.queueTeam (.tile 1024 p.1)) ∧ (s.teamWith (s.tileAid 1024)).isSome = true ∧
    (s.tile 1024).stepWaits { fE with a := 0 } 0 = false ∧ (s.tile 1024).accPoison = [] ∧ (s.team 1).poison = [] ∧ vPoisoned p.2 (s.tile 1024) = none :=
  fun p hp => ⟨working (by revert p; decide), by revert p; unfold NoArrivals; decide⟩

/-! ### Copies -/

/-- A copy that works as the oldest entry of band 0's queue. -/
def copying (i : Instr) : Entry :=
  { instr := i, word := 0, addr := 0x400000, tid := 0, dno := 1, started := true, regs := [0x400, 0, 0x800, 0, 16, 0, 0, 0],
    hdls := [pageHandle, pageHandle], aids := [1], region := some (0x10000, 65536) }

def copyState (e : Entry) : State := { withBand base (fun b => { b with cq := { entries := [e] } }) with ev := { q := .band 0, dno := 1 } }

theorem copyWorks {e : Entry} (h : ((copyState e).queue (.band 0)).entries = [e] ∧ ((copyState e).queue (.band 0)).runs = true ∧
    e.started = true ∧ e.finished = false ∧ e.fault = none) : Working (copyState e) (.band 0) e [] :=
  ⟨⟨h.1, h.2.1, fun _ h => absurd h List.not_mem_nil, fun u m h => by cases h⟩, h.2.2.1, h.2.2.2.1, h.2.2.2.2⟩

/-- CopiesLand: a tile of four elements, of which two lie inside the tensor, is copied to the scratchpad. -/
def tcb : List Byte := [0, 0, 0, 0, 0, 1, 0, 0, 0, 1, 0, 0, 0, 0, 0, 0, 2, 0, 0, 0, 1, 0, 0, 0, 1, 0, 0, 0, 1, 0, 0, 0] ++ List.replicate 32 0 ++
  [4, 0, 1, 0, 1, 0, 1, 0, 7, 0, 0, 0] ++ List.replicate 52 0

def tileCopy : Entry := { copying (.tcpy tcpy) with snap := some tcb }

theorem witness_tcpy : Working (copyState tileCopy) (copyState tileCopy).ev.q tileCopy [] ∧ (copyState tileCopy).ev.dno = tileCopy.dno ∧
    (copyState tileCopy).destOf (.band 0) tileCopy = .scratch 1 0x800 ∧ ((copyState tileCopy).teamWith 1).isSome = true ∧
    (tcbOf tcb).mx = false ∧ (tcbOf tcb).order = 0 ∧ (tcbOf tcb).bits ∈ [8, 16, 32] ∧ (tcbOf tcb).fmt ≤ 5 :=
  ⟨copyWorks (by decide), by decide⟩

/-- One piece of 16 bytes from memory to the scratchpad, to each target, and to a bridge channel. -/
def fromMemory : Access := { addrs := runOf 0x10400 16, va := 0x400400, asid := 1 }

def toScratch : Access := { place := .scratch 1, addrs := runOf 0x800 16, va := 0x800 }

theorem witness_flatCopies : ∀ i ∈ [Instr.cpy cpy, .cpym cpym], let e := copying i; let s := copyState e;
    Working s s.ev.q e [] ∧ s.ev.dno = e.dno ∧ bridgeOf e = none ∧ e.upc < flatPieces e ∧ s.ev.discard = false ∧
    s.flatSides s.ev.q e e.upc = .inl (fromMemory, toScratch) ∧ toScratch.addrs.Nodup ∧ fromMemory.addrs.length = toScratch.addrs.length ∧
    (∀ n, (s.stack n).fencedBanks = []) ∧ ∀ aid ∈ e.aids, (s.teamWith aid).isSome = true :=
  fun i hi => ⟨copyWorks (by revert i; decide), by revert i; decide, by revert i; decide, by revert i; decide, by revert i; decide,
    by revert i; decide, by decide, rfl, fun _ => rfl, by revert i; decide⟩

theorem witness_bridgeCopy : let e := copying (.cpy { cpy with c := 44 }); let s := copyState e;
    Working s s.ev.q e [] ∧ s.ev.dno = e.dno ∧ bridgeOf e = some 0 ∧ e.upc < flatPieces e ∧ s.ev.discard = false ∧
    s.bridgeHeld s.ev.q e = false ∧ s.channelFull 0 = false ∧ s.flatSides s.ev.q e e.upc = .inl (fromMemory, {}) := ⟨copyWorks (by decide), by decide⟩

/-- A beat lands, in the middle of a slot and as its last one. -/
def beat : Beat := { data := List.replicate 16 7, bad := [], team := 1, index := 0, dno := 1, last := false }

def bridged (r : Ring) : State := { withRing onTileBase r with channels := [(16, { bound := some (1024, 0), team := 1, beats := [beat] })], ev := { chan := 16 } }

theorem witness_beats : ∀ p ∈ [(0 : Nat), 112], let r := { ring with chan := some 16, part := p }; let s := bridged r;
    find? s.ev.chan s.channels = some { bound := some (1024, 0), team := 1, beats := [beat] } ∧ (s.team 1).place = .resident 1024 ∧ find? 0 (s.tile 1024).rings = some r ∧ r.hasRoom = true ∧
    r.chan = some s.ev.chan ∧ (s.teamWith (s.tileAid 1024)).isSome = true := by decide

/-- A refit of a box node that has an empty child in every place. -/
def refit : Entry := copying (.bvhr bvhr)

def refitState : State := let s := copyState refit; { s with mem := Memory.writeAll s.mem (cellsAt 0x10400 (toBytes 8 0x4000000000001000)) }

set_option maxRecDepth 8000 in
theorem witness_refit : Working refitState refitState.ev.q refit [] ∧ refitState.ev.dno = refit.dno ∧
    (refitState.refitReads refitState.ev.q refit).refitFault refitState.ev.q refit = none ∧ refitState.ev.discard = false ∧ ∀ n, (refitState.stack n).fencedBanks = [] :=
  ⟨⟨⟨by decide, by decide, fun _ h => absurd h List.not_mem_nil, fun u m h => by cases h⟩, rfl, rfl, rfl⟩, rfl, by decide, rfl, fun _ => rfl⟩

/-! ### The distributor -/

/-- Address space 1 maps its first 16 GiB onto stack 0 with one leaf; context 1 has a queue table at 0x4000. -/
def flat (cells : List (Nat × Byte)) (s : State) : State :=
  { s with mem := [(0x1000, 1), (0x1001, 0x20), (0x2000, 0x9F)] ++ cells }.onCtx 1
    (fun x => { x with qtab := 0x4000, burrow := 0x8000, shaderset := 2 ^ 32 - 1 })

/-- Entry 0 of the queue table has one launch between the read and the write count, and its ring names a descriptor of a launch of
one team of one thread, with some register count. -/
def submitting (regs : Byte) : State :=
  { flat [(0x4001, 0x41), (0x4008, 1), (0x4009, 1), (0x400A, 1), (0x400C, 1), (0x4101, 0x42), (0x4202, 0x40), (0x420B, regs), (0x420C, 1),
      (0x420D, 1), (0x4210, 1), (0x4214, 1), (0x4218, 1), (0x424E, 1), (0x4252, 1)] (runs (.nop rz)) with ev := { ctx := 1, queue := 0 } }

/-- What a state needs for its address space 1 to read as `flat` leaves it. -/
structure Flat (s : State) : Prop where
  space : s.space (s.ctx 1).asid = { root := 0x1000, valid := true, blocks := 1 }
  top : s.readEntry 0x1000 = some 0x2001
  next : s.readEntry 0x2000 = some 0x9F
  leaf : s.entryKind { root := 0x1000, valid := true, blocks := 1 } 0x9F 2 = .leaf (leafFields 0x9F 2)

theorem flat_pa {s : State} (h : Flat s) {va : Nat} (hv : va < 2 ^ 34) (w : Bool) : s.ctxPa 1 va w = some va := by
  have e3 : entryAddr 0x1000 va 3 = 0x1000 := by simp only [entryAddr, bitsOf]; omega
  have e2 : entryAddr 0x2000 va 2 = 0x2000 := by simp only [entryAddr, bitsOf]; omega
  have k3 : s.entryKind { root := 0x1000, valid := true, blocks := 1 } 0x2001 3 = .table 0x2000 := by rfl
  have hr : (leafFields 0x9F 2).r = true ∧ (leafFields 0x9F 2).w = true := by decide
  have hm : (leafFields 0x9F 2).map va = va := by
    have : (leafFields 0x9F 2).pa = 0 ∧ pageBytes (leafFields 0x9F 2).size = 2 ^ 34 := by decide
    rw [Leaf.map, this.1, this.2]; omega
  have hx : s.extend va = some va := by
    have hl : isLocal va = true := by simp [isLocal]; omega
    have hf : isFabric va = false := by simp [isFabric]; omega
    simp [State.extend, hl, hf]
  have hw : s.walk (s.ctx 1).asid va = some (leafFields 0x9F 2) := by
    have h52 : va < 2 ^ 52 := by omega
    have hn : ¬ 2 ^ 52 ≤ va := by omega
    simp only [State.walk, h.space, hn, decide_false, Bool.not_true, Bool.or_false, State.walkFrom, e3, h.top, k3, e2, h.next, h.leaf]
    rfl
  have hf : s.farOff va = false := by
    have : remotePkg va = none := by simp [remotePkg]; omega
    simp [State.farOff, this]
  simp [State.ctxPa, hw, hr.1, hr.2, hm, hx, hf]

theorem flat_bytes {s : State} (h : Flat s) {va n : Nat} (hv : va + n ≤ 2 ^ 34) : s.ctxBytes 1 va n = some (s.readN .phys va n) := by
  rw [State.ctxBytes, State.readN]
  have : ∀ l : List Nat, (∀ i ∈ l, i < n) →
      l.mapM (fun i => (s.ctxPa 1 (va + i) false).map (s.readByte .phys)) = some (l.map (fun i => s.readByte .phys (va + i))) := by
    intro l hl
    induction l with
    | nil => rfl
    | cons a l ih =>
      have ha := hl a (by simp)
      rw [List.mapM_cons, ih (fun i hi => hl i (List.mem_cons_of_mem _ hi)), flat_pa h (by omega)]
      rfl
  exact this _ (fun i hi => List.mem_range.1 hi)

theorem flat_cells {s : State} (h : Flat s) {va : Nat} {bs : List Byte} (hv : va + bs.length ≤ 2 ^ 34) :
    s.ctxCells 1 va bs = some (cellsAt va bs) := by
  rw [State.ctxCells]
  have : ∀ l : List (Nat × Byte), (∀ p ∈ l, p.1 < 2 ^ 34) → l.mapM (fun p => (s.ctxPa 1 p.1 true).map (fun a => (a, p.2))) = some l := by
    intro l hl
    induction l with
    | nil => rfl
    | cons a l ih =>
      rw [List.mapM_cons, ih (fun i hi => hl i (List.mem_cons_of_mem _ hi)), flat_pa h (hl a (by simp))]
      rfl
  refine this _ (fun p hp => ?_)
  simp only [cellsAt, List.mem_map] at hp
  obtain ⟨q, hq, rfl⟩ := hp
  have := List.mem_range.1 (List.of_mem_zip hq).1
  exact Nat.lt_of_lt_of_le (Nat.add_lt_add_left this va) hv

theorem flat_of {s : State} (h : s.space (s.ctx 1).asid = { root := 0x1000, valid := true, blocks := 1 } ∧ s.readEntry 0x1000 = some 0x2001 ∧
    s.readEntry 0x2000 = some 0x9F ∧ s.entryKind { root := 0x1000, valid := true, blocks := 1 } 0x9F 2 = .leaf (leafFields 0x9F 2)) : Flat s :=
  ⟨h.1, h.2.1, h.2.2.1, h.2.2.2⟩

/-- The hypotheses of a submission, for a queue entry e and a descriptor b. -/
def Submits (s : State) (e b : List Byte) (ok : Bool) : Prop :=
  (s.ctx 1).valid = true ∧ find? 0 (s.ctx 1).heads = none ∧ s.ctxBytes 1 ((s.ctx 1).qtab + 64 * 0) 64 = some e ∧ fieldOf e 12 4 ≠ fieldOf e 16 4 ∧
  s.ctxNat 1 (fieldOf e 0 8 + 8 * (fieldOf e 16 4 % 2 ^ fieldOf e 8 1)) 8 = some 0x4200 ∧ s.ctxBytes 1 0x4200 256 = some b ∧
  find? (65536 * 1 + (Desc.parse b).graph) s.graphs = none ∧ find? (65536 * 1 + (Desc.parse b).job) s.jobs = none ∧
  (∀ n, s.descOk 1 false n b = ok) ∧ (Desc.parse b).preds = []

theorem submits {s : State} {e b : List Byte} {ok : Bool} (h : Flat s) (h1 : (s.ctx 1).valid = true) (h2 : find? 0 (s.ctx 1).heads = none)
    (h3 : (s.ctx 1).qtab = 0x4000) (h4 : e = s.readN .phys 0x4000 64 ∧ fieldOf e 12 4 ≠ fieldOf e 16 4)
    (h5 : fieldOf e 0 8 + 8 * (fieldOf e 16 4 % 2 ^ fieldOf e 8 1) = 0x4100) (h6 : fromBytes (s.readN .phys 0x4100 8) = 0x4200)
    (h7 : b = s.readN .phys 0x4200 256) (h8 : s.graphs = [] ∧ s.jobs = []) (h9 : s.descOk 1 false 0 b = ok ∧ (Desc.parse b).preds = []) :
    Submits s e b ok :=
  ⟨h1, h2, by rw [h3, h4.1]; exact flat_bytes h (by decide), h4.2, by rw [h5, State.ctxNat, flat_bytes h (by decide), ← h6]; rfl,
    by rw [h7]; exact flat_bytes h (by decide), by rw [h8.1]; rfl, by rw [h8.2]; rfl,
    fun n => by rw [← h9.1]; simp [State.descOk, h9.2], h9.2⟩

set_option maxRecDepth 4000 in
theorem witness_launchSubmit : Submits (submitting 8) ((submitting 8).readN .phys 0x4000 64) ((submitting 8).readN .phys 0x4200 256) true :=
    submits (flat_of (by decide)) (by decide) (by decide) (by decide) (by decide) (by decide) (by decide) rfl (by decide) (by decide)

set_option maxRecDepth 4000 in
theorem witness_launchSubmit_refused : Submits (submitting 9) ((submitting 9).readN .phys 0x4000 64) ((submitting 9).readN .phys 0x4200 256) false :=
    submits (flat_of (by decide)) (by decide) (by decide) (by decide) (by decide) (by decide) (by decide) rfl (by decide) (by decide)

/-- A PKGBAR launch of n teams at the head of queue 0, and a ring of 16 empty slots. -/
def reserving (n : Nat) : State :=
  let s := (flat [] base).onCtx 1 (fun x => { x with heads := [(0, 2 ^ 32)] })
  { s.onLaunch (2 ^ 32) (fun l => { l with total := n, next := 0 }) with ev := { lid := 2 ^ 32 } }

theorem flat_reserving {n : Nat} (h : n = 17 ∨ n = 1) : Flat (reserving n) := by rcases h with rfl | rfl <;> exact flat_of (by decide)

theorem witness_pkgbarReserve : ∀ n, n = 17 ∨ n = 1 → let s := reserving n; let l := s.launch (2 ^ 32); let x := s.ctx l.ctx;
    l.desc.pkgbar = true ∧ l.reserved = false ∧ s.isHead (2 ^ 32) = true ∧ l.next < l.total ∧ s.ctxNat l.ctx x.burrow 8 = some 0 ∧
    s.ctxNat l.ctx (x.burrow + 0x80) 8 = some 0 ∧ s.ctxNat l.ctx (x.burrow + 0x100) 4 = some 0 ∧
    (n = 17 → 2 ^ x.bcap < 0 + l.total + (0 - 0)) ∧
    (n = 1 → 0 + l.total + (0 - 0) ≤ 2 ^ x.bcap ∧ ∃ w, s.ctxWrite l.ctx (x.burrow + 0x100) (toBytes 4 (0 + l.total)) = some w) := by
  intro n hn s l x
  have h := flat_reserving hn
  have hl : l.ctx = 1 := by rcases hn with rfl | rfl <;> decide
  have hx : x.burrow = 0x8000 := by rcases hn with rfl | rfl <;> decide
  have r8 : ∀ a, a = 0x8000 ∨ a = 0x8080 → fromBytes (s.readN .phys a 8) = 0 := by
    rintro a (rfl | rfl) <;> rcases hn with rfl | rfl <;> decide
  have r4 : fromBytes (s.readN .phys 0x8100 4) = 0 := by rcases hn with rfl | rfl <;> decide
  rw [hl, hx, State.ctxNat, State.ctxNat, State.ctxNat, flat_bytes h (by decide), flat_bytes h (by decide), flat_bytes h (by decide), State.ctxWrite,
    flat_cells h (by simp [toBytes])]
  refine ⟨?_, ?_, ?_, ?_, congrArg some (r8 _ (.inl rfl)), congrArg some (r8 _ (.inr rfl)), congrArg some r4, ?_⟩ <;>
    rcases hn with rfl | rfl <;> first | decide | exact ⟨by decide, fun h => absurd h (by decide)⟩ | exact ⟨fun h => absurd h (by decide), fun _ => ⟨by decide, _, rfl⟩⟩

/-- TeamsAreDrawnAndPlaced: a draw of the only ready queue, and the head of the machine queue. -/
def readyWith (tickets : List (Nat × Byte)) : State :=
  let s := (flat ([(0x4009, 1)] ++ tickets) (runs (.nop rz))).onCtx 1 (fun x => { x with heads := [(0, 2 ^ 32)] })
  { s.onLaunch (2 ^ 32) (fun l => { l with total := 2, remaining := 2 }) with ev := { ctx := 1, cl := 0 } }

def ready1 : State := readyWith [(0x400A, 1)]

/-- The hypotheses of a draw, beside the generator's. -/
def Draws (s : State) (n : Nat) : Prop :=
  (s.ctx 1).valid = true ∧ (s.ctx 1).suspended = false ∧ s.machineFirst = false ∧ s.returnedTeams (fun l => l.ctx == 1 && l.queue != 64) = [] ∧
  s.readyQueues 1 = [(0, 2 ^ 32, n)] ∧ s.clusterFor (2 ^ 32) = some 0 ∧ s.turnAt 0 = some 1 ∧ (s.launch (2 ^ 32)).desc.cgroup = 0

set_option maxRecDepth 4000 in
theorem witness_draw : Draws ready1 1 ∧ Draws (readyWith []) 0 ∧ ([(0, 2 ^ 32, 1)] : List (Nat × Nat × Nat))[0]? = some (0, 2 ^ 32, 1) ∧
    (0x00042021 : Word) = xorshift (ready1.ctx 1).x ∧ 0x00042021 % 1 = 0 := by
  simp only [Draws]
  decide

def machine1 : State := { ready1.onLaunch (2 ^ 32) (fun l => { l with queue := 64 }) with machineQ := [2 ^ 32], ctxs := [] }

set_option maxRecDepth 4000 in
theorem witness_machineQueue : machine1.returnedTeams (fun l => l.queue == 64 && !(machine1.ctx l.ctx).suspended) = [] ∧ machine1.machineWait = [] ∧ machine1.machineHead = some (2 ^ 32) ∧
    machine1.headReady (2 ^ 32) = true ∧ machine1.clusterFor (2 ^ 32) = some 0 ∧ (machine1.launch (2 ^ 32)).desc.cgroup = 0 := by decide

/-- A queued team of cluster 0; in cluster 1, with the steal. -/
def queued1 (cl : Nat) : State := { ready1 with teams := ready1.teams ++ [(7, { lid := 2 ^ 32, place := .queued 0 })], clusterQ := [(0, [7])], ev := { cl := cl } }

theorem witness_teamResident : let s := queued1 0; s.headGroup 0 = [7] ∧ (find? 7 s.teams).isSome = true ∧ s.throttled 0 = false ∧
    s.wokenWaits 0 = false ∧ s.teamSuspended 7 = false ∧ s.clusterOpen 0 = true ∧ s.coresFor 0 (s.team 7).lid 1 [] = some [1] ∧
    s.slotsFor 1 (s.launch (s.team 7).lid).desc.bands = some [0] ∧ (s.launch (s.team 7).lid).desc.tensor = false := by decide

theorem witness_steal : let s := queued1 1; let t := { s with lastStart := [(0, s.clock)] }; (find? 1 s.lastSteal = none) ∧ sget [] s.clusterQ 1 = [] ∧
    (s.longest 1 = some 0 ∧ t.longest 1 = some 0) ∧ sget [] s.clusterQ 0 = [7] ∧ s.stealable 7 1 = true ∧ (s.coreFor 1 (s.team 7).lid []).isSome = true ∧
    (find? 7 s.teams).isSome = true ∧ find? 0 s.lastStart ≠ some s.clock ∧ find? 0 t.lastStart = some t.clock := by decide

/-- A tensor launch of one tile at the head of the machine queue. -/
def tensor1 : State := { machine1.onLaunch (2 ^ 32) (fun l => { l with total := 1, next := 0, desc := { l.desc with tensor := true, trect := [4, 0, 1, 0, 1, 1] } }) with
  ev := { lid := 2 ^ 32 } }

theorem witness_tensorLaunch : let l := tensor1.launch (2 ^ 32); l.desc.tensor = true ∧ tensor1.isHead (2 ^ 32) = true ∧ l.next < l.total ∧
    tensor1.predsHinted (2 ^ 32) = true ∧ (tensor1.ctx l.ctx).suspended = false ∧ l.queue = 64 ∧ tensor1.machineWait = [] ∧
    (∀ u ∈ l.desc.tiles, tensor1.tileFree u l.desc.scratch = true ∧ (tensor1.die (dieOf u)).st = .online) ∧ l.desc.last ≠ 0 := by decide

/-- RegroupPicksReadyBands. -/
theorem witness_regroup : let s := ({ base with clock := 8 } : State).onWindow 0 0 (fun w => { w with next := 4 }); s.boot.stage = .up ∧
    (s.window 0 0).over s.clock = true ∧ MayReach s (s.slotDue 0 0) ∧ (s.bandsOf 0 0).Nodup ∧ s.bandsOf 0 0 ≠ [] ∧
    ∀ b ∈ s.bandsOf 0 0, (s.band b).lanes ≤ 32 ∧ ∀ l, l < (s.band b).lanes → (find? (32 * b + l) s.threads).isSome = true := by
  refine ⟨by decide, by decide, .inl (by decide), by decide⟩

/-- TeamsCompleteAndCongest: a team that is done, and one that is not. -/
def ending : State := { withThread (runs (.nop rz)) (fun t => { t with exited := true }) with ev := { team := 1 } }

theorem witness_teamComplete : (find? 1 ending.teams).isSome = true ∧ ending.isResident 1 = true ∧ ending.teamDone 1 = true ∧ (ending.team 1).done = false ∧
    (∀ b ∈ (ending.team 1).bands, (ending.band b).boxes = []) ∧ (ending.team 1).boxes = [] ∧ (ending.launch (ending.team 1).lid).remaining ≠ 0 ∧ base.teamDone 1 = false := by decide

theorem witness_countWithdrawn : ∀ p ∈ [false, true],
    let r := { asking .store with performed := true, posted := p, parts := [{ part with addrs := [if p then 2 ^ 60 else 64] }] }
    let s := { (asked r).onLaunch (2 ^ 32) (fun l => { l with remaining := 2, desc := { l.desc with pkgbar := false } }) with agenda := [.countWithdrawn], counts := [(2 ^ 32, [9])] }
    (∃ r ∈ s.reqs, r.id ∈ [9] ∧ r.holds 5 = true) ∧ p = false ∨
    (∀ r ∈ s.reqs, r.id ∈ [9] → r.holds 5 = false) ∧ 1 < (s.launch (2 ^ 32)).remaining ∧ (s.launch (2 ^ 32)).desc.pkgbar = false ∧ p = true := by decide

theorem witness_tileToken : let s := onTile { onTileBase with ev := { team := 1 } } (fun t => { t with k := [(3, { issued := 1 })] });
    (s.team s.ev.team).place = .resident 1024 ∧ find? 3 (s.tile 1024).k = some { issued := 1 } := by decide

def quarantined (id : Nat) : State := { asked { asking .store with place := .scratch 6 } with ev := { id := id }, quarantine := [(5, (0, 128)), (6, (0, 128))] }

theorem witness_quarantine : (quarantined 5).inbound 5 = 0 ∧ (quarantined 6).inbound 6 ≠ 0 := by decide

def heldRec : HeldRec := ⟨1, 0x9000, recordBody 1 0 0 0 1, 1⟩

def holding : State := { flat [] base with heldRecs := [heldRec] }

theorem witness_heldRecs : holding.ev.discard = false ∧ holding.heldRecs = [heldRec] ∧ (∃ a, holding.ctxCells 1 0x9000 heldRec.body = some a) ∧
    (∃ b, holding.ctxCells 1 (0x9000 + 12) (toBytes 4 1) = some b) ∧ ({ holding with ev := { discard := true } } : State).ev.discard = true := by
  have h : Flat holding := flat_of (by decide)
  exact ⟨rfl, rfl, ⟨_, flat_cells h (by decide)⟩, ⟨_, flat_cells h (by decide)⟩, rfl⟩

theorem witness_stepBudget : (find? (2 ^ 32) base.launches).isSome = true := by decide

def congested : State := { base with hbm := [(0, { chans := [(0, { queue := [⟨0, false, 0, 0, 0, 3⟩] })] })], levels := [(12, ⟨0, 5⟩)], ev := { cl := 3 } }

theorem witness_congestion : congested.ev.cl < 256 ∧ (sget {} (congested.stack 0).chans 0).queue.any (fun r => r.cl == 3) = true ∧
    (let s := { congested with clock := 5000 }; find? (4 * 3 + s.congestion 3) s.levels = some ⟨0, 5⟩ ∧ MayReach s (5 + 4096)) := by
  refine ⟨by decide, by decide, by decide, .inl (by decide)⟩

/-- TeamsAreSwapped: a team that waits at its barrier long enough; one that runs. -/
def atBar : State :=
  { withThread (withBand (flat [] (runs (.nop rz))) (fun b => { b with bundle := [] })) (fun t => { t with wait := .barrier .team 0 false 2 4 false 0 }) with clock := 10000, ev := { team := 1 } }

theorem witness_swapOut : (find? 1 atBar.teams).isSome = true ∧ atBar.isResident 1 = true ∧ atBar.unitOfTeam 1 = 0 ∧ atBar.swappable 1 0 = true ∧
    atBar.storeRoom (0 / 8) (atBar.launch (atBar.team 1).lid).desc.legBytes = true ∧ base.swappable base.ev.team (base.unitOfTeam base.ev.team) = false := by decide

def leg1 : Leg := { invat := 0, bands := [{ team := 1, lanes := 1 }], threads := [(0, { wait := .barrier .team 0 true 2 4 false 0 })] }

def stored : State := { runs (.nop rz) with teams := [(1, { lid := 2 ^ 32, place := .stored 0, leg := some leg1, woken := true })], bands := [], threads := [], ev := { team := 1 } }

theorem witness_wake : (find? 1 stored.teams).isSome = true ∧ (stored.team 1).place = .stored 0 ∧ (stored.team 1).leg = some leg1 ∧
    (stored.team 1).woken = true ∧ (stored.team 1).done = false ∧ stored.teamSuspended 1 = false ∧ stored.throttled 0 = false ∧
    (stored.die (0 / 32)).st = .online ∧ stored.pickCore 0 1 64 0 [] = some 0 ∧ stored.slotsFor 0 1 = some [0] := by decide

/-- A leg save that waits for its team, and one that can write. -/
def legSave : SaveReq := { id := 3, team := 1, image := 0x10000, copy := false, leg := true, tid := 77, d := 4 }

theorem witness_legSave : (let s := { atBar with saves := [legSave], ev := { id := 3 } };
      s.saves.find? (fun p => p.id == 3 && p.leg == true) = some legSave ∧ (find? 1 s.teams).isSome = true ∧ s.isResident 1 = true ∧
      (s.die (dieOf (s.unitOfTeam 1))).st = .online ∧ (∀ tid ∈ s.teamTids 1, (s.thread tid).exited = false → atBarrier (s.thread tid) = true) ∧
      s.teamQuiet 1 3 = true ∧ 77 ∉ s.teamTids 1) ∧
    (let s := { runs (.nop rz) with saves := [legSave], ev := { id := 3 } };
      s.saves.find? (fun p => p.id == 3 && p.leg == true) = some legSave ∧ (find? 1 s.teams).isSome = true ∧ s.isResident 1 = true ∧
      (s.die (dieOf (s.unitOfTeam 1))).st = .online ∧ ∃ tid ∈ s.teamTids 1, (s.thread tid).exited = false ∧ atBarrier (s.thread tid) = false) := by decide

theorem witness_contextEnd : (let s := { base with burrowFault := [1], ev := { ctx := 1 } }; s.contextFaults 1 = true ∧ (find? 1 s.ctxs).isSome = true) ∧
    base.contextFaults base.ev.ctx = false := by decide

/-! ### System words -/

/-- The machine with a system word at the pc of a thread of some level, with registers. -/
def system (i : Instr) (prv : Nat) (g : List (Nat × Word)) : State := withThread (withRegs (runs i) g) (fun t => { t with prv := prv })

def ic : IFmt := ⟨12, 0, 4, 8, 0, 0, 0⟩

/-- ControlRegisters: accesses that pass, and accesses below their register's level. -/
def reads : List IFmt := [{ ic with a := 0 }, { ic with a := 0, imm := 0x10 }, { ic with a := 0, imm := 0x40 }]

def writes : List IFmt := [ic, { ic with imm := 1 }, { ic with imm := 0x12 }, { ic with imm := 0x31 }]

theorem witness_csrr : ∀ f ∈ reads, Meets (.csrr f) (system (.csrr f) 2 []) (csrCheck f false) := fun f hf => meets (by revert f; decide)

theorem witness_csrw : ∀ f ∈ writes, ∀ i ∈ [Instr.csrw f, .csrs f, .csrc f], Meets i (system i 2 [(8, 0x13)]) (csrCheck f true) ∧
    performers i (system i 2 [(8, 0x13)]) = [0] := fun f hf i hi => ⟨meets (by revert i f; decide), by revert i f; decide⟩

theorem witness_csr_traps : ∀ p ∈ [(Instr.csrr { ic with a := 0, imm := 0x40 }, false), (.csrw { ic with imm := 0x12 }, true), (.csrs { ic with imm := 0x20 }, true),
    (.csrc { ic with imm := 0x31 }, true)], let s := system p.1 1 []; Lone p.1 s ∧
    laneCheck p.1 s.cur.word s.cur.u (s.band s.cur.bid).nregs (s.thread (s.here 0)) = .pass ∧ (s.thread (s.here 0)).prv < 2 :=
  fun p hp => ⟨lone (by revert p; decide), by revert p; decide⟩

theorem witness_tstateWrite : (find? base.ev.tid base.threads).isSome = true := by decide

def trets : List Instr := [.tretRetry rz, .tretSkip { rz with fn := 1 }, .tretKill { rz with fn := 2 }]

/-- TrapReturns: a handler of a thread's own cause and of a broken barrier. -/
def handling (i : Instr) (cause : DWord) : State :=
  withThread (runs i) (fun t => { t with inh := true, pprv := 0, tpc := 0x400000, tcause := cause })

theorem witness_tret : ∀ i ∈ trets, let s := handling i 0x04; Meets i s tretCheck ∧ performers i s = [0] ∧
    (∀ tid ∈ performers i s, (s.thread tid).tcause.getLsbD 8 = false ∧ (s.thread tid).tcause.extractLsb' 0 8 ≠ 0x0E) ∧
    (find? (s.lidOf 0) s.launches).isSome = true ∧ (find? (s.teamOf 0) s.teams).isSome = true ∧ s.cur.u < 1024 :=
  fun i hi => ⟨meets (by revert i; decide), by revert i; decide⟩

theorem witness_tretBarrier : let i := Instr.tretSkip { rz with fn := 1 }; let s := handling i 0x0E; Meets i s tretCheck ∧ performers i s = [0] ∧
    (s.thread 0).tcause.getLsbD 8 = false ∧ (s.thread 0).tcause.extractLsb' 0 8 = 0x0E ∧ ∃ w, s.fetch s.cur.u (s.asidOf 0) (s.thread 0).tpc.toNat = some w :=
  ⟨meets (by decide), by decide, by decide, by decide, _, rfl⟩

/-- A handler of an entry's fault in the band's copy queue. -/
def handlingEntry (i : Instr) : State :=
  withBand (handling i 0x1510) (fun b => { b with cq := { entries := [{ copying (.cpy cpy) with fault := some (0x10, 7) }], faulted := true, reported := true } })

theorem witness_tretEntry : ∀ i ∈ trets, let s := handlingEntry i; Meets i s tretCheck ∧ performers i s = [0] ∧
    (s.thread 0).tcause.getLsbD 8 = true ∧ (s.thread 0).tcause.extractLsb' 0 8 ≠ 0x18 ∧ queueOfCode 0 ((s.thread 0).tcause.extractLsb' 10 3).toNat = .band 0 ∧
    (s.queue (.band 0)).faultedEntry = some { copying (.cpy cpy) with fault := some (0x10, 7) } :=
  fun i hi => ⟨meets (by revert i; decide), by revert i; decide⟩

theorem witness_tret_illegal : ∀ i ∈ trets, let s := runs i; Lone i s ∧
    laneCheck i s.cur.word s.cur.u (s.band s.cur.bid).nregs (s.thread (s.here 0)) = .pass ∧ (s.thread (s.here 0)).inh = false :=
  fun i hi => ⟨lone (by revert i; decide), by revert i; decide⟩

/-- InvalidationAndMigration: a command for the whole of address space 1, from its own thread; one for another space below level 2. -/
def inv : RFmt := { rz with d := 4, a := 8 }

theorem witness_invq : Alone (.invq inv) (system (.invq inv) 1 [(8, 0x10001)]) (invqCheck inv) 0 := alone (by decide)

theorem witness_invq_foreign : let i := Instr.invq inv; let s := system i 1 [(8, 0x10002)]; let x := s.thread (s.here 0); Lone i s ∧
    laneCheck i s.cur.word s.cur.u (s.band s.cur.bid).nregs x = .pass ∧ invOk (x.reg 8) (x.reg 9) (x.reg64 10) = true ∧ x.prv < 2 ∧
    ((x.reg 8).extractLsb' 0 16).toNat ≠ s.asidOf (s.here 0) := ⟨lone (by decide), by decide⟩

def inv2 (complete : Bool) : InvCmd := ⟨2, 1, 1, 0, 0, 0, false, [], [], [], [], complete⟩

def awaiting (c : InvCmd) (ps : List (Nat × List Partition)) : State := { system (.invw { inv with b := 0 }) 1 [(8, 2)] with invq := [c], parts := ps }

theorem witness_invw : ∀ p ∈ [(true, [], false), (true, [(0, [⟨0, 128, some 0x10000, 1⟩])], true), (false, [], false)],
    let s := awaiting (inv2 p.1) p.2.1; Alone (.invw inv) s (invwCheck inv) 0 ∧ s.invCmd ((s.thread 0).reg 8) = some (inv2 p.1) ∧
    s.pinBlocks (inv2 p.1) = p.2.2 := fun p hp => ⟨alone (by revert p; decide), by revert p; decide⟩

theorem witness_invBroadcast : ({ base with invq := [inv2 false] } : State).invq.find? (fun c => !c.broadcast) = some (inv2 false) := by decide

def sent : InvCmd := { inv2 false with broadcast := true }

def receiving : State := { base with invq := [sent], ev := { r := .unit 0, id := 2 } }

theorem witness_invReceive : receiving.invq.find? (fun c => c.broadcast && !c.complete && !c.received.contains (.unit 0)) = some sent ∧
    receiving.answered (.unit 0) = false ∧ receiving.cmdThere (.unit 0) 2 = true ∧ ((receiving.thread 0).hdl 0).st = .valid ∧
    sent.matches ((receiving.thread 0).hdl 0).asid ((receiving.thread 0).hdl 0).base.toNat ((receiving.thread 0).hdl 0).leaf = true := by decide

def lastAck (others : List Receiver) : InvCmd := { sent with received := [.port], acked := others }

theorem lastAck_meets (L : List Receiver) : let c := lastAck (L.filter (· != .port)); let s := { base with invq := [c], ev := { r := .port, id := 2 } };
    s.ev.r ∈ c.received ∧ s.ev.r ∉ c.acked ∧ s.mayAck s.ev.r c = true ∧ ∀ x ∈ L, x = s.ev.r ∨ x ∈ c.acked :=
  ⟨List.mem_singleton.2 rfl, fun h => bne_iff_ne.1 (List.mem_filter.1 h).2 rfl, rfl, fun x hx =>
    (Decidable.em (x = .port)).imp id (fun h => List.mem_filter.2 ⟨hx, bne_iff_ne.2 h⟩)⟩

theorem witness_invAcknowledge : ∃ c, let s := { base with invq := [c], ev := { r := .port, id := 2 } };
    s.ev.r ∈ c.received ∧ s.ev.r ∉ c.acked ∧ s.mayAck s.ev.r c = true ∧ ∀ x ∈ receivers, x = s.ev.r ∨ x ∈ c.acked :=
  ⟨_, lastAck_meets receivers⟩

/-- An address space whose migration queue holds a request that is refused, or one that is accepted, and a line of a migration. -/
def migrating (frames : Byte) : State :=
  { runs (.nop rz) with
    mem := [(0x5000, 1), (0x5082, 2), (0x508A, 3)] ++ (if frames = 0 then [] else [(0x5090, frames)])
    ev := { asid := 1 }
    spaces := [(1, { root := 0x1000, valid := true, blocks := 1, migq := 0x5000 })] }

def migration : Migration := { asid := 1, slot := 0, src := 0x20000, dst := 0x30000, frames := 1, gran := .l128 }

theorem witness_migrationLine : let s := { migrating 1 with migrations := [(1, migration)] }; find? 1 s.migrations = some migration ∧
    migration.line + 1 < 512 * migration.frames ∧ migration.gran ≠ .s32 ∧ s.granule 0x30000 ≠ .s32 ∧ sget false s.lost 0x400 = false ∧
    (s.decodeAt 0x20000).bad = [] := by decide

/-! ### Images, halts, parks, pins, resets -/

def img : MFmt := ⟨12, 0, 4, 8, 63, 0, 0, 0, 0, 0, 0⟩

/-- ImageWords: a target that no team has, a die in warm reset, and a team that is saved. -/
def saving (f : MFmt) (g : List (Nat × Word)) (st : DieState) : State := { system (.ctxs f) 2 g with dies := [(0, { st := st })] }

theorem witness_ctxs : ∀ p ∈ [([(8, 1)], DieState.online, none), ([(10, 0x8000)], .quiesced, some 1), ([(10, 0x8000)], .online, some 1)],
    let f := { img with b := 10 }; let s := saving f p.1 p.2.1; Alone (.ctxs f) s (imageCheck f) 0 ∧ s.savedTeam 0 ((s.thread 0).reg 8) = p.2.2 ∧
    (s.die (dieOf (s.unitOfTeam 1))).st = p.2.1 ∧ (find? 1 s.teams).isSome = true := fun p hp => ⟨alone (by revert p; decide), by revert p; decide⟩

/-- CTXL: a target of another kind, a die in warm reset, a blank image, and a shader image of one band that fits. -/
def header : List (Nat × Byte) := [(0x8000, 1), (0x8001, 1), (0x8002, 1), (0x8004, 1), (0x8006, 1)]

def loading (mem : List (Nat × Byte)) (w : Word) (st : DieState) : State :=
  { system (.ctxl { img with b := 10 }) 2 [(8, w), (10, 0x8000)] with mem := mem, dies := [(1, { st := st })] }

theorem witness_ctxl_fits : (loading [] 256 .online).imageFits 0 256 0x8000 = false ∧ (let s := loading header 256 .online; let hdr := s.readN .phys 0x8000 256;
    s.imageFits 0 256 0x8000 = true ∧ s.unitFenced 256 = false ∧ 256 ≠ s.cur.u ∧ (s.teams.map (·.1)).Nodup ∧ s.throttled (256 / 8) = false ∧
    s.coreRoom 256 (bitsOf (fieldOf hdr 0 4) 23 16) (s.launch (2 ^ 32 * bitsOf (fieldOf hdr 4 4) 15 0 + fieldOf hdr 8 4)).desc.regs (fieldOf hdr 24 4) = true) := by decide

/-- A tensor image for tile 0 of die 4, whose launch is placed there. -/
def loadingTile : State :=
  (loading [(0x8000, 2), (0x8001, 1), (0x8002, 1), (0x8004, 1), (0x8006, 1)] 0xC400 .online).onLaunch (2 ^ 32)
    (fun l => { l with desc := { l.desc with tensor := true, trect := [4, 0, 1, 0, 1, 1] } })

set_option maxRecDepth 8000 in
theorem witness_ctxl_tile : let f := { img with b := 10 }; let s := loadingTile; Alone (.ctxl f) s (ctxlCheck f) 0 ∧
    targetKind ((s.thread 0).reg 8) = 6 ∧ targetUnit ((s.thread 0).reg 8) = 1024 ∧ s.imageFits 0 1024 0x8000 = true ∧ s.unitFenced 1024 = false ∧
    1024 ≠ s.cur.u ∧ (s.teams.map (·.1)).Nodup ∧ (∀ p ∈ s.teams, p.2.place ≠ .resident 1024) ∧
    s.allocBytes 1024 + fieldOf (s.readN .phys 0x8000 256) 24 4 ≤ scratchSize 1024 := ⟨alone (by decide), by decide⟩

/-- HaltedAndParkedRoles: HALT and RESM of a band that is not there, that is halted, and that runs. -/
def tgt : RFmt := { rz with d := 4, a := 8 }

def atRole (i : Instr) (w : Word) (halted : Bool) : State :=
  let s := system i 2 [(8, w)]
  { s with
    bands := s.bands ++ [(64, { team := 1, lanes := 1, m := [(0, 1)], halted := halted, bundle := [] })]
    threads := s.threads ++ [(2048, { pc := 0x400000 })] }

theorem witness_haltResm : ∀ p ∈ [((2 : Nat), false, true, false), (1, true, false, true), (1, false, false, false)], ∀ i ∈ [Instr.halt tgt, .resm tgt],
    let s := atRole i (.ofNat 32 p.1) p.2.1; Alone i s (targetWordCheck 8) 0 ∧ (s.targetRole 0 ((s.thread 0).reg 8)).isNone = p.2.2.1 ∧
    s.roleHalted ((s.thread 0).reg 8) = p.2.2.2 := fun p hp i hi => ⟨alone (by revert i p; decide), by revert i p; decide⟩

def haltReq : HaltReq := ⟨3, 1, 77, 4⟩

def stopping (lanes : List Nat) : State :=
  { (atRole (.nop rz) 1 false).onBand 64 (fun b => { b with bundle := lanes }) with halts := [haltReq], ev := { id := 3 } }

theorem witness_haltStopped : ∀ l ∈ [[], [0]], let s := stopping l; s.halts.find? (fun p => p.id == s.ev.id) = some haltReq ∧
    (find? (targetBand haltReq.target) s.bands).isSome = true ∧ s.roleStopped haltReq.target = l.isEmpty := by decide

/-- A parked lane of another band, that PRKR names. -/
def park : Park := ⟨4, 7, false⟩

def prkr : RFmt := { tgt with b := 9 }

def parked (i : Instr) (w : Word) : State := (withThread (atRole i w false) (fun t => { t with g := [(8, w), (9, 1)] })).onThread 2048 (fun t => { t with parked := some park })

theorem witness_prkr : ∀ e ∈ [(Instr.prkrRetry prkr, 0), (.prkrSkip { prkr with fn := 1 }, 1), (.prkrKill { prkr with fn := 2 }, 2)], let s := parked e.1 1;
    Alone e.1 s (fun x t => (targetWordCheck 8 x t).andThen (pkgRelease x t)) 0 ∧ s.targetRole 0 ((s.thread 0).reg 8) = some 64 ∧
    (s.thread 0).reg 9 = (1 : Word) <<< 0 ∧ 0 < (s.band 64).lanes ∧ (s.thread (32 * 64 + 0)).parked = some park ∧
    (s.thread (32 * 64 + 0)).exited = false ∧ (∀ m ∈ s.cur.lanes, s.here m ≠ 32 * 64 + 0) ∧ (find? (32 * 64 + 0) s.threads).isSome = true :=
  fun e he => ⟨alone (by revert e; decide), by revert e; decide⟩

theorem witness_prkr_none : ∀ i ∈ [Instr.prkrRetry prkr, .prkrSkip { prkr with fn := 1 }, .prkrKill { prkr with fn := 2 }], let s := parked i 2;
    Alone i s (fun x t => (targetWordCheck 8 x t).andThen (pkgRelease x t)) 0 ∧ s.targetRole 0 ((s.thread 0).reg 8) = none :=
  fun i hi => ⟨alone (by revert i; decide), by revert i; decide⟩

/-- A held notice, with a park queue that has room and one that is full. -/
def notice : Notice := ⟨4, 0, 0, 0, 0, 7, 0x400000, 0, 0, 0, 0x9000, 1, 1⟩

def noticing (wr : Byte) : State :=
  { runs (.nop rz) with mem := [(0x1000, 1), (0x1001, 0x20), (0x2000, 0x9F)] ++ (if wr = 0 then [] else [(0x9000, wr)]), cores := [(0, { notices := [notice] })] }

theorem witness_parkNotice : (let s := noticing 0; (s.core s.ev.u).notices = [] ++ notice :: [] ∧ (∀ m ∈ ([] : List Notice), m.bid = 0) ∧
      s.noticePa s.ev.u notice (notice.pkqb.toNat / 4096 * 4096) = some 0x9000 ∧
      (s.readNat .phys 0x9000 4 + 2 ^ 32 - s.readNat .phys 0x9004 4) % 2 ^ 32 ≠ 2 ^ (min 8 (notice.pkqb.toNat % 16) + 4) ∧
      s.noticePa s.ev.u notice (notice.pkqb.toNat / 4096 * 4096 + 128 + 32 * (s.readNat .phys 0x9000 4 % 16)) = some 0x9080) ∧
    (∀ n ∈ ((noticing 16).core (noticing 16).ev.u).notices, (noticing 16).canWrite (noticing 16).ev.u n = false) ∧
    ∀ k, ((noticing 0).stack k).fencedBanks = [] := ⟨by decide, by decide, fun _ => rfl⟩

/-- StagingPins: each PSET with the partition that it names and without, on dies in both kinds of state, and where the range does not fit. -/
def pset (off : BitVec 16) : MFmt := ⟨12, 0, 4, 8, if off = 1 then 10 else 63, 3, 0, 0, 0, 0, off⟩

def psets : List (Instr × MFmt × Nat) := [(.psetPin (pset 0), pset 0, 0), (.psetPinb (pset 1), pset 1, 1), (.psetUnpin (pset 2), pset 2, 2), (.psetUnpinb (pset 3), pset 3, 3)]

def pinning (i : Instr) (ps : List Partition) (st : DieState) : State :=
  { system i 2 [(8, 0), (9, 65536), (10, 0x10000)] with parts := [(0, ps)], dies := [(0, { st := st })] }

theorem witness_pset : ∀ e ∈ psets, ∀ p ∈ [([], DieState.flushed), ([], .online), ([⟨0, 65536, none, 0⟩], .online), ([⟨0, 65536, some 0x10000, 1⟩], .online)],
    let s := pinning e.1 p.1 p.2; Alone e.1 s (psetCheck e.2.1) 0 ∧ (s.die 0).st = p.2 ∧ sget [] s.parts (64 * 0 + 0) = p.1 ∧ (s.die 0).synslc.getLsbD 0 = false ∧
    ∀ k, (s.stack k).fencedBanks = [] :=
  fun e he p hp => ⟨alone (by revert p e; decide), by revert p e; decide, by revert p e; decide, by revert p e; decide, fun _ => rfl⟩

/-- DieResetsAndSelfTests: each step of a reset of die 1, in every state of the die, with requests of the die and without. -/
theorem lanes_le {s : State} (h : ∀ p ∈ s.bands, p.2.lanes ≤ 32) : ∀ b, (s.band b).lanes ≤ 32 := by
  intro b
  simp only [State.band]
  cases hf : find? b s.bands with
  | none => decide
  | some x => exact h (b, x) (mem_of_find hf)

def drst (fn : BitVec 8) : RFmt := { tgt with fn := fn }

def resetting (i : Instr) (st : DieState) (q : Option Nat) (rs : List Req) : State :=
  { system i 2 [(8, 1)] with dies := [(1, { st := st, quiescing := q })], reqs := rs }

theorem witness_drstQuiesce : ∀ p ∈ [(DieState.online, none, []), (.online, none, [{ asking .store with u := 256 }]), (.quiesced, some 4194304, []), (.flushed, none, [])],
    let i := Instr.drstQuiesce (drst 0); let s := resetting i p.1 p.2.1 p.2.2; Alone i s (quiesceCheck (drst 0)) 4194304 ∧
    (s.die 1).st = p.1 ∧ (s.die 1).quiescing = p.2.1 ∧ s.dieQuiet 1 = p.2.2.isEmpty ∧ s.quiescingBy 1 4194304 = p.2.1.isSome :=
  fun p hp => ⟨alone (by revert p; decide), by revert p; decide⟩

theorem witness_drstSteps : ∀ e ∈ [(Instr.drstFlush (drst 1), drst 1), (.drstCore (drst 2), drst 2), (.drstAdmit (drst 3), drst 3)],
    ∀ st ∈ [DieState.online, .quiesced, .flushed, .ready], let s := resetting e.1 st none []; Alone e.1 s (dieCheck e.2) 4194304 ∧
    (s.die 1).st = st ∧ (s.die 1).quiescing = none ∧ (s.die 1).resetting = none ∧ Apart s s.cur.bid (OnDie · 1) := by
  intro e he st hs
  have hm : ∀ p ∈ (resetting e.1 st none []).teams, p.2.place = .resident 2048 := by revert st e; decide
  refine ⟨alone (by revert st e; decide), by revert st e; decide, by revert st e; decide, by revert st e; decide, fun p hp hd => ?_, lanes_le (by revert st e; decide)⟩
  rcases hd with ⟨u, hu, hd⟩ | ⟨cl, hc, hd⟩
  · rw [hm p hp] at hu; cases hu; exact absurd hd (by decide)
  · rw [hm p hp] at hc; cases hc

/-- A core step that is asked for again while its links are retrained. -/
theorem witness_drstCore_again : let i := Instr.drstCore (drst 2);
    let s := { resetting i .flushed none [] with dies := [(1, { st := .flushed, resetting := some (7, 4) })] };
    Alone i s (dieCheck (drst 2)) 4194304 ∧ (s.die 1).resetting ≠ none := ⟨alone (by decide), by decide⟩

theorem witness_stest : ∀ p ∈ [((0xF0000000 : Nat), false, false), (0x20000008, true, true), (0x30000008, true, false)], let i := Instr.stest tgt;
    let s := { system i 2 [(8, .ofNat 32 p.1)] with tests := [(⟨2, 8, 0⟩, 0)] }; Alone i s noCheck 4194304 ∧ Structure.exists_ (structOf ((s.thread 4194304).reg 8)) = p.2.1 ∧
    s.structBusy (structOf ((s.thread 4194304).reg 8)) = p.2.2 := fun p hp => ⟨alone (by revert p; decide), by revert p; decide⟩

theorem witness_stest_apart : let s := { system (.stest tgt) 2 [(8, 0x30000008)] with tests := [(⟨2, 8, 0⟩, 0)] };
    Apart s s.cur.bid (· = .resident (structOf ((s.thread 4194304).reg 8)).loc) :=
  ⟨by decide, lanes_le (by decide)⟩

/-! ### The memory system, links and errors -/

/-- MemorySystemEvents: a fill without damage, one that loses its version, evictions, and one that a flagged line holds back. -/
def line (l2 : List (Nat × L2Line)) (g : List (Nat × Gran)) (lost : List (Nat × Bool)) (errs : List (List Nat)) : State :=
  { runs (.nop rz) with l2 := l2, granules := g, lost := lost, ev := { line := 0x400, errs := errs } }

theorem witness_fill : ∀ p ∈ [([], []), ([(2, Gran.w512)], []), ([], [[0, 1, 2, 3, 4, 5]])], let s := line [] p.1 [] p.2; isLocal (128 * s.ev.line) = true ∧
    s.atAgent (128 * s.ev.line) = false ∧ s.lost = [] ∧ s.damage = [] ∧ (p.1 = [] → s.granule (128 * s.ev.line) = .l128) ∧
    s.fillNeeded s.ev.line s.ev.sub = true ∧ find? s.ev.line s.l2 = none ∧ (∀ n, (s.stack n).lost = [] ∧ (s.stack n).fencedBanks = []) ∧
    ∀ n, sget [] s.parts n = [] := fun p hp =>
  ⟨by revert p; decide, by revert p; decide, by revert p; decide, by revert p; decide, by revert p; decide, by revert p; decide, by revert p; decide,
    fun _ => ⟨rfl, rfl⟩, fun _ => rfl⟩

theorem witness_eviction : (∀ g ∈ [[], [(2, Gran.s32)]], let e : L2Line := ⟨if g = [] then .l128 else .s32, [0, 1], [], 0⟩; let s := line [(0x400, e)] g [] [];
      (∀ n ∈ s.groupLines s.ev.line, sget false s.lost n = false) ∧ find? s.ev.line s.l2 = some e ∧ s.granule (128 * s.ev.line) = e.gran) ∧
    ∃ n ∈ (line [] [] [(0x400, true)] []).groupLines 0x400, sget false (line [] [] [(0x400, true)] []).lost n = true := by decide

/-- A unit of an S32 line, of which one sector was written, is merged with a codeword that cannot be corrected. -/
theorem witness_merge : let e : L2Line := { gran := .s32, valid := [2 * 0], dirty := [2 * 0], way := 0 }; let s := line [(0x400, e)] [(2, .s32)] [] [[0, 1, 2]];
    s.ev.sub % 4 = 0 ∧ isLocal (128 * s.ev.line) = true ∧ s.granule (128 * s.ev.line + 32 * 0) = .s32 ∧ sget false s.lost s.ev.line = false ∧
    find? s.ev.line s.l2 = some e := by decide

def dram1 : DramReq := ⟨0, false, 3, 9, 0, 0⟩

def stackState (x : Stack) (p : Bool) : State := { runs (.nop rz) with hbm := [(0, x)], ev := { bank := 3, postpone := p } }

set_option maxRecDepth 8000 in
theorem witness_qosGrant : (let s := { stackState { postponed := [(3, 8)] } false with clock := 6000 }; ∃ b, b < 48 ∧ (s.stack 0).refreshLimit b ≤ s.clock) ∧
    (let s := stackState { chans := [(0, { queue := [dram1] })], busy := [(3, 280)] } false;
      ∀ r ∈ (sget {} (s.stack 0).chans 0).queue, s.clock < sget 0 (s.stack 0).busy r.bank) ∧
    (let s := stackState { chans := [(0, { queue := [dram1] })] } false; let c := sget {} (s.stack 0).chans 0;
      c.queue ≠ [] ∧ c.waiting = [] ∧ (∀ b, b < 48 → s.clock < (s.stack 0).refreshLimit b) ∧ (∀ b, sget 0 (s.stack 0).busy b ≤ s.clock)) := by
  exact ⟨⟨3, by decide⟩, by decide, by decide, by decide, by decide, fun _ => Nat.le_refl _⟩

/-- A machine without threads, at the clock 2730. -/
def idle (x : Stack) (p : Bool) : State := { stackState x p with bands := [], clock := 2730 }

theorem witness_sample : ∀ i ∈ [5460, 2730, 1365], let s := { idle { intervals := [(0, i)] } false with clock := 2800 }; (s.stack 0).interval 0 = i ∧
    MayReach s ((s.clock + 1399) / 1400 * 1400) := fun i hi => ⟨by revert i; decide, .inl (by revert i; decide)⟩

theorem witness_bankRefresh : (let s := idle { postponed := [(3, 2)] } false; s.ev.bank < 48 ∧ 0 < sget 0 (s.stack 0).postponed 3 ∧ s.clock < (s.stack 0).dueAt 3) ∧
    (∀ p ∈ [(0, false), (2, true)], let s := { idle { postponed := [(3, p.1)] } p.2 with clock := 6000 }; sget 0 (s.stack 0).postponed 3 < 8 ∧
      (s.ev.postpone = true ∨ sget 0 (s.stack 0).postponed 3 = 0) ∧ MayReach s ((s.stack 0).dueAt 3)) ∧
    (let s := { idle { postponed := [(3, 8)] } false with clock := 6000 }; 8 ≤ sget 0 (s.stack 0).postponed 3 ∧ MayReach s ((s.stack 0).dueAt 3)) ∧
    sget 0 (base.stack base.ev.stack).postponed base.ev.bank < 8 :=
  ⟨by decide, fun p hp => ⟨by revert p; decide, by revert p; decide, .inl (by revert p; decide)⟩, ⟨by decide, .inl (by decide)⟩, by decide⟩

/-- ErrorsAreHandled: link 0 of die 1 in each of its states, with 16 replays and without. -/
def linked (st replays : Nat) (o : LinkOutcome) : State :=
  { (asked { asking .store with u := 256, parts := [{ part with addrs := [0x4000000000] }] }).setLinks 1 0 st with ev := { die := 1, retrain := o, errs := [[9]] } }.onDie 1 (fun d => { d with replays := [(0, replays)] })

theorem witness_links : (∀ st ∈ [0, 1, 2, 3], ∀ n ∈ [0, 16], ((linked st n .full).die 1).linkState 0 = st ∧ sget 0 ((linked st n .full).die 1).replays 0 = n ∧
      ((linked st n .full).die 1).retrainsLeft = []) ∧ ∀ n, ((runs (.nop rz)).die n).fencedLanes = [] := ⟨by decide, fun _ => rfl⟩

theorem witness_retrains : ∀ o ∈ [LinkOutcome.full, .half], ((linked 2 0 o).die 1).linkState 0 = 2 ∧ (linked 2 0 o).ev.retrain = o ∧
    ∀ n, ((linked 2 0 o).die n).fencedLanes = [] ∧ ((linked 2 0 o).die n).resetting = none := by
  intro o ho
  refine ⟨by revert o; decide, by revert o; decide, fun n => ?_⟩
  have h : ∀ p ∈ (linked 2 0 o).dies, p.2.fencedLanes = [] ∧ p.2.resetting = none := by revert o; decide
  simp only [State.die]
  cases hf : find? n (linked 2 0 o).dies with
  | none => exact ⟨rfl, rfl⟩
  | some x => exact h (n, x) (mem_of_find hf)

/-- A request of die 1 that is queued for its link to die 2, which retrains or is open. -/
def toDie2 : Packet := { cls := .req, ref := 9, src := 256, dst := 4224, node := 257, rest := [258, 64] }

theorem witness_linkDown : let s := { linked 2 0 .down with packets := [toDie2] }; toDie2.waitsFor 1 0 = true ∧
    ∃ r, s.req? toDie2.ref = some r ∧ r.performed = false ∧ r.isStore = true := by exact ⟨by decide, _, rfl, by decide, by decide⟩

theorem witness_hop : let s := { linked 0 0 .full with packets := [toDie2] }; toDie2 ∈ s.packets ∧ s.mayHop toDie2 = true ∧
    linkAt toDie2.node 258 = some (1, 0) ∧ ({ linked 2 0 .full with packets := [toDie2] } : State).mayHop toDie2 = false := by
  refine ⟨by decide, ?_, by decide, ?_⟩ <;> simp [State.mayHop, State.linkRoom] <;> decide

/-- A link of a die that is to retrain after its reset, and the last retrain of a reset. -/
def resetLink (st : Nat) (left : List Nat) : State :=
  { linked st 0 .full with dies := [(1, { synlnk := BitVec.ofNat 64 st, retrainsLeft := left, resetting := some (4194304, 4), st := .flushed })] }

theorem witness_resetLinks : (let s := resetLink 0 [0, 1]; sget 0 (s.die 1).replays 0 < 16 ∧ (s.die 1).toRetrain.head? = some 0 ∧
      ∀ m, m < 3 → (s.die 1).linkState m ≠ 2) ∧
    (let s := resetLink 2 []; (s.die 1).resetting = some (4194304, 4) ∧ (s.die 1).linkState 0 = 2 ∧ (s.die 1).toRetrain = [] ∧
      (∀ m, m < 3 → m ≠ 0 → (s.die 1).linkState m ≠ 2) ∧ s.ev.retrain = .full) := by decide

theorem witness_fatal : let s := runs (.nop rz); s.ev.die < 8 ∧ ∃ p ∈ s.teams, p.2.place = .resident 0 ∧ dieOf 0 = s.ev.die := by decide

theorem witness_hang_due : ∃ s : State, s.couldStep 1024 = true ∧ MayReach s ((s.tile 1024).lastProgress + 2 ^ 20) :=
  ⟨{ queued .mq (entry (.mma { fE with a := 0 }) true) with clock := 2 ^ 20 }, by decide, .inl (by decide)⟩

theorem witness_hang : (queued .mq (entry (.mma { fE with a := 0 }) true)).couldStep 1024 = true ∧ (queued .mq (entry (.mma { fE with a := 0 }) false)).couldStep 1024 = false := by decide

theorem witness_selfTest : let s := { base with tests := [(⟨1, 0, 5⟩, 0)], ev := { struct := ⟨1, 0, 5⟩ } };
    (∃ p ∈ s.tests, p.1 = s.ev.struct) ∧ ∀ p ∈ base.tests, p.1 ≠ base.ev.struct := by decide

/-! ### Port, fabric and boot -/

/-- RdmaOperations: an open queue pair and a region of 16 bytes at 0x9000, which the port's translation cache holds. -/
def region : MemRegion := ⟨7, 1, true, true, true, 0x9000, 16⟩

def rdma (data : List Byte) (n key : Nat) : State :=
  { runs (.nop rz) with
    regions := [region]
    qpairs := [(5, { connected := true })]
    portTlb := [⟨1, 0, { size := 2, r := true, w := true }, 0, 0⟩]
    ev := { qp := 5, key := key, va := 0x9000, len := n, data := data } }

theorem witness_received : ∀ k ∈ [7, 8], Received (rdma [1, 2] 2 k) ∧ (rdma [1, 2] 2 k).ev.data.length ≤ 4096 :=
  fun k hk => ⟨⟨by revert k; decide, by revert k; decide, by revert k; decide⟩, by revert k; decide⟩

theorem witness_mtu : 4096 < (rdma (List.replicate 4097 0) 0 7).ev.data.length := by
  show 4096 < (List.replicate 4097 (0 : Byte)).length
  rw [List.length_replicate]
  decide

theorem witness_rdma_atomic : (rdma [] 0 7).ev.va % 8 = 0 ∧ ((rdma [] 0 7).fillFor settWho .phys (runOf 0x9000 8)).readsPoison .phys (runOf 0x9000 8) = false := by decide

theorem witness_reaches : Reaches (rdma [1, 2] 2 7) 2 (·.w) (·.w) [0x9000, 0x9001] ∧ Reaches (rdma [1, 2] 2 7) 2 (·.r) (·.r) [0x9000, 0x9001] ∧
    Reaches (rdma [] 0 7) 8 (·.atomic) (fun l => l.r && l.w) (runOf 0x9000 8) := by
  refine ⟨⟨⟨region, by decide, by decide, by decide, by decide, fun i hi => ⟨{ size := 2, r := true, w := true }, ?_⟩⟩, by decide, by decide, by decide, fun _ => rfl⟩,
    ⟨⟨region, by decide, by decide, by decide, by decide, fun i hi => ⟨{ size := 2, r := true, w := true }, ?_⟩⟩, by decide, by decide, by decide, fun _ => rfl⟩,
    ⟨⟨region, by decide, by decide, by decide, by decide, fun i hi => ⟨{ size := 2, r := true, w := true }, ?_⟩⟩, by decide, by decide, by decide, fun _ => rfl⟩⟩ <;>
  · revert i; decide

theorem witness_noRegion : (∀ r ∈ (rdma [1, 2] 2 8).regions, r.key ≠ (rdma [1, 2] 2 8).ev.key) ∧ ¬ Received base :=
  ⟨by decide, fun h => absurd h.2.1 (by decide)⟩

/-- PortAndFabric: connections, a full port, an address on the allow-list and one in a session. -/
def ported (cm : CmOp) (allow : List Nat) (n : Nat) : State :=
  let s := runs (.nop rz)
  { s with
    qpairs := (List.range n).map (fun i => (i + 6, {}))
    boot := { s.boot with allow := allow }
    spdm := { session := true }
    ev := { qp := 5, cm := cm, src := 3 } }

theorem witness_connections : ∀ cm ∈ [CmOp.connect, .disconnect], (ported cm [] 0).boot.stage = .up ∧ (ported cm [] 0).ev.cm = cm ∧ (ported cm [] 0).qpairs.length < 4096 := by decide

theorem port_full (n : Nat) : n ≤ (ported .connect [] n).qpairs.length ∧ find? 5 (ported .connect [] n).qpairs = none := by
  have h : ∀ L : List Nat, find? 5 (L.map (fun i => (i + 6, ({} : QPair)))) = none := by
    intro L
    induction L with
    | nil => rfl
    | cons a L ih =>
      rw [List.map_cons, find?, if_neg (by omega)]
      exact ih
  exact ⟨Nat.le_of_eq ((List.length_map ..).trans List.length_range).symm, h _⟩

theorem witness_portFull : ∃ s : State, s.boot.stage = .up ∧ s.ev.cm = .connect ∧ 4096 ≤ s.qpairs.length ∧ find? s.ev.qp s.qpairs = none :=
  ⟨ported .connect [] 4096, rfl, rfl, port_full 4096⟩

theorem witness_ecnMark : (find? (rdma [] 0 7).ev.qp (rdma [] 0 7).qpairs).isSome = true ∧ (rdma [] 0 7).ev.prio < 8 := by decide

theorem witness_messages : 3 ∈ (ported .connect [3] 0).boot.allow ∧
    (let s := ported .connect [] 0; s.ev.src ∉ s.boot.allow ∧ s.ev.secured = false ∧ ({ s with ev := { secured := true } } : State).ev.secured = true ∧ s.spdm.session = true) := by decide

/-- A request of package 3, with an export entry for it and without. -/
def fabric (op : FabricOp) (w : List (Nat × Window64)) (poison : List (Nat × Bool)) : State :=
  { runs (.nop rz) with fabid := 0x8001, exports := w, poison := poison, ev := { src := 3, fabric := op } }

def export1 : List (Nat × Window64) := [(0, { v := true, pkg := 3, base := 0x10000, size := 4096, r := true, w := true })]

theorem witness_fabric : ∀ p ∈ [(([] : List (Nat × Bool)), false), ([(0x1004, true)], true)], let s := fabric (.read 0x10040 4) export1 p.1;
    s.boot.stage = .up ∧ s.fabid.getLsbD 15 = true ∧ s.exported 0x10040 4 true false = true ∧ (s.fillFor settWho .phys (runOf 0x10040 4)).readsPoison .phys (runOf 0x10040 4) = p.2 := by decide

theorem witness_fabricOthers : (fabric (.read 0x10040 4) [] []).exported 0x10040 4 true false = false ∧ (fabric (.write 0x10040 [1]) export1 []).exported 0x10040 1 false true = true ∧
    (fabric (.write 0x10040 [1]) [] []).exported 0x10040 1 false true = false ∧ (fabric (.casv 0x10040 4 0 7) export1 []).exported 0x10040 4 true true = true ∧
    (fabric (.version 0x10040) export1 []).exported 0x10040 1 true false = true ∧ (runs (.nop rz)).fabid.getLsbD 15 = false := by decide

/-- A line whose version is known: it has been written. -/
def versioned : State := { fabric (.casv 0x10040 4 9 7) export1 [] with versions := [(lineOf 0x10040, 9)] }

theorem witness_casv : let s1 := versioned.fillFor settWho .phys (runOf 0x10040 4); s1.version (lineOf 0x10040) = 9 ∧ (9 : Version) ≠ 8 ∧
    sget false s1.lost (lineOf 0x10040) = false ∧ ∀ n, (versioned.stack n).fencedBanks = [] := ⟨by decide, by decide, by decide, fun _ => rfl⟩

/-- AttestationRequests: before the responder has been asked anything, after NEGOTIATE_ALGORITHMS, and in a session. -/
def asking1 (p : Spdm) (slot : Nat) (algs : SpdmAlgs) : State := { runs (.nop rz) with spdm := p, ev := { slot := slot, algs := algs } }

theorem witness_spdm : ∀ p ∈ [(({} : Spdm), false), (⟨true, true, true, true, true, 1⟩, true)], ∀ slot ∈ [0, 1, 255], ∀ b ∈ [true, false],
    let s := asking1 p.1 slot ⟨b, true, true, true⟩; s.boot.stage = .up ∧ s.spdm.version = p.2 ∧ s.spdm.caps = p.2 ∧ s.spdm.algs = p.2 ∧ s.spdm.handshake = p.2 ∧
    s.spdm.session = p.2 ∧ s.ev.slot = slot ∧ (s.ev.algs = ⟨true, true, true, true⟩ ↔ b = true) := by decide

/-- One of the two outcomes of a FINISH holds: which one, the model leaves open (log 8). -/
theorem witness_finish : let s := asking1 ⟨true, true, true, true, false, 1⟩ 0 ⟨true, true, true, true⟩;
    Config.finishVerify (s.spdm.count - 1) s.ev.data = true ∨ Config.finishVerify (s.spdm.count - 1) s.ev.data = false := by
  intro s
  cases Config.finishVerify (s.spdm.count - 1) s.ev.data
  · exact .inr rfl
  · exact .inl rfl

/-- BootChain: an image whose header is right and whose key is fused verifies where its signature does (log 8); an empty one never does. -/
def image : List Byte := [0x53, 0x46, 0x52, 0x4D] ++ List.replicate 348 0

def signed : Boot := { keyHash := [(0, Config.sha384 (List.replicate 96 0))], flashA := image, baseImage := image, opticalImage := image }

theorem witness_boot (h : Config.ecdsaVerify 0 0 0 0 (Config.sha384 (image.take 256)) = true) : signed.verifies signed.flashA = true ∧ signed.verifies signed.baseImage = true ∧
    signed.verifies signed.opticalImage = true := by
  have hk : (image.drop 16).take 96 = List.replicate 96 0 := by decide
  have hz : ∀ off ∈ [16, 64, 256, 304], fromBytes ((image.drop off).take 48) = 0 := by decide
  have hp : ∀ off ∈ [16, 64, 256, 304], word48 ((image.drop off).take 48) = 0 := fun off ho => by rw [word48, hz off ho]; rfl
  have hv : signed.verifies image = true := by
    have hl : 352 ≤ image.length := by rw [image, List.length_append, List.length_replicate]; decide
    have h0 : imageField image 12 4 = 0 ∧ imageField image 0 4 = 0x4D524653 ∧ imageField image 112 1 = 0 ∧ imageField image 8 4 = 0 := by decide
    simp only [Boot.verifies, hk, h0.1, h0.2.1, h0.2.2.1, h0.2.2.2, hp 16 List.mem_cons_self, hp 64 (by simp), hp 256 (by simp), hp 304 (by simp), List.take_zero,
      List.append_nil, h, show signed.revoked = [] from rfl, show signed.rollback = 0 from rfl,
      show signed.keyHash = [(0, Config.sha384 (List.replicate 96 0))] from rfl, find?, Nat.add_zero, hl]
    simp
  exact ⟨hv, hv, hv⟩

theorem witness_bootFails : ({} : Boot).verifies [] = false ∧ ({ stage := .recovery } : Boot).stage = .recovery ∧ base.boot.stage ≠ .recovery ∧ base.boot.debug = base.ev.v.toNat ∧
    base.boot.debug ≠ ({ base with ev := { v := 1 } } : State).ev.v.toNat := by decide

/-! ### The whole machine -/

/-- DecodeAndEncodeAgree and WorkedWordsDecode. -/
theorem witness_encodes : encode (.nop rz) = some 0x60C0000000000000 ∧ Instr.wellFormed (.nop rz) = true ∧ (msOf (.nop rz)).isSome = true ∧
    decode 0x60C0000000000000 = .ok (.nop rz) ∧ BitVec.extractLsb' 56 8 (0 : DWord) = 0x00 ∧ BitVec.extractLsb' 56 8 (0xFF00000000000000 : DWord) = 0xFF :=
  ⟨by decide, by decide, by decide, rfl, by decide, by decide⟩

/-- AStepRunsTheDecodedWord: a slot of a shader core and a tile's control thread stand at a word, and at one that is no instruction; a window
that is over. -/
theorem fetches {s : State} {u bid l : Nat} {lanes : List Nat} {pc : DWord} {x : Nat} {rest : List Nat}
    (h : let f := Fetched s u bid l
      (s.band bid).bundle.filter (fun l => (s.thread (32 * bid + l)).free) = l :: rest ∧
      pc = (s.thread (32 * bid + l)).pc ∧ f.fetchAddr u (s.asidOf (32 * bid + l)) (pc.toNat / 8 * 8) = some x ∧
      let mine := (l :: rest).filter (fun m => (s.thread (32 * bid + m)).pc == pc)
      lanes = mine.filter (fun m => !({ f with cur := ⟨u, bid, mine, pc, 0, []⟩ } : State).fetchedWaits (BitVec.ofNat 64 (f.readNat .phys x 8)) (32 * bid + m)) ∧
      lanes ≠ [] ∧ f.farOff x = false ∧ f.readsPoison .phys (runOf x 8) = false ∧ ∀ m ∈ (s.band bid).bundle, s.mustTake (32 * bid + m) = false) :
    Fetches s u bid l lanes pc x :=
  ⟨⟨rest, h.1, h.2.1, h.2.2.1, h.2.2.2.1⟩, h.2.2.2.2.1, h.2.2.2.2.2.1, h.2.2.2.2.2.2.1, h.2.2.2.2.2.2.2⟩

theorem witness_fetches : ∀ w ∈ [(0x60C0000000000000 : Nat), 0], let s := State.reset.withFetchWord 64 w; let win := s.window 0 0;
    Fetches (s.takeSlot 0 0) 0 0 0 [0] 0x400000 0x10000 ∧ s.focus = (0, 0) ∧ s.agenda = [] ∧ s.boot.stage = .up ∧ win.over s.clock = false ∧ win.at_ ≤ s.clock ∧
    win.picked[win.slot s.clock % win.picked.length]? = some 0 :=
  fun w hw => ⟨fetches (l := 0) (rest := []) (by revert w; decide), by revert w; decide⟩

/-- A page without execute permission: the thread stands where nothing can be fetched. -/
def fetchless : State := (State.reset.withFetchWord 64 0x60C0000000000000).onThread 0 (fun t => { t with pc := 0x500000 })

theorem witness_fetchFails : let s := fetchless; let win := s.window 0 0; s.focus = (0, 0) ∧ s.agenda = [] ∧ s.boot.stage = .up ∧ win.over s.clock = false ∧
    win.at_ ≤ s.clock ∧ win.picked[win.slot s.clock % win.picked.length]? = some 0 ∧ (s.band 0).bundle = [0] ∧ (s.thread 0).free = true ∧ s.mustTake 0 = false ∧
    (Fetched (s.takeSlot 0 0) 0 0 0).fetchAddr 0 (s.asidOf 0) (0x500000 / 8 * 8) = none := by decide

theorem witness_windowOver : let s := ({ runs (.nop rz) with clock := 8 } : State).onWindow 0 0 (fun w => { w with next := 4 }); (s.window 0 0).over s.clock = true ∧
    s.agenda = [] ∧ s.focus = (0, 0) ∧ (s.window 0 0).at_ ≤ s.clock ∧ (s.die (dieOf 0)).start ≤ s.clock ∧ (s.clock - (s.die (dieOf 0)).start) % 4 = 0 := by decide

def tileRuns : State := runs (.tokr { iz with d := 4, a := 3 })

theorem witness_tileFetches : let s0 := (tileRuns.onWindow 1024 0 (fun y => { y with at_ := tileRuns.clock + 1 })).onBand 65536 (fun b => { b with bundle := [0] });
    Fetches s0 1024 65536 0 [0] 0x400000 0x10000 ∧ tileRuns.focus = (1024, 0) ∧ tileRuns.agenda = [] ∧ tileRuns.boot.stage = .up ∧ (tileRuns.window 1024 0).at_ ≤ tileRuns.clock ∧
    (find? 65536 tileRuns.bands).isSome = true ∧ (tileRuns.tile 1024).ctlHaltReq = false ∧ (tileRuns.tile 1024).ctlHalted = false ∧
    (tileRuns.team (tileRuns.band 65536).team).stopping = false := ⟨fetches (l := 0) (rest := []) (by decide), by decide⟩

theorem witness_memoryForm : MemoryForm State.reset ∧ ∃ t, step State.reset = .next t := ⟨reset_memoryForm, _, rfl⟩

theorem witness_agenda : (msOf (.nop rz)).isSome = true := by decide

/-! ### Clauses with premises of their own -/

/-- ConversionResults: from a finite code to an integer and to a floating type, and from an integer. -/
def cvt (ty mod : BitVec 4) : RFmt := { fR with ty := ty, b := 0, mod := mod.setWidth 9 }

theorem witness_conversions_finite : (legal (.fcvt (cvt 6 8)) && legal (.fcvt (cvt 8 9)) && legal (.fcvt (cvt 9 8)) && legal (.fcvt (cvt 10 6))) = true ∧
    (cvt 6 8).mod.extractLsb' 0 4 = 8 ∧ (cvt 8 9).mod.extractLsb' 0 4 = 9 ∧
    ({ g := [(8, 0x40200000)] } : Thread).reg (cvt 6 8).a.toNat = 0x40200000 := by decide

theorem witness_codeFinite : codeFinite 8 0x40200000 ∧ codeFinite 9 0x3C01 ∧ codeFinite 11 0x7E ∧ codeFinite 13 7 ∧ ¬ codeFinite 11 0x7F ∧
    RoundsTo 0 (codeUnits (8, 23) 0x40200000) 149 2 := by
  unfold codeFinite RoundsTo; decide

/-- TrapWords: a control thread and a management core with no handler. -/
theorem witness_trap_ends : ∀ i ∈ [Instr.trap { iz with imm := 7 }, .bkpt iz, .svc { iz with imm := 5 }], ∀ u ∈ [1024, 2048],
    let s := { runs i with bands := [(64 * u, { team := 1, lanes := 1, m := [(0, 1)], bundle := [0] })], threads := [(2048 * u, { pc := 0x400000 })], cur := ⟨u, 64 * u, [0], 0x400000, (runs i).cur.word, []⟩ };
    Lone i s ∧ Meets i s noCheck ∧ 1024 ≤ s.cur.u ∧ (s.band s.cur.bid).tvec &&& 0x000FFFFFFFFFFFF8 = 0 ∧
    (find? (s.band s.cur.bid).team s.teams).isSome = true ∧ (s.team (s.band s.cur.bid).team).done = false ∧
    (find? (s.team (s.band s.cur.bid).team).lid s.launches).isSome = true := fun i hi u hu =>
  ⟨lone (by revert i u; decide), meets (by revert i u; decide), by revert i u; decide⟩

/-- ChecksComeBeforeEffects: memory words with a handle in each of its states, and one that each later check stops. -/
def globalWords : List (Instr × MFmt) := [(.ldg (mem 4), mem 4), (.stg (mem 4), mem 4), (.mcst (mem 4), mem 4), (.ldv (mem 4), mem 4), (.casv casv, casv),
  (.atom (atom 4), atom 4), (.red (atom 4), atom 4), (.evsig (atom 4), atom 4), (.evwait (atom 4), atom 4)]

def withHandle (i : Instr) (h : Handle) : State := withThread (rich (runs i)) (fun t => { t with h := [(0, h)] })

theorem witness_globalChecks : ∀ p ∈ globalWords, ∀ st ∈ [HState.invalid, .pending, .revoked, .faulted, .valid], let s := withHandle p.1 { pageHandle with st := st };
    Lone p.1 s ∧ fits p.1 s.cur.u (s.band s.cur.bid).nregs = true ∧ (st ≠ .pending → verdict p.1 s noCheck 0 = .pass) ∧ (s.thread (s.here 0)).serr = none ∧ ((s.thread (s.here 0)).hdl p.2.a.toNat).st = st ∧ p.2.sp = 4 ∧
    s.cur.u < 1024 ∧ (s.thread (s.here 0)).inh = false ∧ (s.band s.cur.bid).tvec &&& 0x000FFFFFFFFFFFF8 ≠ 0 := fun p hp st hst =>
  ⟨lone (by revert p st; decide), by revert p st; decide⟩

theorem witness_globalChecks_fail : ∀ p ∈ globalWords, let n := 2 ^ p.2.sz.toNat;
    let ea := fun (h : Handle) => (h.base + globalOff ((withHandle p.1 h).thread 0) p.2 true).toNat;
    (ea { pageHandle with base := 0x400001 } % n ≠ 0 ∧ ea pageHandle % n = 0 ∧ inPage pageHandle (ea pageHandle) n = true) ∧
    (let h := { pageHandle with leaf := { page with r := false, w := false } }; inPage h (ea h) n = true ∧ h.leaf.r = false ∧ h.leaf.w = false) ∧
    (let h := { pageHandle with leaf := { page with reps := [1] } }; inPage h (ea h) n = true ∧ h.leaf.r = true ∧ h.leaf.w = true ∧ h.leaf.reps ≠ []) := by decide

theorem witness_globalChecks_outside : ∃ h : Handle, ∃ a, h.st = .valid ∧ a % 8 = 0 ∧ inPage h a 8 = false := ⟨pageHandle, 0x800000, rfl, by decide⟩

def spaceWords : List (Instr × MFmt × Bool) := [(.ldl (mem 0), mem 0, false), (.stl (mem 0), mem 0, true), (.lds (mem 1), mem 1, false), (.sts (mem 1), mem 1, true),
  (.ldc (mem 2), mem 2, false), (.stc (mem 2), mem 2, true), (.ldp (mem 3), mem 3, false), (.stp (mem 3), mem 3, true)]

def atAddress (i : Instr) (a : Word) : State := withRegs (rich (runs i)) [(8, a), (9, 0)]

theorem witness_spaceChecks : ∀ p ∈ spaceWords, Lone p.1 (atAddress p.1 65) ∧ verdict p.1 (atAddress p.1 65) noCheck 0 = .pass ∧
    ((atAddress p.1 65).thread 0).serr = none := fun p hp => ⟨lone (by revert p; decide), by revert p; decide⟩

theorem witness_spaceChecks_far : ∀ p ∈ spaceWords, Lone p.1 (atAddress p.1 0x20000) ∧ verdict p.1 (atAddress p.1 0x20000) noCheck 0 = .pass ∧
    ((atAddress p.1 0x20000).thread 0).serr = none := fun p hp => ⟨lone (by revert p; decide), by revert p; decide⟩

theorem witness_spaceChecks_fail : ∀ p ∈ spaceWords, spaceAddr ((atAddress p.1 65).thread 0) p.2.1 true = 65 ∧
    spaceAddr ((atAddress p.1 0x20000).thread 0) p.2.1 true = 0x20000 := by decide

theorem witness_spaceChecks_outside : ∀ p ∈ spaceWords, let s := atAddress p.1 0x20000; p.2.1.sp = 0 ∧ (s.band 0).psize < 0x20000 + 8 ∨
    p.2.1.sp = 1 ∧ (s.team (s.band 0).team).alloc < 0x20000 + 8 ∨ p.2.1.sp ≠ 0 ∧ s.spaceBytes 0 p.2.1.sp.toNat 0x20000 8 = none := by decide

theorem witness_privateCheck : let s := withBand (withRegs (rich (runs (.ldl (mem 0)))) [(8, 64), (9, 0)]) (fun b => { b with pbase := 0x500000 });
    spaceAddr (s.thread (s.here 0)) (mem 0) true = 64 ∧ 64 + 8 ≤ (s.band s.cur.bid).psize ∧ s.privOk (s.here 0) 64 8 false = false := by decide

/-- BarrierWords: `.trap` words at a broken barrier. -/
theorem witness_bar_broken : ∀ p ∈ ([(.cbar { bar5 with mod := 1 }, .cluster, 16), (.lbar { bar5 with mod := 1 }, .launch, 32)] : List (Instr × BarKind × Nat)),
    let s := (rich (runs p.1)).onLaunch (2 ^ 32) (fun l => { l with broken := [5, 21, 37, 53, 16, 32, 69, 133, (rich (runs p.1)).barKey p.2.1 1 5] });
    Lone p.1 s ∧ verdict p.1 s noCheck 0 = .pass ∧ s.declares (s.here 0) p.2.1 = true ∧ (s.thread (s.here 0)).serr = none ∧
    s.barBroken p.2.1 (s.band s.cur.bid).team (barOf { bar5 with mod := 1 }) = true := fun p hp => ⟨lone (by revert p; decide), by revert p; decide⟩

/-- LaunchWords: a launch whose graph and job are counted. -/
theorem witness_cancel : ∀ fn ∈ [(2 : BitVec 8), 3], let i := Instr.cancel { iz with fn := fn };
    let s := { rich (runs i) with graphs := [(65536 * 1, { remaining := 1, accepted := 1, count := 1 })], jobs := [(65536 * 1, { remaining := 1, accepted := 1, count := 1 })] };
    Meets i s noCheck ∧ (find? (s.band s.cur.bid).team s.teams).isSome = true ∧ (find? (s.team (s.band s.cur.bid).team).lid s.launches).isSome = true ∧
    65536 * (s.launch (s.team (s.band s.cur.bid).team).lid).ctx + (s.launch (s.team (s.band s.cur.bid).team).lid).desc.graph = 65536 :=
  fun fn hf => ⟨meets (by revert fn; decide), by revert fn; decide⟩

/-- RequestsArePerformed: the other kinds of request, a multicast that has its order and one that has none. -/
def ventry : VEntry := ⟨lineOf 0x10040, 9, 1, 0x400040⟩

def kinds : List ReqKind := [.refill, .multi [0, 1], .ldv 1 0x400040, .casv 9 4, .vset 0 [ventry], .vset 0 [ventry, ventry], .evwait]

theorem performable {s : State} {r : Req} {b : Bool} (h : s.req? s.ev.id = some r ∧ r.performed = false ∧ s.blocked r = false ∧
    s.agentServes r s.ev.die = b ∧ s.hasArrived r s.ev.die = true ∧ (s.ev.discard && r.place == .phys && decide (2 ^ 60 ≤ r.point 0)) = false ∧
    s.replyError r = none ∧ r.place = .phys) : Performable s r b :=
  ⟨h.1, h.2.1, h.2.2.1, h.2.2.2.1, h.2.2.2.2.1, h.2.2.2.2.2.1, h.2.2.2.2.2.2.1, fun _ hp => by rw [h.2.2.2.2.2.2.2] at hp; cases hp⟩

theorem witness_performable_kinds : ∀ k ∈ kinds, Performable (asked (asking k)) (asking k) false ∧ Performable (away (asking k)) (asking k) true :=
  fun k hk => ⟨performable (by revert k; decide), performable (by revert k; decide)⟩

/-- A multicast whose order is fixed, alone and behind an earlier one to the same die. -/
def ordered : Req := { asking (.multi [0, 1]) with order := 7 }

def orderedBehind : State := { asked ordered with reqs := [{ ordered with id := 3, seq := 3, order := 5, parts := [{ part with tid := 1 }] }, ordered] }

theorem witness_multi : Performable (asked ordered) ordered false ∧ Performable orderedBehind ordered false ∧
    (∃ q ∈ orderedBehind.reqs, q.id ≠ ordered.id ∧ q.order ≠ 0 ∧ q.order < ordered.order ∧ lineOf q.first = lineOf ordered.first ∧
      ∃ ds, q.kind = .multi ds ∧ 0 ∈ ds) ∧ Performable (asked { ordered with kind := .multi [1] }) { ordered with kind := .multi [1] } false ∧
    ∀ n, ((asked ordered).stack n).fencedBanks = [] :=
  ⟨performable (by decide), performable (by decide), ⟨_, List.mem_cons_self, by decide, by decide, by decide, by decide, _, rfl, by decide⟩,
    performable (by decide), fun _ => rfl⟩

theorem steady_of {s : State} {line : Nat} (h : (s.granule (128 * line) ≠ .s32 ∨ (find? line s.l2).isSome = true ∨ s.atAgent (128 * line) = true) ∧
    s.damage = [] ∧ s.hbm = [] ∧ s.lost = [] ∧ ∀ p ∈ s.l2, p.2.gran = s.granule (128 * p.1)) : Steady s line :=
  ⟨h.1, h.2.1, fun n => by simp only [State.stack, h.2.2.1]; rfl, h.2.2.2.1, h.2.2.2.2⟩

/-- Lines of a frame of 128-byte granule, of S32 granule that are resident, and at the agent. -/
def steadyStates : List State := [asked (asking .store), { asked (asking .store) with granules := [(1, .s32)], l2 := [(512, ⟨.s32, [0], [], 0⟩)] },
  { away (asking .store) with granules := [(1, .s32)] }]

theorem witness_steady : ∀ s ∈ steadyStates, Steady s (lineOf 0x10040) := fun s hs => steady_of (by revert s; decide)

/-- An LDV whose line is known, that is the ninth, and that is neither. -/
def ldving (v : List VEntry) : State := withThread (asked (asking (.ldv 1 0x400040))) (fun t => { t with vset := v })

theorem witness_ldv : ∀ v ∈ [[], [ventry], List.replicate 8 { ventry with line := 3 }], ((ldving v).thread 0).vset = v ∧ ((ldving v).thread 0).exited = false ∧
    (find? 0 (ldving v).threads).isSome = true := by decide

theorem witness_ldv_performs : ∀ v ∈ [[], [ventry], List.replicate 8 { ventry with line := 3 }],
    Performable (ldving v) (asking (.ldv 1 0x400040)) false ∧ Steady (ldving v) (lineOf (asking (.ldv 1 0x400040)).first) ∧
    (((ldving v).acquireDrop (asking (.ldv 1 0x400040))).fillFor (dataWho 0) .phys part.addrs).readsPoison .phys part.addrs = false :=
  fun v hv => ⟨performable (by revert v; decide), steady_of (by revert v; decide), by revert v; decide⟩

/-- A CASV and a VSET of a line of each version. -/
def withVersion (k : ReqKind) (v : Nat) : State := { asked (asking k) with versions := [(lineOf 0x10040, .ofNat 40 v)] }

theorem witness_versions_match : ∀ k ∈ [ReqKind.casv 9 4, .vset 0 [ventry], .vset 0 [ventry, ventry]], ∀ v ∈ [8, 9],
    Performable (withVersion k v) (asking k) false ∧ Steady (withVersion k v) (lineOf 0x10040) ∧ (withVersion k v).version (lineOf 0x10040) = BitVec.ofNat 40 v :=
  fun k hk v hv => ⟨performable (by revert k v; decide), steady_of (by revert k v; decide), by revert k v; decide⟩

/-- An event word that is satisfied and one that is not. -/
theorem witness_evwait_first : ∀ n ∈ [0, 1], let want := BitVec.ofNat 32 n; let s := withThread (asked (asking .evwait)) (fun t => { t with wait := .evwait 9 want 4 });
    Performable s (asking .evwait) false ∧ (s.thread 0).wait = .evwait (asking .evwait).id want 4 ∧
    ((s.acquireDrop (asking .evwait)).fillFor (dataWho 0) .phys part.addrs).readsPoison .phys part.addrs = false ∧
    (wordOf (part.addrs.map (s.readByte .phys)) 0 - want).toNat = if n = 0 then 0 else 2 ^ 32 - 1 :=
  fun n hn => ⟨performable (by revert n; decide), by revert n; decide⟩

/-- Each reason to follow an earlier access. -/
def older (k : ReqKind) : Req := { asking k with id := 3, seq := 3, parts := [{ part with addrs := [0x10000] }] }

theorem witness_follows : Follows { asking .load with id := 3, seq := 3 } (asking .load) 0 ∧
    Follows (older .load) { asking .store with rel := true } 0 ∧ Follows (older .store) { asking .store with rel := true, scope := 2 } 0 ∧
    Follows { older .load with acq := true } (asking .load) 0 ∧ Follows (older (.ldv 1 0x400000)) (asking .store) 0 :=
  ⟨.bytes 0x10040 (by decide) (by decide) (by decide) (by decide), .release (by decide) (by decide) (by decide) (by decide),
   .releaseWrite (by decide) (by decide) (by decide) (by decide) (by decide), .acquire (by decide) (by decide) (by decide),
   .version 1 0x400000 0x10040 (by decide) (by decide) (by decide) (by decide) (by decide)⟩

theorem witness_followed : let s := { asked (asking .load) with reqs := [older .load, asking .load] };
    s.req? s.ev.id = some (asking .load) ∧ older .load ∈ s.reqs ∧ (older .load).seq < (asking .load).seq ∧
    (∃ p ∈ (asking .load).parts, p.tid = 0) ∧ ∃ p ∈ (older .load).parts, p.tid = 0 := by decide

/-- RepliesAreDelivered: the reply of an event word crosses at once. -/
theorem witness_evwait_crosses : (asked (asking .evwait)).crossing .rsp (((asked (asking .evwait)).endAt (asking .evwait).place (asking .evwait).first).getD settEnd)
    (asking .evwait).u = true := by decide

/-- A tensor copy whose TCB, and the entry of whose region, can be read, and one that a retraining link keeps from them. -/
def fetching (e : Entry) : State := let s := copyState e; { s with mem := Memory.writeAll s.mem (cellsAt 0x10000 tcb) }

def tcopy : Entry := { copying (.tcpy tcpy) with started := false, region := none, regs := [0x400000, 0, 0, 0, 0, 0, 0, 0x800] }

/-- The entry's queue is on a core of die 0; the TCB lies on stack 1, over a link that retrains. -/
def farPage : Handle := { pageHandle with leaf := { page with pa := 0x4000000000 } }

def cutOff : State := { (fetching { tcopy with hdls := [farPage] }).setLinks 0 0 2 with ev := { q := .band 0 } }

set_option maxRecDepth 20000 in
theorem witness_tcbReach : (Oldest (fetching tcopy) (.band 0) tcopy [] ∧ (fetching tcopy).tcbReach (.band 0) tcopy = true) ∧
    Oldest cutOff (.band 0) { tcopy with hdls := [farPage] } [] ∧ cutOff.tcbReach (.band 0) { tcopy with hdls := [farPage] } = false ∧
    isTensor tcopy.instr = true ∧ (fetching tcopy).waitsMet (queueTid (.band 0)) tcopy.waits = true :=
  ⟨⟨⟨by decide, by decide, fun _ h => absurd h List.not_mem_nil, fun u m h => by cases h⟩, by decide⟩,
   ⟨by decide, by decide, fun _ h => absurd h List.not_mem_nil, fun u m h => by cases h⟩, by decide, by decide, by decide⟩

/-- CopiesLand: what each copy reads and writes can be reached. -/
theorem witness_copyReach : (copyState tileCopy).rowReach (.band 0) tileCopy = true ∧
    (∀ i ∈ [Instr.cpy cpy, .cpym cpym, .cpy { cpy with c := 44 }], (copyState (copying i)).pieceReach (.band 0) (copying i) = true) := by decide

set_option maxRecDepth 8000 in
theorem witness_refitReach : refitState.refitReach refitState.ev.q refit = true := by decide

theorem witness_reads (a : Nat) : Reads (copyState (copying (.cpy cpy))) (.band 0) .phys a ((copyState (copying (.cpy cpy))).readByte .phys a) := .inl rfl

/-- LaunchesAreSubmitted: once the ring is read its reservation can be written. -/
theorem flat_readRing {n : Nat} (h : n = 17 ∨ n = 1) : Flat ((reserving n).readRing 1) := by rcases h with rfl | rfl <;> exact flat_of (by decide)

/-- TeamsAreDrawnAndPlaced: the second of two ready queues is drawn. -/
theorem witness_drawn_part : let qs := [((0 : Nat), (2 ^ 32 : Nat), (1 : Nat))]; (qs.map (·.1)).Pairwise (· < ·) ∧ (qs.map (·.2.2)).sum ≠ 0 ∧
    ((qs.take 0).map (·.2.2)).sum ≤ (xorshift (ready1.ctx 1).x).toNat % (qs.map (·.2.2)).sum ∧
    (xorshift (ready1.ctx 1).x).toNat % (qs.map (·.2.2)).sum < ((qs.take 0).map (·.2.2)).sum + 1 := by decide

set_option maxRecDepth 8000 in
/-- The cluster that a launch's next team goes to, and the core that its team starts on. -/
theorem witness_clusterFor : ready1.clusterFor (2 ^ 32) = some 0 ∧ (queued1 0).coreFor 0 (2 ^ 32) [] = some 1 ∧ (queued1 0).coreFor 0 (2 ^ 32) [1] = some 2 := by decide

/-- A cluster group of two teams, which has its cores, and which has not. -/
def grouped (bands : Nat) : State :=
  let s := queued1 0
  { (s.onLaunch (2 ^ 32) (fun l => { l with desc := { l.desc with cgroup := 2, scratch := bands } })) with
    teams := s.teams ++ [(8, { lid := 2 ^ 32, index := 1, place := .queued 0 })], clusterQ := [(0, [7, 8])] }

theorem witness_group : ∀ n ∈ [0, 2 ^ 30], let s := grouped n; s.headGroup 0 = [7, 8] ∧ (sget [] s.clusterQ 0).Nodup ∧
    (∀ j ∈ [7, 8], (find? j s.teams).isSome = true ∧ (s.team j).lid = 2 ^ 32) ∧ (s.launch (2 ^ 32)).desc.tensor = false ∧
    s.coresFor 0 (2 ^ 32) 2 [] = (if n = 0 then some [1, 2] else none) ∧ s.throttled 0 = false ∧ s.wokenWaits 0 = false ∧
    s.teamSuspended 7 = false ∧ s.clusterOpen 0 = true := by decide

/-- A steal while the neighbour can start its team, and while it cannot. -/
theorem witness_steal_after : (queued1 1).nextStart 0 = some ([7], [1]) ∧
    (let s := { queued1 1 with teams := (queued1 1).teams ++ [(9, ({ lid := 2 ^ 32, place := .stored 0, woken := true } : Team))] }; s.nextStart 0 = none ∧ s.longest 1 = some 0 ∧ s.stealable 7 1 = true ∧
      (s.coreFor 1 (s.team 7).lid []).isSome = true ∧ find? 0 s.lastStart ≠ some s.clock ∧ sget [] s.clusterQ 0 = [7]) := by decide

/-- RegroupPicksReadyBands: a join that is complete and one that is not, a thread in WAITM that goes on and one that waits on. -/
def joining (w0 w1 : Wait) (arr : Word) : State :=
  let s := band2 (runs (.nop rz)) 3
  { s with threads := [(0, { wait := w0 }), (1, { wait := w1 })], bands := [(0, { (s.band 0) with arrived := [(2, arr)] })], clock := 8 }.onWindow 0 0 (fun w => { w with next := 4 })

theorem witness_joins : ∀ w1 ∈ [Wait.join 2, .waitm 2 false, .waitm 2 true], ∀ a ∈ [0, 1, 2, 3], let arr := BitVec.ofNat 32 a; let s := joining (.join 2) w1 arr;
    (s.thread 0).wait = .join 2 ∧ s.members 0 2 = [0, 1] ∧ (s.band 0).lanes = 2 ∧ ((s.band 0).arr 2) = arr ∧ (s.thread 1).wait = w1 ∧
    (s.window 0 0).over s.clock = true ∧ s.slotDue 0 0 ≤ s.clock ∧ s.bandsOf 0 0 = [0] ∧ s.boot.stage = .up := by decide

/-- TeamsCompleteAndCongest: a team of which another record has already been counted. -/
theorem witness_countedBefore : let s := { ending with teams := ending.teams ++ [(9, ({ lid := (ending.team 1).lid, index := (ending.team 1).index, done := true } : Team))] };
    (find? 1 s.teams).isSome = true ∧ s.isResident 1 = true ∧ s.teamDone 1 = true ∧ (s.team 1).done = false ∧
    ∃ p ∈ s.teams, p.2.lid = (s.team 1).lid ∧ p.2.index = (s.team 1).index ∧ p.1 ≠ 1 ∧ p.2.done = true := by decide

/-- TrapReturns: a handler of an engine reset. -/
theorem witness_tretReset : ∀ i ∈ [Instr.tretRetry rz, .tretSkip { rz with fn := 1 }], let s := handling i 0x118; Meets i s tretCheck ∧ performers i s = [0] ∧
    (s.thread 0).tcause.getLsbD 8 = true ∧ (s.thread 0).tcause.extractLsb' 0 8 = 0x18 := fun i hi => ⟨meets (by revert i; decide), by revert i; decide⟩

/-- InvalidationAndMigration: the last acknowledgement of a command behind a complete one and before one that lacks some; behind one that
lacks some; and one that is not given yet. -/
def full : InvCmd := lastAck (receivers.filter (· != .port))

def acking (before after : List InvCmd) : State := { base with invq := before ++ full :: after, ev := { r := .port, id := 2 } }

theorem witness_lacks : ∃ y ∈ receivers, y ∉ ({ sent with seq := 3 } : InvCmd).acked := ⟨.port, by simp [receivers], List.not_mem_nil⟩

theorem witness_inOrder : (∀ x ∈ [{ sent with seq := 1, complete := true }] ++ [{ sent with seq := 3 }], x.seq ≠ full.seq) ∧ full.complete = false ∧
    (∀ x ∈ [({ sent with seq := 1, complete := true } : InvCmd)], x.complete = true) ∧
    ([({ sent with seq := 3 } : InvCmd)].find? (fun x => !x.complete) = some { sent with seq := 3 }) ∧
    (∀ y ∈ receivers, y = .port ∨ y ∈ full.acked) ∧ Receiver.port ∈ full.received ∧ Receiver.port ∉ full.acked ∧
    (acking [{ sent with seq := 1, complete := true }] [{ sent with seq := 3 }]).mayAck .port full = true :=
  ⟨by decide, rfl, by decide, rfl, (lastAck_meets receivers).2.2.2, (lastAck_meets receivers).1, (lastAck_meets receivers).2.1, rfl⟩

theorem witness_outOfOrder : ∃ x ∈ [({ sent with seq := 1 } : InvCmd)], x.complete = false ∧ ∃ y ∈ receivers, y ∉ x.acked :=
  ⟨_, List.mem_singleton.2 rfl, rfl, .port, by simp [receivers], List.not_mem_nil⟩

theorem witness_ackWaits : let c : InvCmd := { sent with received := [.unit 0], pending := [(.unit 0, [9])] };
    let s := { asked { asking .load with asid := 1 } with invq := [c], ev := { r := .unit 0, id := 2 } };
    s.invq.find? (fun c => c.seq == s.ev.id && c.received.contains s.ev.r && !c.complete && !c.acked.contains s.ev.r) = some c ∧ s.mayAck s.ev.r c = false := by decide

set_option maxRecDepth 20000 in
theorem witness_migrationQueue : ∀ n ∈ [0, 1], let s := migrating (BitVec.ofNat 8 n); s.migPa 1 0 = some 0x5000 ∧ s.migPa 1 4 = some 0x5004 ∧
    s.migPa 1 (128 + 64 * 0) = some 0x5080 ∧ s.readNat .phys 0x5000 4 ≠ s.readNat .phys 0x5004 4 ∧ find? 1 s.migrations = none ∧
    (let b := s.readN .phys 0x5080 64
     (s.migNext 1).2.migRefusal (s.space 1) (fieldOf b 0 8) (fieldOf b 8 8) (fieldOf b 16 4) (fieldOf b 20 1) = if n = 0 then 2 else 0) := by decide

/-- ImageWords: a CTXL of each of the states that it is used in passes its checks; one onto a cluster that makes no team resident waits. -/
def ctxl : MFmt := { img with b := 10 }

theorem witness_ctxlPasses : ∀ p ∈ [(loading [] 0x2000 .online, 0), (loading header 256 .quiesced, 256), (loading [] 256 .online, 256), (loading header 256 .online, 256), (loading header 256 .fenced, 256)],
    Alone (.ctxl ctxl) p.1 (ctxlCheck ctxl) 0 ∧ targetUnit ((p.1.thread 0).reg 8) = p.2 := fun p hp => ⟨alone (by revert p; decide), by revert p; decide⟩

theorem witness_ctxlStatus : (loading [] 256 .online).imageFits 0 256 0x8000 = false ∧ (loading header 256 .online).imageFits 0 256 0x8000 = true ∧
    (loading header 256 .fenced).imageFits 0 256 0x8000 = true ∧ ((loading header 256 .fenced).die (dieOf 256)).st ≠ .online ∧
    ((loading header 256 .online).die (dieOf 256)).st = .online ∧
    targetKind 0x2000 = 0 + 0 ∨ targetKind 0x2000 ≠ 0 ∧ targetKind 0x2000 ≠ 6 := by decide

def throttling : State := { loading header 256 .online with levels := [(131, ⟨3, 0⟩)], bands := (loading header 256 .online).bands ++ (List.range 64).map (fun i => (16448 + i, {})) }

set_option maxRecDepth 20000 in
theorem witness_ctxlWaits : Lone (.ctxl ctxl) throttling ∧ imageCheck ctxl throttling (throttling.here 0) = .pass ∧
    laneCheck (.ctxl ctxl) throttling.cur.word throttling.cur.u (throttling.band throttling.cur.bid).nregs (throttling.thread (throttling.here 0)) = .pass ∧
    targetKind ((throttling.thread 0).reg 8) = 0 ∧ targetUnit ((throttling.thread 0).reg 8) = 256 ∧ throttling.throttled (clusterOf 256) = true ∧
    throttling.loadStatus 0 256 0x8000 = 0 := ⟨lone (by decide), by decide⟩

/-- HaltedAndParkedRoles: a lane parked for its own revoked handle, whose word can be fetched, and the reported entry of a lane that has
exited. -/
def parkedFor (i : Instr) (cause : Nat) : State :=
  (parked i 1).onThread 2048 (fun t => { t with parked := some ⟨cause, 0x400000, false⟩, h := [(0, { pageHandle with st := .revoked })] }) |>.onBand 64 (fun b => { b with pctx := 0x10001 })

theorem witness_prkr_translates : ∀ c ∈ [6, 7], let s := parkedFor (.prkrRetry prkr) c;
    Alone (.prkrRetry prkr) s (fun x t => (targetWordCheck 8 x t).andThen (pkgRelease x t)) 0 ∧ s.targetRole 0 ((s.thread 0).reg 8) = some 64 ∧
    (s.thread 2048).parked = some ⟨c, 0x400000, false⟩ ∧ (s.thread 2048).exited = false ∧ (find? 2048 s.threads).isSome = true :=
  fun c hc => ⟨alone (by revert c; decide), by revert c; decide⟩

theorem witness_prkr_fetches : ∃ w, (parkedFor (.prkrRetry prkr) 6).fetch (unitOf 2048) ((parkedFor (.prkrRetry prkr) 6).asidOf 2048)
    ((parkedFor (.prkrRetry prkr) 6).thread 2048).pc.toNat = some w := ⟨_, rfl⟩

def left : Entry := { copying (.cpy cpy) with tid := 2048, fault := some (0x10, 7) }

def exitedLane (i : Instr) : State :=
  ((parked i 1).onThread 2048 (fun t => { t with parked := none, exited := true })).onBand 64 (fun b => { b with cq := { entries := [left], faulted := true, reported := true } })

theorem witness_prkr_entry : ∀ i ∈ [Instr.prkrRetry prkr, .prkrSkip { prkr with fn := 1 }, .prkrKill { prkr with fn := 2 }], let s := exitedLane i;
    Alone i s (fun x t => (targetWordCheck 8 x t).andThen (pkgRelease x t)) 0 ∧ s.targetRole 0 ((s.thread 0).reg 8) = some 64 ∧
    (s.thread 2048).parked = none ∧ (s.thread 2048).exited = true ∧ (s.band 64).cq.faulted = true ∧ (s.band 64).cq.reported = true ∧
    (s.band 64).cq.entries.find? (fun e => e.fault.isSome) = some left ∧ left.tid = 32 * 64 + 0 ∧ (find? (s.band 64).team s.teams).isSome = true :=
  fun i hi => ⟨alone (by revert i; decide), by revert i; decide⟩

theorem witness_haltGone : let s := { base with halts := [⟨3, 0, 77, 4⟩, ⟨5, 1, 77, 4⟩] }; (s.team 1).place = .resident 0 ∧
    roleBand 0 ∈ (s.team 1).bands ∧ roleBand 1 ∉ (s.team 1).bands := by decide

/-- DieResetsAndSelfTests: an engine reset of tile 1 of die 4, of its kinds and of another, and of a core. -/
theorem witness_engineReset : ∀ p ∈ [((0x2401 : Nat), DieState.online), (0xC401, .online), (0x2401, .flushed), (0x401, .online), (0xE401, .online), (1, .online)],
    let i := Instr.drstEngine (drst 4);
    let s := { system i 2 [(8, .ofNat 32 p.1)] with dies := [(4, { st := p.2 })] }; Alone i s (engineResetCheck (drst 4)) 4194304 ∧
    s.unitFenced (((s.thread 4194304).reg 8).toNat % 2048) = false ∧ (s.die 4).st = p.2 := fun p hp => ⟨alone (by revert p; decide), by revert p; decide⟩

theorem witness_engineKinds : targetKind 0x2401 = 1 ∧ targetKind 0xC401 = 6 ∧ targetKind 0x401 = 0 ∧ targetKind 0xE401 = 7 ∧ 0x2401 % 2048 = 1025 := by decide

/-- MemorySystemEvents: no request has waited 4096 clocks; requests of every class, with a forced choice and without. -/
def dram (cls at_ row : Nat) : DramReq := { dram1 with cls := cls, at_ := at_, row := row }

def granting (recent : List Nat) (cls : List Nat) : State :=
  stackState { chans := [(0, { queue := cls.map (fun c => dram c (10 - c) c), recent := recent, open_ := [(3, 1)] })] } false

theorem witness_shares : ∀ recent ∈ [[], [0, 0, 0, 0, 0], [0, 1, 1, 2, 0, 0, 0, 0]], let s := granting recent [0, 1, 2]; let c := sget {} (s.stack 0).chans 0;
    c.queue ≠ [] ∧ (∀ x ∈ c.queue, s.clock < x.at_ + 4096) ∧ (∀ k ∈ [0, 1, 2], ∃ x ∈ c.queue, x.cls = k) ∧
    (forced recent = if recent.length = 5 then [1, 2] else [0, 1, 2]) := by decide

theorem witness_someClasses : let s := granting [] [0, 1]; let c := sget {} (s.stack 0).chans 0; c.queue ≠ [] ∧ (∀ x ∈ c.queue, s.clock < x.at_ + 4096) ∧
    (¬ ∃ x ∈ c.queue, x.cls = 2) ∧ ∃ x ∈ c.queue, find? x.bank c.open_ = some x.row := by decide

/-- ErrorsAreHandled: a hop that the agenda lists, over an open link and over one that retrains; a way that is open. -/
def hopping (st : Nat) : State := { linked st 0 .full with packets := [toDie2], agenda := [.hop .req 9 4224] }

theorem witness_hops : ∀ st ∈ [0, 2], let s := hopping st; s.boot.stage = .up ∧
    s.packets.find? (fun p => p.cls == .req && p.ref == 9 && p.dst == 4224) = some toDie2 ∧ s.mayHop toDie2 = (st == 0) ∧
    linkAt toDie2.node 258 = some (1, 0) ∧ (s.die 1).linkState 0 = st := by
  intro st h
  simp only [List.mem_cons, List.not_mem_nil, or_false] at h
  rcases h with rfl | rfl <;> refine ⟨by decide, by decide, ?_, by decide, by decide⟩ <;> simp [State.mayHop, State.linkRoom] <;> decide

theorem witness_crossing : (linked 0 0 .full).crossing .rsp 256 4224 = true := by decide

/-- GangWords: an arrival whose gang lists a band that has no live thread. -/
theorem witness_gangDead : let s := { (ganged (.gmma gmma) arrived1).onThread 0 (fun t => { t with exited := true }) with ev := { bid := 1 } };
    s.arrival s.ev.bid = some ⟨[0], [0, 32, 40, 41], 0, 0⟩ ∧ (s.gangBands s.ev.bid).filter (fun b => (s.arrival b).isSome) = [s.ev.bid] ∧
    ∃ b ∈ s.gangBands s.ev.bid, ∀ t ∈ s.bandTids b, (s.thread t).exited = true := by decide

theorem witness_gangAlive : let s := { ganged (.gmma gmma) arrived1 with ev := { bid := 1 } };
    (¬ ∃ b ∈ s.gangBands s.ev.bid, ∀ t ∈ s.bandTids b, (s.thread t).exited = true) ∧ s.boot.stage = .up := by decide

/-- HandlesAndTranslations: nothing is on the network. -/
theorem witness_quiet : Quiet (translating { pageHandle with st := .pending, walk := some (3, 0x1000) }) := ⟨rfl, fun d l => by
  show (({} : Die)).linkState l < 2
  simp [Die.linkState, bitsOf]⟩

/-! ## Worked examples of the specification -/

/-- R188: the table of quotients and remainders. -/
theorem test_idiv : idivResult { fR with ty := 6 } (-7) 2 = 0xFFFFFFFD ∧ idivResult { fR with ty := 6, fn := 1 } (-7) 2 = 0xFFFFFFFF ∧
    idivResult { fR with ty := 2 } 0xFFFFFFF9 2 = 0x7FFFFFFC ∧ idivResult { fR with ty := 2, fn := 1 } 0xFFFFFFF9 2 = 1 := by decide

theorem test_idiv_overflow : idivResult { fR with ty := 6 } (-0x80000000) (-1) = 0x80000000 ∧
    idivResult { fR with ty := 6, sat := 1 } (-0x80000000) (-1) = 0x7FFFFFFF ∧
    idivResult { fR with ty := 6, fn := 1 } (-0x80000000) (-1) = 0 := by decide

/-- R190: the bytes of three rows of the example (log 51 for the fourth), in g[A] = 0x44332211 and g[B] = 0x88776655. -/
theorem test_bswz : (List.range 4).map (bswzByte fR 0x8877665544332211 0x547) = [0x88, 0x11, 0x66, 0x33] ∧
    (List.range 4).map (bswzByte { fR with mod := 4 } 0x8877665544332211 0x547) = [0x88, 0x11, 0, 0x33] ∧
    (List.range 4).map (bswzByte fR 0x8877665544332211 0x053) = [0x44, 0x33, 0x22, 0x11] := by decide

/-- R369: the four draws of the example, from SEED 1. -/
theorem test_lottery : drawFrom 1 [(0, 10, 30), (1, 11, 0), (2, 12, 50)] = (some 12, 0x00042021) ∧
    drawFrom 0x00042021 [(0, 10, 30), (1, 11, 0), (2, 12, 50), (3, 13, 20)] = (some 13, 0x04080601) ∧
    drawFrom 0x04080601 [(0, 10, 30), (1, 11, 0), (3, 13, 20)] = (some 10, 0x9DCCA8C5) ∧
    drawFrom 0x9DCCA8C5 [(1, 11, 0)] = (some 11, 0x9DCCA8C5) := by decide

/-- R388, R395, R400: the home of 0x2000010480 and where its line lies. -/
theorem test_home : homeDie 0x2000010480 = 1 ∧ homeSlice 0x2000010480 = 32 ∧ burstsOf .l128 0x2000010480 = ([⟨10, 8⟩], 0) ∧
    burstsOf .w512 0x2000010480 = ([⟨12, 8⟩, ⟨13, 8⟩, ⟨14, 8⟩, ⟨15, 8⟩], 0) := by decide

/-- R91, R92: the table of conversions to E4M3. -/
theorem test_e4m3 : e4m3.round 0 false false (fp32.decode 0x43E80000) = 0x7E ∧
    e4m3.round 0 false false (fp32.decode 0x43EB0000) = 0x7F ∧ e4m3.round 0 true false (fp32.decode 0x43EB0000) = 0x7E ∧
    e4m3.round 0 false false (fp32.decode 0x3E99999A) = 0x2A ∧ e4m3.round 1 false false (fp32.decode 0x3E99999A) = 0x29 ∧
    e4m3.round 0 false false (fp32.decode 0x3A83126F) = 0x01 := by decide

end Sys2Proof.Tests
end

section
/-!
PROOFS. The integer, immediate, logical and shift words of 06 (R177-R179). First what every word that acts lane by lane has in common,
then how the model's numbers stand to the spec's, then each family of words.
-/

namespace Sys2Proof.Machine

/-! ## Legality: check 4 of R159 -/

/-- The field condition of a word's shape is part of its legality. -/
theorem shape_ok_of_legal {i : Instr} (h : legal i = true) : (shape i).ok = true := by
  simp only [legal, Bool.and_eq_true] at h
  obtain ⟨⟨⟨hok, -⟩, -⟩, -⟩ := h
  exact hok

/-- An illegal word gives every lane trap 0x01 with the word as its value. -/
theorem verdict_of_illegal {i : Instr} (h : legal i = false) (s : State) (own : State → Nat → Check) (l : Nat) :
    verdict i s own l = .trap 0x01 s.cur.word := by
  simp [verdict, laneCheck, fits, h, Check.andThen]

/-- A lane that passes its checks performs a legal word. -/
theorem legal_of_verdict_pass {i : Instr} {s : State} {own : State → Nat → Check} {l : Nat} (h : verdict i s own l = .pass) :
    legal i = true := by
  cases hl : legal i
  · rw [verdict_of_illegal hl] at h
    cases h
  · rfl

/-! ## Words that act lane by lane -/

/-- The legal words of a format whose meaning is `op` on each performing lane complete with `g`, where `op` on a lane is `g`. -/
theorem completes_of_lanewise {F : Type} {mk : F → Instr}
    {op g : F → State → Nat → Thread → Thread}
    (hexec : ∀ f s, exec (mk f) s = lanewise (mk f) s noCheck (op f))
    (hop : ∀ f, legal (mk f) = true → ∀ x s tid t, op f x tid t = g f s tid t) (f : F) (s : State)
    (hi : Issuing (mk f) s) (hp : AllPass (mk f) s noCheck) : Completes (mk f) s (g f s) := by
  obtain ⟨t, ht, honly, hlanes⟩ := lanewise_completes (f := op f) hi hp
  refine ⟨t, (hexec f s).trans ht, honly, fun l hl => ?_⟩
  rw [hlanes l hl]
  by_cases hs : selected (mk f) s l = true
  · simp only [hs, if_true]
    exact hop f (legal_of_verdict_pass (hp l hl hs)) _ _ _ _
  · simp only [hs]
    rfl

/-- A bundle of one lane that an illegal word selects takes trap 0x01 with the word as its value. -/
theorem lanewise_traps_of_illegal {i : Instr} {s : State} {l : Nat} (hi : Issuing i s) (hl : s.cur.lanes = [l])
    (hs : selected i s l = true) (hill : legal i = false) (own : State → Nat → Check) (op : State → Nat → Thread → Thread) :
    lanewise i s own op = .next ((s.raise (s.here l) 0x01 s.cur.word).keepBundle s.cur.bid [l]) := by
  rw [lanewise, perform_stops hi hl hs (verdict_of_illegal hill s own l) (by simp)]
  rfl

/-! ## Opcodes (R157) -/

theorem opField_toNat {w : DWord} {op : BitVec 8} (h : w.extractLsb' 56 8 = op) : (opField w).toNat = op.toNat :=
  congrArg BitVec.toNat h

/-- The opcodes of the integer words, then those of the logical and shift words. -/
theorem ofWord_formatR (w : DWord) :
    ∀ p ∈ [((0x01 : BitVec 8), Instr.add), (0x03, .sub), (0x04, .mul), (0x05, .mulh), (0x06, .mad), (0x07, .min), (0x08, .max),
        (0x09, .absd), (0x28, .clamp)] ++
      [((0x0A : BitVec 8), Instr.and), (0x0C, .or), (0x0E, .xor), (0x10, .not), (0x11, .shl), (0x13, .shr), (0x15, .sar), (0x17, .rot)],
    w.extractLsb' 56 8 = p.1 → ofWord w = p.2 (unpackR w) := by
  intro p hp h
  have hop := opField_toNat h
  simp only [List.cons_append, List.nil_append, List.mem_cons, List.not_mem_nil, or_false] at hp
  rcases hp with rfl | rfl | rfl | rfl | rfl | rfl | rfl | rfl | rfl | rfl | rfl | rfl | rfl | rfl | rfl | rfl | rfl <;>
  · simp only [BitVec.reduceToNat] at hop
    unfold ofWord
    generalize (opField w).toNat = n at hop
    subst hop
    rfl

/-- The opcodes of the immediate words. -/
theorem ofWord_formatI (w : DWord) :
    ∀ p ∈ [((0x02 : BitVec 8), Instr.addi), (0x0B, .andi), (0x0D, .ori), (0x0F, .xori), (0x12, .shli), (0x14, .shri), (0x16, .sari)],
    w.extractLsb' 56 8 = p.1 → ofWord w = p.2 (unpackI w) := by
  intro p hp h
  have hop := opField_toNat h
  simp only [List.mem_cons, List.not_mem_nil, or_false] at hp
  rcases hp with rfl | rfl | rfl | rfl | rfl | rfl | rfl <;>
  · simp only [BitVec.reduceToNat] at hop
    unfold ofWord
    generalize (opField w).toNat = n at hop
    subst hop
    rfl

/-! ## Types of 32 and 64 bits (R150, R151) -/

theorem isInt_iff {ty : BitVec 4} : isInt ty = true ↔ ty = 2 ∨ ty = 3 ∨ ty = 6 ∨ ty = 7 := by
  simp [isInt, or_assoc]

theorem isBits_iff {ty : BitVec 4} : isBits ty = true ↔ ty = 2 ∨ ty = 3 := by
  simp [isBits]

theorem isInt_of_isBits {ty : BitVec 4} (h : isBits ty = true) : isInt ty = true :=
  isInt_iff.mpr ((isBits_iff.mp h).imp_right .inl)

theorem width_eq_two_iff {ty : BitVec 4} : width ty = 2 ↔ ty = 3 ∨ ty = 7 := by
  by_cases h : ty = 3 ∨ ty = 7
  · simp only [width, Bool.or_eq_true, beq_iff_eq, h, if_true]
  · simp only [width, Bool.or_eq_true, beq_iff_eq, h, if_false, iff_false]
    decide

theorem intBits_eq {ty : BitVec 4} (h : isInt ty = true) : intBits ty = if ty = 3 ∨ ty = 7 then 64 else 32 := by
  rcases isInt_iff.mp h with rfl | rfl | rfl | rfl <;> decide

/-- Dest(D) of R174 in the spec's terms: the low 32 or 64 bits. -/
theorem setDest_eq_bitwise (t : Thread) (ty : BitVec 4) (d : BitVec 6) (x : Nat) :
    t.setDest ty d.toNat x = bitwise ty d (fun _ => BitVec.ofNat 32 x) (fun _ => BitVec.ofNat 64 x) t := by
  simp only [Thread.setDest, bitwise, width_eq_two_iff]

/-! ## Naturals and words of n bits (R172) -/

theorem ofNat_mod_two_pow (n x : Nat) : BitVec.ofNat n (x % 2 ^ n) = BitVec.ofNat n x := by
  apply BitVec.eq_of_toNat_eq
  simp

theorem toSigned_toNat {n : Nat} (x : BitVec n) : toSigned n x.toNat = x.toInt := by
  have hx := x.isLt
  rw [toSigned, BitVec.toInt_eq_toNat_cond, Nat.mod_eq_of_lt hx]
  cases n with
  | zero => simp at hx; simp [hx]
  | succ n =>
    have : x.toNat < 2 ^ n ↔ 2 * x.toNat < 2 ^ (n + 1) := by omega
    simp [this]

theorem ofNat_wrapBits (n : Nat) (x : Int) : BitVec.ofNat n (wrapBits n x) = BitVec.ofInt n x := by
  apply BitVec.eq_of_toNat_eq
  rw [BitVec.toNat_ofNat, BitVec.toNat_ofInt, wrapBits]
  have hp : (0 : Int) < (2 ^ n : Nat) := Int.natCast_pos.mpr (Nat.two_pow_pos n)
  have hlt := Int.emod_lt_of_pos x hp
  have hnn := Int.emod_nonneg x (Int.ne_of_gt hp)
  exact Nat.mod_eq_of_lt (by omega)

/-- A signed value reduced to n bits is its sign extension. -/
theorem wrapBits_toInt {m : Nat} (n : Nat) (x : BitVec m) : wrapBits n x.toInt = (x.signExtend n).toNat := by
  rw [BitVec.signExtend, BitVec.toNat_ofInt, wrapBits]

theorem ofNat_and_toNat {n : Nat} (a b : BitVec n) : BitVec.ofNat n (a.toNat &&& b.toNat) = a &&& b := by
  simp [← BitVec.toNat_and]

theorem ofNat_or_toNat {n : Nat} (a b : BitVec n) : BitVec.ofNat n (a.toNat ||| b.toNat) = a ||| b := by
  simp [← BitVec.toNat_or]

theorem ofNat_xor_toNat {n : Nat} (a b : BitVec n) : BitVec.ofNat n (a.toNat ^^^ b.toNat) = a ^^^ b := by
  simp [← BitVec.toNat_xor]

theorem ofNat_not_toNat {n : Nat} (a : BitVec n) : BitVec.ofNat n (2 ^ n - 1 - a.toNat) = ~~~a := by
  simp [← BitVec.toNat_not]

theorem ofNat_add_toNat {n : Nat} (a b : BitVec n) : BitVec.ofNat n (a.toNat + b.toNat) = a + b := by
  simp [BitVec.ofNat_add]

/-- A product by a power of two is a shift to the left, whatever the amount. -/
theorem ofNat_mul_two_pow {n : Nat} (a : BitVec n) (j : Nat) : BitVec.ofNat n (a.toNat * 2 ^ j) = a <<< j := by
  apply BitVec.eq_of_toNat_eq
  rw [BitVec.toNat_ofNat, BitVec.toNat_shiftLeft, Nat.shiftLeft_eq]

/-- A quotient by a power of two is a shift to the right, whatever the amount. -/
theorem ofNat_div_two_pow {n : Nat} (a : BitVec n) (j : Nat) : BitVec.ofNat n (a.toNat / 2 ^ j) = a >>> j := by
  apply BitVec.eq_of_toNat_eq
  rw [BitVec.toNat_ofNat, BitVec.toNat_ushiftRight, Nat.shiftRight_eq_div_pow,
    Nat.mod_eq_of_lt (Nat.lt_of_le_of_lt (Nat.div_le_self _ _) a.isLt)]

/-- An amount of n or more shifts every bit out to the left (R179). -/
theorem ofNat_shl {n : Nat} (a : BitVec n) (j : Nat) : BitVec.ofNat n (if n ≤ j then 0 else a.toNat * 2 ^ j) = a <<< j := by
  split
  · next h => exact (BitVec.shiftLeft_eq_zero h).symm
  · exact ofNat_mul_two_pow a j

/-- An amount of n or more shifts every bit out to the right (R179). -/
theorem ofNat_shr {n : Nat} (a : BitVec n) (j : Nat) : BitVec.ofNat n (if n ≤ j then 0 else a.toNat / 2 ^ j) = a >>> j := by
  split
  · next h => exact (BitVec.ushiftRight_eq_zero h).symm
  · exact ofNat_div_two_pow a j

/-- A signed value of n bits divided by 2^n or by more is 0 or -1, its sign bits. -/
theorem toInt_div_two_pow {n j : Nat} (a : BitVec n) (h : n ≤ j) : a.toInt / ((2 ^ j : Nat) : Int) = if a.toInt < 0 then -1 else 0 := by
  have hlo := BitVec.le_two_mul_toInt (x := a)
  have hhi := BitVec.two_mul_toInt_lt (x := a)
  have hp : (2 : Int) ^ n ≤ ((2 ^ j : Nat) : Int) := by exact_mod_cast Nat.pow_le_pow_right (by decide) h
  split
  · exact Int.ediv_eq_neg_one_of_neg_of_le (by omega) (by omega)
  · exact Int.ediv_eq_zero_of_lt (by omega) (by omega)

/-- Copies of the sign bit come in from above, n of them at most (R178, R179). -/
theorem ofNat_sarNat {n : Nat} (a : BitVec n) (j : Nat) : BitVec.ofNat n (sarNat n a.toNat j) = a.sshiftRight j := by
  rw [sarNat, ofNat_wrapBits, toSigned_toNat, BitVec.sshiftRight_eq, Int.shiftRight_eq_div_pow]
  congr 1
  split
  · next h =>
    have hn := toInt_div_two_pow a (Nat.le_refl n)
    rw [Int.natCast_pow] at hn
    exact hn.trans (toInt_div_two_pow a h).symm
  · push_cast; rfl

/-- The bits that a rotation shifts out at the top come in at the bottom (R179). -/
theorem ofNat_rot {n : Nat} (hn : 0 < n) (a : BitVec n) (j : Nat) :
    BitVec.ofNat n (a.toNat * 2 ^ (j % n) % 2 ^ n + a.toNat / 2 ^ (n - j % n)) = a.rotateLeft (j % n) := by
  have hk : j % n < n := Nat.mod_lt j hn
  generalize j % n = k at hk
  have hsplit : 2 ^ n = 2 ^ (n - k) * 2 ^ k := by rw [← Nat.pow_add]; congr 1; omega
  have hlow : a.toNat / 2 ^ (n - k) < 2 ^ k := Nat.div_lt_of_lt_mul (by rw [← hsplit]; exact a.isLt)
  have hhigh : a.toNat * 2 ^ k % 2 ^ n = 2 ^ k * (a.toNat % 2 ^ (n - k)) := by
    rw [hsplit, Nat.mul_mod_mul_right, Nat.mul_comm]
  have hor : a.toNat * 2 ^ k % 2 ^ n + a.toNat / 2 ^ (n - k) = (a.rotateLeft k).toNat := by
    rw [BitVec.toNat_rotateLeft, Nat.mod_eq_of_lt hk, Nat.shiftLeft_eq, Nat.shiftRight_eq_div_pow, hhigh]
    exact Nat.two_pow_add_eq_or_of_lt hlow _
  rw [hor, BitVec.ofNat_toNat, BitVec.setWidth_eq]

/-! ## The integer words (R177) -/

/-- The fields of the two-source integer words. -/
theorem int2_ok_iff {f : RFmt} {sat : Bool} : (int2 f sat).ok = true ↔
    isInt f.ty = true ∧ f.fn = 0 ∧ f.rm = 0 ∧ f.mod = 0 ∧ (sat = true ∨ f.sat = 0) ∧ f.c = 0 := by
  simp [int2, and_assoc]

/-- The fields of MAD and CLAMP. -/
theorem int3_ok_iff {f : RFmt} {sat : Bool} : (int3 f sat).ok = true ↔
    isInt f.ty = true ∧ f.fn = 0 ∧ f.rm = 0 ∧ f.mod = 0 ∧ (sat = true ∨ f.sat = 0) := by
  simp [int3, and_assoc]

theorem int2_isInt {f : RFmt} {sat : Bool} (h : (int2 f sat).ok = true) : isInt f.ty = true := (int2_ok_iff.mp h).1

theorem int3_isInt {f : RFmt} {sat : Bool} (h : (int3 f sat).ok = true) : isInt f.ty = true := (int3_ok_iff.mp h).1

/-- The model's Val is the spec's. -/
theorem valOf_eq_operand {ty : BitVec 4} (h : isInt ty = true) (t : Thread) (r : BitVec 6) :
    valOf t ty r.toNat = operand ty t r := by
  rcases isInt_iff.mp h with rfl | rfl | rfl | rfl
  · rfl
  · rfl
  · exact toSigned_toNat (t.reg r.toNat)
  · exact toSigned_toNat (t.reg64 r.toNat)

/-- The model's clamp is the spec's (R82). -/
theorem clampTo_eq_saturated {ty : BitVec 4} (h : isInt ty = true) (x : Int) : clampTo ty x = saturated ty x := by
  rcases isInt_iff.mp h with rfl | rfl | rfl | rfl <;> rfl

/-- An integer result in Dest(D) is the deposit of the exact value. -/
theorem setDest_wrapBits {ty : BitVec 4} (h : isInt ty = true) (d : BitVec 6) (x : Int) (t : Thread) :
    t.setDest ty d.toNat (wrapBits (intBits ty) x) = deposit ty d x t := by
  rw [setDest_eq_bitwise, bitwise, deposit, intBits_eq h]
  split
  · rw [ofNat_wrapBits]
  · rw [ofNat_wrapBits]

/-- An integer word deposits its exact result, saturated when SAT is set. -/
theorem intOp_eq_exactWord {f : RFmt} (hty : isInt f.ty = true) {g : Int → Int → Int → Int} {x : Int → Int → Int → Int → Int}
    (hg : ∀ a b c, g a b c = x (intBits f.ty) a b c) (s s' : State) (tid tid' : Nat) (t : Thread) :
    intOp f g s tid t = exactWord x f s' tid' t := by
  have hn : (intBits f.ty : Int) = if width f.ty = 2 then 64 else 32 := by
    simp only [intBits_eq hty, width_eq_two_iff]
    split <;> rfl
  simp only [intOp, exactWord, intResult, setDest_wrapBits hty, valOf_eq_operand hty, clampTo_eq_saturated hty, hg, hn, beq_iff_eq]

/-- The words of an integer type whose exact result is x complete with it. -/
theorem family_exactWord {mk : RFmt → Instr} {g : RFmt → Int → Int → Int → Int} {x : Int → Int → Int → Int → Int}
    (hexec : ∀ f s, exec (mk f) s = lanewise (mk f) s noCheck (intOp f (g f)))
    (hty : ∀ f, (shape (mk f)).ok = true → isInt f.ty = true)
    (hg : ∀ f a b c, g f a b c = x (intBits f.ty) a b c) : Family mk (exactWord x) :=
  completes_of_lanewise hexec fun f hl s s' tid t =>
    intOp_eq_exactWord (hty f (shape_ok_of_legal hl)) (hg f) s s' tid tid t

theorem absd_exact (a b : Int) : ((a - b).natAbs : Int) = if a ≤ b then b - a else a - b := by
  split <;> omega

theorem clamp_exact (a b c : Int) : min (max a b) c = if c < b then c else if c < a then c else if a < b then b else a := by
  split
  · omega
  · split
    · omega
    · split <;> omega

/-- The two-source integer words all have the same shape. -/
theorem shape_int2 {mk : RFmt → Instr} (h : mk ∈ [Instr.add, .sub, .mul, .mulh, .min, .max, .absd]) (f : RFmt) :
    ∃ sat, shape (mk f) = int2 f sat := by
  simp only [List.mem_cons, List.not_mem_nil, or_false] at h
  rcases h with rfl | rfl | rfl | rfl | rfl | rfl | rfl <;> exact ⟨_, rfl⟩

/-- The three-source integer words have the same shape. -/
theorem shape_int3 {mk : RFmt → Instr} (h : mk ∈ [Instr.mad, .clamp]) (f : RFmt) : ∃ sat, shape (mk f) = int3 f sat := by
  simp only [List.mem_cons, List.not_mem_nil, or_false] at h
  rcases h with rfl | rfl <;> exact ⟨_, rfl⟩

/-- The integer words that do not saturate. -/
theorem sat_eq_zero_of_legal {mk : RFmt → Instr} (h : mk ∈ [Instr.mulh, .min, .max, .absd, .clamp]) {f : RFmt}
    (hl : legal (mk f) = true) : f.sat = 0 := by
  have hok := shape_ok_of_legal hl
  have hshape : shape (mk f) = int2 f false ∨ shape (mk f) = int3 f false := by
    simp only [List.mem_cons, List.not_mem_nil, or_false] at h
    rcases h with rfl | rfl | rfl | rfl | rfl
    · exact .inl rfl
    · exact .inl rfl
    · exact .inl rfl
    · exact .inl rfl
    · exact .inr rfl
  rcases hshape with e | e <;> rw [e] at hok
  · obtain ⟨-, -, -, -, hsat, -⟩ := int2_ok_iff.mp hok
    simpa using hsat
  · obtain ⟨-, -, -, -, hsat⟩ := int3_ok_iff.mp hok
    simpa using hsat

/-- Settles O1: each word acts lane by lane, and its meaning on a lane is the deposit of the exact result. -/
theorem integerResults : Obligations.IntegerResults := by
  refine ⟨fun w p hp => ofWord_formatR w p (List.mem_append_left _ hp), ?two, ?three,
    fun f mk hmk hl => sat_eq_zero_of_legal hmk hl, ?add, ?sub, ?mul, ?mulh, ?mad, ?min, ?max, ?absd, ?clamp⟩
  case two =>
    intro f mk hmk hl
    obtain ⟨sat, e⟩ := shape_int2 hmk f
    obtain ⟨hty, hfn, hrm, hmod, -, hc⟩ := int2_ok_iff.mp (e ▸ shape_ok_of_legal hl)
    exact ⟨isInt_iff.mp hty, hfn, hrm, hmod, hc⟩
  case three =>
    intro f mk hmk hl
    obtain ⟨sat, e⟩ := shape_int3 hmk f
    obtain ⟨hty, hfn, hrm, hmod, -⟩ := int3_ok_iff.mp (e ▸ shape_ok_of_legal hl)
    exact ⟨isInt_iff.mp hty, hfn, hrm, hmod⟩
  case add | sub | mul | mulh | min | max =>
    exact family_exactWord (fun _ _ => rfl) (fun _ => int2_isInt) fun _ _ _ _ => rfl
  case mad => exact family_exactWord (fun _ _ => rfl) (fun _ => int3_isInt) fun _ _ _ _ => rfl
  case absd => exact family_exactWord (fun _ _ => rfl) (fun _ => int2_isInt) fun _ a b _ => absd_exact a b
  case clamp => exact family_exactWord (fun _ _ => rfl) (fun _ => int3_isInt) fun _ a b c => clamp_exact a b c

/-! ## The immediate words (R178) -/

/-- The fields of the immediate words. -/
theorem immOp_ok_iff {f : IFmt} {shift : Bool} : (immOp f shift).ok = true ↔
    (f.fn = 0 ∨ f.fn = 1) ∧ f.mod = 0 ∧ (shift = true → f.imm.toNat < if f.fn = 1 then 64 else 32) := by
  cases shift
  · simp [immOp]
  · have hn : 32 * (if f.fn = 1 then 2 else 1) = if f.fn = 1 then 64 else 32 := by split <;> rfl
    simp only [immOp, Bool.and_eq_true, Bool.or_eq_true, beq_iff_eq, decide_eq_true_eq, Bool.not_true, Bool.false_eq_true, false_or,
      and_assoc, forall_const, hn]

/-- An immediate word is 64 bits wide with FN 1, else 32. -/
theorem immBits_eq (f : IFmt) : immBits f = if f.fn = 1 then 64 else 32 := by simp [immBits]

/-- The immediate as a natural is the sign extension to the word's width. -/
theorem immNat_eq_toNat_signExtend {f : IFmt} {n : Nat} (hn : n = immBits f) : immNat f = (f.imm.signExtend n).toNat := by
  rw [immNat, ← hn, immVal, wrapBits_toInt]

/-- A shift count below the width is what the sign-extended immediate reads as. -/
theorem toNat_signExtend_imm {f : IFmt} (h : f.imm.toNat < immBits f) : (f.imm.signExtend (immBits f)).toNat = f.imm.toNat := by
  have hb : immBits f = 32 ∨ immBits f = 64 := by rw [immBits_eq]; split <;> simp
  have hmsb : f.imm.msb = false := by rw [BitVec.msb_eq_false_iff_two_mul_lt]; omega
  rw [BitVec.signExtend_eq_setWidth_of_msb_false hmsb, BitVec.toNat_setWidth]
  exact Nat.mod_eq_of_lt (Nat.lt_trans h Nat.lt_two_pow_self)

/-- An immediate word whose function on naturals is h on words of its width. -/
theorem immFn_eq_immWord {f : IFmt} {g : Nat → Nat} {h : ∀ n, BitVec n → BitVec n → BitVec n}
    (hg : ∀ n, n = immBits f → ∀ a : BitVec n, BitVec.ofNat n (g a.toNat) = h n a (f.imm.signExtend n))
    (s s' : State) (tid tid' : Nat) (t : Thread) : immFn f g s tid t = immWord (h 32) (h 64) f s' tid' t := by
  by_cases hfn : f.fn = 1
  · have h64 := hg 64 (by rw [immBits_eq, if_pos hfn])
    simp only [immFn, immWord, immSrc, immBits_eq, hfn, beq_self_eq_true, if_true, ofNat_mod_two_pow, h64]
  · have h32 := hg 32 (by rw [immBits_eq, if_neg hfn])
    simp only [immFn, immWord, immSrc, immBits_eq, hfn, beq_iff_eq, if_false, ofNat_mod_two_pow, h32]

/-- The immediate words whose function on naturals is h on words of their width complete with it. -/
theorem family_immWord {mk : IFmt → Instr} {shift : Bool} {g : IFmt → Nat → Nat} {h : ∀ n, BitVec n → BitVec n → BitVec n}
    (hexec : ∀ f s, exec (mk f) s = lanewise (mk f) s noCheck (immFn f (g f))) (hshape : ∀ f, shape (mk f) = immOp f shift)
    (hg : ∀ f, (shift = true → f.imm.toNat < immBits f) → ∀ n, n = immBits f → ∀ a : BitVec n,
      BitVec.ofNat n (g f a.toNat) = h n a (f.imm.signExtend n)) : FamilyI mk (immWord (h 32) (h 64)) :=
  completes_of_lanewise hexec fun f hl s s' tid t => by
    obtain ⟨-, -, hcount⟩ := immOp_ok_iff.mp (hshape f ▸ shape_ok_of_legal hl)
    exact immFn_eq_immWord (hg f (by rwa [immBits_eq])) s s' tid tid t

/-- The immediate words, each with whether it shifts, act lane by lane and share their shape. -/
theorem immediate_lanewise {f : IFmt} {p : Instr × Bool} (h : p ∈ [(Instr.addi f, false), (.andi f, false), (.ori f, false),
    (.xori f, false), (.shli f, true), (.shri f, true), (.sari f, true)]) :
    shape p.1 = immOp f p.2 ∧ ∃ op, ∀ s, exec p.1 s = lanewise p.1 s noCheck op := by
  simp only [List.mem_cons, List.not_mem_nil, or_false] at h
  rcases h with rfl | rfl | rfl | rfl | rfl | rfl | rfl <;> exact ⟨rfl, _, fun _ => rfl⟩

/-- An immediate word with another FN, a MOD that is not 0 or a shift count outside 0 to n - 1 is illegal. -/
theorem immediate_illegal {i : Instr} {f : IFmt} {shift : Bool} (hshape : shape i = immOp f shift)
    (hbad : f.fn ≠ 0 ∧ f.fn ≠ 1 ∨ f.mod ≠ 0 ∨ shift = true ∧ (if f.fn = 1 then 64 else 32) ≤ f.imm.toNat) : legal i = false := by
  cases hl : legal i
  · rfl
  · obtain ⟨hfn, hmod, hcount⟩ := immOp_ok_iff.mp (hshape ▸ shape_ok_of_legal hl)
    rcases hbad with ⟨h0, h1⟩ | h | ⟨h, hle⟩
    · exact (hfn.elim h0 h1).elim
    · exact (h hmod).elim
    · exact absurd (hcount h) (Nat.not_lt.mpr hle)

/-- The immediate words have one shape, the shifts among them with a bounded count. -/
theorem shape_immediate {mk : IFmt → Instr} (h : mk ∈ [Instr.addi, .andi, .ori, .xori, .shli, .shri, .sari]) (f : IFmt) :
    ∃ shift, shape (mk f) = immOp f shift := by
  simp only [List.mem_cons, List.not_mem_nil, or_false] at h
  rcases h with rfl | rfl | rfl | rfl | rfl | rfl | rfl <;> exact ⟨_, rfl⟩

/-- The immediate shifts are those whose count is bounded. -/
theorem shape_immediate_shift {mk : IFmt → Instr} (h : mk ∈ [Instr.shli, .shri, .sari]) (f : IFmt) : shape (mk f) = immOp f true := by
  simp only [List.mem_cons, List.not_mem_nil, or_false] at h
  rcases h with rfl | rfl | rfl <;> rfl

/-- Settles O2: an illegal word traps, and a legal one computes at its width on the sign-extended immediate. -/
theorem immediateResults : Obligations.ImmediateResults := by
  refine ⟨ofWord_formatI, ?traps, ?fields, ?counts, ?addi, ?andi, ?ori, ?xori, ?shli, ?shri, ?sari⟩
  case traps =>
    intro f s l p hp hi hl hs hbad
    obtain ⟨hshape, op, hexec⟩ := immediate_lanewise hp
    rw [hexec]
    exact lanewise_traps_of_illegal hi hl hs (immediate_illegal hshape hbad) _ _
  case fields =>
    intro f mk hmk hl
    obtain ⟨shift, e⟩ := shape_immediate hmk f
    obtain ⟨hfn, hmod, -⟩ := immOp_ok_iff.mp (e ▸ shape_ok_of_legal hl)
    exact ⟨hfn, hmod⟩
  case counts =>
    intro f mk hmk hl
    obtain ⟨-, -, hcount⟩ := immOp_ok_iff.mp (shape_immediate_shift hmk f ▸ shape_ok_of_legal hl)
    exact hcount rfl
  case addi =>
    refine family_immWord (h := fun _ a x => a + x) (fun _ _ => rfl) (fun _ => rfl) fun f _ n hn a => ?_
    rw [immNat_eq_toNat_signExtend hn, ofNat_add_toNat]
  case andi =>
    refine family_immWord (h := fun _ a x => a &&& x) (fun _ _ => rfl) (fun _ => rfl) fun f _ n hn a => ?_
    rw [immNat_eq_toNat_signExtend hn, ofNat_and_toNat]
  case ori =>
    refine family_immWord (h := fun _ a x => a ||| x) (fun _ _ => rfl) (fun _ => rfl) fun f _ n hn a => ?_
    rw [immNat_eq_toNat_signExtend hn, ofNat_or_toNat]
  case xori =>
    refine family_immWord (h := fun _ a x => a ^^^ x) (fun _ _ => rfl) (fun _ => rfl) fun f _ n hn a => ?_
    rw [immNat_eq_toNat_signExtend hn, ofNat_xor_toNat]
  case shli =>
    refine family_immWord (h := fun _ a x => a <<< x.toNat) (fun _ _ => rfl) (fun _ => rfl) fun f hc n hn a => ?_
    subst hn
    rw [toNat_signExtend_imm (hc rfl), ofNat_mul_two_pow]
  case shri =>
    refine family_immWord (h := fun _ a x => a >>> x.toNat) (fun _ _ => rfl) (fun _ => rfl) fun f hc n hn a => ?_
    subst hn
    rw [toNat_signExtend_imm (hc rfl), ofNat_div_two_pow]
  case sari =>
    refine family_immWord (h := fun _ a x => a.sshiftRight x.toNat) (fun _ _ => rfl) (fun _ => rfl) fun f hc n hn a => ?_
    subst hn
    rw [toNat_signExtend_imm (hc rfl), ofNat_sarNat]

/-! ## The logical and shift words (R179) -/

/-- FN, RM, SAT and MOD of a plain word. -/
theorem plainR_iff {f : RFmt} : plainR f = true ↔ f.fn = 0 ∧ f.rm = 0 ∧ f.sat = 0 ∧ f.mod = 0 := by
  simp [plainR, and_assoc]

theorem logic2_ok_iff {f : RFmt} : (logic2 f).ok = true ↔ isBits f.ty = true ∧ plainR f = true ∧ f.c = 0 := by
  simp [logic2, and_assoc]

theorem bits1_ok_iff {f : RFmt} {r : Nat} : (bits1 f r).ok = true ↔ isBits f.ty = true ∧ plainR f = true ∧ f.b = 0 ∧ f.c = 0 := by
  simp [bits1, and_assoc]

theorem shift_ok_iff {f : RFmt} : (shift f false).ok = true ↔ isBits f.ty = true ∧ plainR f = true ∧ f.c = 0 := by
  simp [shift, and_assoc]

theorem shift_signed_ok_iff {f : RFmt} : (shift f true).ok = true ↔ (f.ty = 6 ∨ f.ty = 7) ∧ plainR f = true ∧ f.c = 0 := by
  simp [shift, and_assoc]

/-- A word on two raw sources is h on words of its width. -/
theorem bitOp_eq_rawWord {f : RFmt} (hty : isInt f.ty = true) {g : Nat → Nat → Nat → Nat} {h : ∀ n, BitVec n → BitVec n → BitVec n}
    (hg : ∀ n (a b : BitVec n), BitVec.ofNat n (g n a.toNat b.toNat) = h n a b) (s s' : State) (tid tid' : Nat) (t : Thread) :
    bitOp f g s tid t = rawWord (h 32) (h 64) f s' tid' t := by
  simp only [bitOp, rawWord, setDest_eq_bitwise, bitwise, rawOf, width_eq_two_iff, intBits_eq hty]
  split
  · rw [ofNat_mod_two_pow, hg]
  · rw [ofNat_mod_two_pow, hg]

/-- A word on a raw source and a shift amount in one register is h on words of its width. -/
theorem shiftOp_eq_shiftWord {f : RFmt} (hty : isInt f.ty = true) {g : Nat → Nat → Nat → Nat} {h : ∀ n, BitVec n → Nat → BitVec n}
    (hg : ∀ n, 0 < n → ∀ (a : BitVec n) j, BitVec.ofNat n (g n a.toNat j) = h n a j) (s s' : State) (tid tid' : Nat) (t : Thread) :
    shiftOp f g s tid t = shiftWord (h 32) (h 64) f s' tid' t := by
  simp only [shiftOp, shiftWord, setDest_eq_bitwise, bitwise, rawOf, width_eq_two_iff, intBits_eq hty]
  split
  · rw [ofNat_mod_two_pow, hg 64 (by decide)]
  · rw [ofNat_mod_two_pow, hg 32 (by decide)]

/-- The words on two raw sources whose function on naturals is h on words of their width complete with it. -/
theorem family_rawWord {mk : RFmt → Instr} {g : Nat → Nat → Nat → Nat} {h : ∀ n, BitVec n → BitVec n → BitVec n}
    (hexec : ∀ f s, exec (mk f) s = lanewise (mk f) s noCheck (bitOp f g))
    (hty : ∀ f, (shape (mk f)).ok = true → isInt f.ty = true)
    (hg : ∀ n (a b : BitVec n), BitVec.ofNat n (g n a.toNat b.toNat) = h n a b) : Family mk (rawWord (h 32) (h 64)) :=
  completes_of_lanewise hexec fun f hl s s' tid t => bitOp_eq_rawWord (hty f (shape_ok_of_legal hl)) hg s s' tid tid t

/-- The words on a raw source and a shift amount whose function on naturals is h on words of their width complete with it. -/
theorem family_shiftWord {mk : RFmt → Instr} {g : Nat → Nat → Nat → Nat} {h : ∀ n, BitVec n → Nat → BitVec n}
    (hexec : ∀ f s, exec (mk f) s = lanewise (mk f) s noCheck (shiftOp f g))
    (hty : ∀ f, (shape (mk f)).ok = true → isInt f.ty = true)
    (hg : ∀ n, 0 < n → ∀ (a : BitVec n) j, BitVec.ofNat n (g n a.toNat j) = h n a j) : Family mk (shiftWord (h 32) (h 64)) :=
  completes_of_lanewise hexec fun f hl s s' tid t => shiftOp_eq_shiftWord (hty f (shape_ok_of_legal hl)) hg s s' tid tid t

/-- The unsigned words of R179 are plain words on raw bits. -/
theorem bits_of_ok {mk : RFmt → Instr} (h : mk ∈ [Instr.and, .or, .xor, .not, .shl, .shr, .rot]) {f : RFmt}
    (hok : (shape (mk f)).ok = true) : isBits f.ty = true ∧ plainR f = true := by
  have hshape : shape (mk f) = logic2 f ∨ shape (mk f) = bits1 f 2 ∨ shape (mk f) = shift f false := by
    simp only [List.mem_cons, List.not_mem_nil, or_false] at h
    rcases h with rfl | rfl | rfl | rfl | rfl | rfl | rfl
    · exact .inl rfl
    · exact .inl rfl
    · exact .inl rfl
    · exact .inr (.inl rfl)
    · exact .inr (.inr rfl)
    · exact .inr (.inr rfl)
    · exact .inr (.inr rfl)
  rcases hshape with e | e | e <;> rw [e] at hok
  · exact (logic2_ok_iff.mp hok).imp_right And.left
  · exact (bits1_ok_iff.mp hok).imp_right And.left
  · exact (shift_ok_iff.mp hok).imp_right And.left

/-- Settles O3: each word acts lane by lane, and its function on naturals is the word operation at 32 and at 64 bits. -/
theorem logicAndShiftResults : Obligations.LogicAndShiftResults := by
  have hbits {mk : RFmt → Instr} (hmk : mk ∈ [Instr.and, .or, .xor, .not, .shl, .shr, .rot]) (f : RFmt)
      (hok : (shape (mk f)).ok = true) : isInt f.ty = true := isInt_of_isBits (bits_of_ok hmk hok).1
  have hsigned (f : RFmt) (hok : (shape (.sar f)).ok = true) : isInt f.ty = true :=
    isInt_iff.mpr (.inr (.inr (shift_signed_ok_iff.mp hok).1))
  refine ⟨fun w p hp => ofWord_formatR w p (List.mem_append_right _ hp), ?fields, ?sarFields, ?notFields,
    ?and, ?or, ?xor, ?not, ?shl, ?shr, ?sar, ?rot⟩
  case fields =>
    intro f mk hmk hl
    obtain ⟨hty, hplain⟩ := bits_of_ok hmk (shape_ok_of_legal hl)
    exact ⟨isBits_iff.mp hty, plainR_iff.mp hplain⟩
  case sarFields =>
    intro f hl
    obtain ⟨hty, hplain, -⟩ := shift_signed_ok_iff.mp (shape_ok_of_legal hl)
    exact ⟨hty, plainR_iff.mp hplain⟩
  case notFields =>
    intro f hl
    obtain ⟨-, -, hb, -⟩ := bits1_ok_iff.mp (shape_ok_of_legal hl)
    exact hb
  case and => exact family_rawWord (h := fun _ a b => a &&& b) (fun _ _ => rfl) (hbits (by simp)) fun _ a b => ofNat_and_toNat a b
  case or => exact family_rawWord (h := fun _ a b => a ||| b) (fun _ _ => rfl) (hbits (by simp)) fun _ a b => ofNat_or_toNat a b
  case xor => exact family_rawWord (h := fun _ a b => a ^^^ b) (fun _ _ => rfl) (hbits (by simp)) fun _ a b => ofNat_xor_toNat a b
  case not => exact family_rawWord (h := fun _ a _ => ~~~a) (fun _ _ => rfl) (hbits (by simp)) fun _ a _ => ofNat_not_toNat a
  case shl =>
    exact family_shiftWord (h := fun _ a j => a <<< j) (fun _ _ => rfl) (hbits (by simp)) fun _ _ a j => ofNat_shl a j
  case shr =>
    exact family_shiftWord (h := fun _ a j => a >>> j) (fun _ _ => rfl) (hbits (by simp)) fun _ _ a j => ofNat_shr a j
  case sar =>
    exact family_shiftWord (h := fun _ a j => a.sshiftRight j) (fun _ _ => rfl) hsigned fun _ _ a j => ofNat_sarNat a j
  case rot =>
    exact family_shiftWord (h := fun n a j => a.rotateLeft (j % n)) (fun _ _ => rfl) (hbits (by simp)) fun _ hn a j => ofNat_rot hn a j

end Sys2Proof.Machine
end
